-- ==== Sys2Proof/Word.lean ====
section
/-!
DEFINITION. The plainest words and number helpers of the model: bytes, FP32 words, saturating
counters, little-endian assembly of bytes (R5, R6, R7) and sorted association lists.
-/

namespace Sys2Proof

/-- One byte. -/
abbrev Byte := BitVec 8

/-- One FP32 word (Table 5.1). -/
abbrev F32 := BitVec 32

/-- Bits [hi:lo] of a natural number (R5). -/
def bitsOf (w hi lo : Nat) : Nat := (w / 2 ^ lo) % 2 ^ (hi + 1 - lo)

/-- Bit [n] of a natural number (R5). -/
def bitOf (w n : Nat) : Bool := (w / 2 ^ n) % 2 == 1

/-- A field value placed at bit `lo`. -/
def putBits (v lo : Nat) : Nat := v * 2 ^ lo

/-- A flag as a number. -/
def bnat (b : Bool) : Nat := if b then 1 else 0

/-- The `n` little-endian bytes of a number (R6). -/
def leBytes : Nat → Nat → List Byte
  | 0, _ => []
  | n + 1, v => BitVec.ofNat 8 v :: leBytes n (v / 256)

/-- The number that little-endian bytes spell (R6). -/
def leNat : List Byte → Nat
  | [] => 0
  | b :: bs => b.toNat + 256 * leNat bs

/-- `n` zero bytes. -/
def zeroBytes (n : Nat) : List Byte := List.replicate n 0#8

/-- The `n` bytes from offset `off`, padded with zeros past the end. -/
def sliceBytes (bs : List Byte) (off n : Nat) : List Byte :=
  let t := (bs.drop off).take n
  t ++ zeroBytes (n - t.length)

/-- The little-endian field of `n` bytes at offset `off` (R6, R7). -/
def fieldAt (bs : List Byte) (off n : Nat) : Nat := leNat (sliceBytes bs off n)

/-- Every byte of a list is zero. -/
def allZero (bs : List Byte) : Bool := bs.all (· == 0#8)

/-- The least multiple of 8 that is not below `n`. -/
def pad8 (n : Nat) : Nat := (n + 7) / 8 * 8

/-- Division rounded up. -/
def ceilDiv' (a b : Nat) : Nat := (a + b - 1) / b

/-- Inserts an element before the first that it may stand before. -/
def insertBy {α : Type} (le : α → α → Bool) (a : α) : List α → List α
  | [] => [a]
  | b :: l => if le a b then a :: b :: l else b :: insertBy le a l

/-- A list in ascending order; equal elements keep their order. -/
def sortBy {α : Type} (le : α → α → Bool) (l : List α) : List α := l.foldr (insertBy le) []

/-- A counter that saturates at `2^32 - 1`. -/
def sat32 (n : Nat) : Nat := min n 0xFFFFFFFF

/-- A counter that saturates at `2^64 - 1`. -/
def sat64 (n : Nat) : Nat := min n 0xFFFFFFFFFFFFFFFF

/-- Reads a sorted association list, with a value for a key that is not listed. -/
def mget {α : Type} (d : α) : List (Nat × α) → Nat → α
  | [], _ => d
  | (k, v) :: m, i => if k = i then v else mget d m i

/-- Reads a sorted association list. -/
def mfind {α : Type} : List (Nat × α) → Nat → Option α
  | [], _ => none
  | (k, v) :: m, i => if k = i then some v else mfind m i

/-- Writes a sorted association list, keeping the keys rising. -/
def mset {α : Type} : List (Nat × α) → Nat → α → List (Nat × α)
  | [], i, x => [(i, x)]
  | (k, v) :: m, i, x =>
    if i < k then (i, x) :: (k, v) :: m
    else if i = k then (i, x) :: m
    else (k, v) :: mset m i x

/-- Removes a key of an association list. -/
def mdel {α : Type} : List (Nat × α) → Nat → List (Nat × α)
  | [], _ => []
  | (k, v) :: m, i => if k = i then mdel m i else (k, v) :: mdel m i

/-- Replaces element `i` of a list. -/
def lset {α : Type} (l : List α) (i : Nat) (x : α) : List α := l.set i x

end Sys2Proof
end

