-- ==== Sys2Proof/Syntax.lean ====
section
/-!
DEFINITION. The commands of the block: one constructor of `Instr` per row of spec/opcode_table.json, with
the operands that reach the block with it (the bytes of a packet, a register access, the readings of a
sensor). The rows give no bits and no fields, so the operands are the model's choice (DESIGN CHOICE, log 1).
-/

namespace Sys2Proof

/-- The native header of Table 9.3 (R266). -/
structure NativeHdr where
  verMajor : Nat
  verMinor : Nat
  typ : Nat
  length : Nat
  final : Bool
  spec : Bool
  lc : Bool
  route : Nat
  tenant : Nat
  epoch : Nat
  src : Nat
  dst : Nat
  hcrc : Nat
  ingressTs : Nat
  mseq : Nat
  /-- BUF_INDEX and BUF_GEN of an RMA packet, STATUS_ARG of a response. -/
  word : Nat
  offset : Nat
  conn : Nat
  deriving DecidableEq, Repr

/-- What the port found of the outer frame of a packet in Ethernet mode (R275 to R277). -/
structure EthFrame where
  /-- the first (`false`) or second (`true`) Ethernet port of mode 0b10 -/
  portB : Bool
  dstMac : Nat
  extensionOrFragment : Bool
  udpChecksumGood : Bool
  udpPort : Nat
  macsecGood : Bool
  deriving DecidableEq, Repr

/-- One received packet: the header, its payload, the GCM tag of a protected connection (R285) and, in
Ethernet mode, the outer frame. `linkGood`: the link FEC and frame CRC, or the FCS, hold. -/
structure Packet where
  hdr : NativeHdr
  payload : List Byte
  tag : List Byte
  linkGood : Bool
  eth : Option EthFrame
  deriving DecidableEq, Repr

/-- Where a request came from, and where its response goes (R299, R354). -/
inductive Origin where
  /-- a message of a connection: this node's ID, the MSEQ, the arrival port -/
  | fabric (conn mseq port : Nat)
  /-- a ring REQUEST: partition, ring, the index of the fetched entry -/
  | ring (part ring idx : Nat)
  deriving DecidableEq, Repr

/-- One complete request (R107): its header fields and its body. -/
structure Req where
  origin : Origin
  tenant : Nat
  epoch : Nat
  lc : Bool
  spec : Bool
  arrival : Nat
  body : List Byte
  deriving DecidableEq, Repr

/-- A session role (R375); `none`: no session. -/
inductive Role where
  | none
  | operator
  | board
  | tenant (n : Nat)
  deriving DecidableEq, Repr

/-- One management command (R454, R455, Table 12.5): who issues it, its arguments and its input. -/
structure MgmtCmd where
  role : Role
  port : Nat
  session : Nat
  mseq : Nat
  cmdId : Nat
  arg0 : Nat
  arg1 : Nat
  arg2 : Nat
  arg3 : Nat
  input : List Byte
  deriving DecidableEq, Repr

/-- One cocoon command in a mailbox message (R397): the mailbox it came by, the role of its session and the
payload (CODE, PLEN, parameters). -/
structure CocoonCmd where
  inst : Nat
  role : Role
  payload : List Byte
  deriving DecidableEq, Repr

/-- The result of the two signature checks of an image or token (R442, R453): what the cocoon's Ed25519 and
ML-DSA-65 verifiers answer. -/
structure SigCheck where
  ed : Bool
  mldsa : Bool
  deriving DecidableEq, Repr

/-- What a cold-start phase meets outside the digital state (Table 15.1). -/
structure PhaseInput where
  /-- phase 1: the cocoon's ROM self-tests pass (R394) -/
  selfTestGood : Bool
  /-- phase 4: the verifiers' answers for the firmware image (R442) -/
  sig : SigCheck
  deriving DecidableEq, Repr

/-- The outcome of reading one codeword (R204, Table 14.8). -/
inductive ReadOutcome where
  | clean
  | correctable
  | uncorrectable
  deriving DecidableEq, Repr

/-- Errors of a codeword as it is read: symbol and what is added to it (R204). -/
abbrev SymErrors := List (Nat × Byte)

/-- The row operations that firmware issues (Table 6.5). -/
inductive FwOp where
  | zero
  | copy
  | and_
  | or_
  | xor_
  | reencode
  deriving DecidableEq, Repr

/-- What enters the queues of a pseudo-channel's controller. -/
inductive PcArrival where
  /-- a request's read or write in a bank group, `ago` base-die cycles before the present edge -/
  | ordinary (bg ago : Nat)
  /-- firmware reads a row of its data slice -/
  | fwRead (bank row : Nat)
  /-- firmware writes 64 bytes of its data slice: `unit` is the codeword of the row -/
  | fwWrite (bank row unit : Nat) (data : List Byte)
  /-- firmware issues a row operation (R201) -/
  | fwRow (op : FwOp) (srcBg srcRow src2Row dstBg dstRow mask : Nat)
  deriving DecidableEq, Repr

/-- A moment of a pseudo-channel's controller, and what enters its queues during it. -/
structure PcEvent where
  pc : Nat
  arrived : List PcArrival
  deriving DecidableEq, Repr

/-- An operation of the directory (R87 to R90) and the partition and class that issue it. -/
inductive DirOp where
  | search (key : BitVec 96)
  | insert (key : BitVec 96) (pri data : Nat)
  | delete (addr : Nat)
  deriving DecidableEq, Repr

/-- A directory operation on its way to a die. -/
structure DirReq where
  part : Nat
  lc : Bool
  op : DirOp
  deriving DecidableEq, Repr

/-- What the CXL partner offers at training (R344, R345). -/
structure CxlPartner where
  cxl : Bool
  flit256 : Bool
  latOpt : Bool
  width : Nat
  speed : Nat
  viralEnable : Bool
  deriving DecidableEq, Repr

/-- An SPDM message at a mailbox or in the management framing (R375, R376). -/
inductive SpdmMsg where
  /-- KEY_EXCHANGE and its completion: the requester's role as its certificate chain proves it, and whether
  the exchange authenticates -/
  | keyExchange (role : Role) (sid : Nat) (authentic : Bool)
  /-- END_SESSION -/
  | endSession (sid : Nat)
  /-- any other SPDM request outside the vendor commands (GET_VERSION and so on) -/
  | other (bytes : List Byte)
  deriving DecidableEq, Repr

/-- A management message as received (R454, Table 15.12). -/
structure MgmtMsg where
  port : Nat
  mver : Nat
  mtype : Nat
  secured : Bool
  session : Nat
  mseq : Nat
  payload : List Byte
  deriving DecidableEq, Repr

/-- JTAG instructions (R467, Table 16.5). -/
inductive JtagInstr where
  | bypass
  | idcode
  | samplePreload
  | extest
  | extestPulse
  | extestTrain
  /-- a run of a test; `reference` for classes 0x5 and 0x6 -/
  | bist (testId : Nat) (reference : Nat)
  | internalScan
  deriving DecidableEq, Repr

/-- A message to a DOE mailbox (R344, Table 12.1). -/
inductive DoeMsg where
  | spdm (bytes : List Byte)
  /-- IDE_KM sets the keys and starts the stream: `true` CXL.cachemem, `false` CXL.io -/
  | ideKeySetGo (cacheMem : Bool) (key : BitVec 256)
  | ideKeyStop (cacheMem : Bool)
  | cdat (bytes : List Byte)
  deriving DecidableEq, Repr

/-- What a self-test run captured (R460). -/
structure BistCapture where
  words : List (BitVec 64)
  laneFail : Nat
  bitErrors : Nat
  deriving DecidableEq, Repr

/-- The end of a test: what it captured, and whether the check frame of R464 step 4 held. -/
structure BistEnd where
  cap : BistCapture
  checkGood : Bool
  deriving DecidableEq, Repr

/-- Who accesses the register window (Table 13.3). -/
inductive Agent where
  | bar0
  | mgmt (role : Role)
  deriving DecidableEq, Repr

/-- The commands: one constructor per row of the table, in its order. -/
inductive Instr where
  | powerOn (railsGood : Bool)
  | coldStartPhase (inp : PhaseInput)
  | powerFail
  | tamperEvent
  | cocoonSelfTestFail
  | watchdogExpire
  | timebaseTick
  | timebaseMarkerSend (port : Nat)
  | timebaseMarkerReceive (port : Nat) (peerSend peerLastRx at_ : Nat)
  | holdoverExpire
  | linkUp (port : Nat) (peerVersions lanes : Nat) (second : Bool)
  | linkDown (port : Nat) (goodLanes : Nat)
  | packetReceive (port at_ : Nat) (pkt : Packet)
  | connRecordFetch (die : Nat) (good : Bool)
  | windowBaseAdvance (conn : Nat)
  | connOpen (port at_ : Nat) (pkt : Packet)
  | connAccept (port at_ : Nat) (pkt : Packet)
  | connClose (port at_ : Nat) (pkt : Packet)
  | connClosed (port at_ : Nat) (pkt : Packet)
  | quarantineEnd (conn : Nat)
  | attDecode (r : Req)
  | attPrefill (r : Req)
  | attBackward (r : Req)
  | backwardHoldTimeout (mdb layer index : Nat)
  | kvAppend (r : Req)
  | kvAppendSpec (r : Req)
  | heldAppendResume
  | specCommit (r : Req)
  | specAbort (r : Req)
  | tailDeadlineDrop (mdb : Nat)
  | seqOpen (r : Req)
  | seqClose (r : Req)
  | seqClone (r : Req)
  | prefixLookup (r : Req)
  | swapOut (r : Req)
  | swapIn (r : Req)
  | demandSwapInDone (mdb : Nat)
  | stallTimeout (conn mseq : Nat)
  | checkpoint (r : Req)
  | restore (r : Req) (remote : List Byte)
  | merge (r : Req)
  | rmaWrite (port at_ : Nat) (pkt : Packet)
  | rmaWriteFinal (port at_ : Nat) (pkt : Packet)
  | rmaRead (r : Req) (index gen : Nat)
  | responseReceive (pkt : Packet)
  | retransmitTimeout (conn mseq : Nat)
  | messageAbandon (conn mseq : Nat)
  | newerEpochHoldExpire (conn mseq : Nat)
  | epochAdopt
  | graceEnd
  | frondSwitch
  | directoryQuotaWindow
  | directoryOperation (die : Nat) (arrive : Option DirReq)
  | directoryScrub (die : Nat) (found : ReadOutcome)
  | sensorSample (raw : List (Option Int))
  | powerMeasure (watts : Nat)
  | powerFrameEnd
  | fastEvent (ocw : Nat)
  | throttleLatch
  | healthDecay
  | refreshDue (pc bg : Nat)
  | slotGrant (e : PcEvent)
  | mossBodyEnd (e : PcEvent)
  | mossTaskDone (pc : Nat)
  | rowCheckDone (e : PcEvent) (found : List (Nat × SymErrors))
  | rowOperationEnd (e : PcEvent)
  | hbmScrub (pc : Nat) (found : SymErrors)
  | memoryError (pc bank row unit : Nat) (first : SymErrors) (rereads : List SymErrors)
  | pageRepair (pc bank row : Nat)
  | pcRetire (pc : Nat)
  | laneErrorWindow (lane replays : Nat) (retrained : Bool)
  | dieLost (die : Nat)
  | engineIssue (core : Nat)
  | corruptBlockReread (core page block : Nat) (good deterministic : Bool) (stall : Nat)
  | workItem (core skipper : Nat)
  | contextSwitch (core : Nat) (skipper : Option Nat) (part ns : Nat)
  | jobPlace (group : Nat)
  | pageTaskCreate (part : Nat)
  | pageTaskDone (task : Nat)
  | pageFree (page : Nat)
  | preemptionPass (part : Nat)
  | preemptRetry (part : Nat)
  | eviction (part : Nat)
  | stagePage (mdb stream index : Nat)
  | stageTtlExpire (page : Nat)
  | replicaApply (conn mseq : Nat)
  | pageFetchReply (conn mseq : Nat)
  | pageFetchTimeout (mdb rseq : Nat)
  | rebuildStart
  | rebuildPage (mdb : Nat)
  | placementRead (mdb : Nat) (answer : Option (List Byte))
  | reencryptWalk (part : Nat)
  | keySlotSwitch (part : Nat)
  | policerRefill
  | shaperRefill
  | tcChangeApply
  | portTransmit (port : Nat)
  | queueSample
  | registerWrite (agent : Agent) (offset width : Nat) (value : Option Nat)
  | dvsecSelect (value : Nat)
  | sqDoorbell (part ring tail : Nat)
  | cqDoorbell (part ring head : Nat)
  | ringDrainDone (part ring : Nat)
  | commandFetch (part ring : Nat) (input : Option (List Byte))
  | nop (part ring idx : Nat)
  | request (part ring idx : Nat) (remote : List Byte)
  | excLoad (part ring idx : Nat)
  | excLoadEffect (part slot : Nat)
  | progLoad (part ring idx : Nat)
  | progUnload (part ring idx : Nat)
  | wsetLoad (part ring idx : Nat)
  | wsetUnload (part ring idx : Nat)
  | bufReg (part ring idx : Nat)
  | bufRegEffect (index : Nat)
  | bufRel (part ring idx : Nat)
  | swapAreaSet (part ring idx : Nat)
  | evictAreaSet (part ring idx : Nat)
  | spillAreaSet (c : MgmtCmd) (addr : Nat)
  | tcSet (c : MgmtCmd)
  | frondLoad (c : MgmtCmd)
  | mapCommit (c : MgmtCmd)
  | placeSet (c : MgmtCmd)
  | release (c : MgmtCmd)
  | moveAnnounce (c : MgmtCmd)
  | hdmAccess (write : Bool) (addr len : Nat) (bytes : List Byte) (bad : Bool)
  | cxlLinkReset
  | mailboxGo (agent : Agent) (value : Nat)
  | spdmMessage (inst : Nat) (m : SpdmMsg)
  | partCreate (c : CocoonCmd)
  | partTeardown (c : CocoonCmd)
  | keyInstall (c : CocoonCmd)
  | keyRotate (c : CocoonCmd)
  | sakInstall (c : CocoonCmd)
  | attestReport (c : CocoonCmd)
  | regRead (c : CocoonCmd)
  | mgmtMessage (m : MgmtMsg)
  | fwUpdate (c : MgmtCmd) (sig : SigCheck)
  | recoveryLoad (c : MgmtCmd) (sig : SigCheck)
  | enterRecovery (c : MgmtCmd)
  | cfgWrite (c : MgmtCmd)
  | cfgRead (c : MgmtCmd)
  | calRead (c : MgmtCmd)
  | calWrite (c : MgmtCmd)
  | recal (c : MgmtCmd)
  | lcTransition (c : MgmtCmd) (sig : SigCheck)
  | coldReset (c : MgmtCmd)
  | regReadM (c : MgmtCmd)
  | regWriteM (c : MgmtCmd)
  | pwrCap (c : MgmtCmd)
  | bistRun (c : MgmtCmd)
  | bistTestEnd (testId : Nat) (e : BistEnd)
  | bistCompatOpen (c : MgmtCmd)
  | bistInService (testId : Nat) (cap : BistCapture) (retest : Option BistCapture) (checkGood : Bool)
  | cxlLinkTrain (partner : CxlPartner)
  | ptpTimebaseLoad (time : Nat)
  | hostQueueUncorrectableError
  | neighborDiscovery (port : Nat) (second : Bool) (mac : Nat)
  | jtagInstruction (ins : JtagInstr)
  | doeMailboxMessage (m : DoeMsg)
  deriving DecidableEq, Repr

end Sys2Proof
end

