-- ==== Sys2Proof/Decode.lean ====
section
/-!
DEFINITION. The reading of a command from a word by the bits of spec/opcode_table.json. No row of the table
gives bits (every command reaches the node by a packet, a ring entry, a management or cocoon message, a
register access or an event of its own), so no word spells a command.
-/

namespace Sys2Proof

/-- The command that a word spells by the table's bits: none, since no row gives bits. -/
def decodeTableWord (_nbits _w : Nat) : Option Instr := none

end Sys2Proof
end

