-- ==== Sys2Proof/Config.lean ====
section
/-!
DEFINITION. What the part or its surroundings fix and the spec does not: values with no body, which no
proof can evaluate (free values), each named in the assumption log.
-/

namespace Sys2Proof.Config

/-- DESIGN CHOICE (log 3): the k-th 32-byte draw of the cocoon's CTR_DRBG (R377). A free value. -/
opaque drbg : Nat → BitVec 256

/-- DESIGN CHOICE (log 3): the device unique secret (Table 13.5), fused at MANUFACTURE. A free value. -/
opaque deviceSecret : BitVec 256

/-- DESIGN CHOICE (log 4): an Ed25519 signature under the alias key of a firmware pair (R392). A free value of
the key's seed and the signed bytes. -/
opaque signEd : BitVec 256 → List Byte → BitVec 512

/-- DESIGN CHOICE (log 4): an ML-DSA-65 signature (3,309 bytes) under the alias key (R392). -/
opaque signMlDsa : BitVec 256 → List Byte → BitVec 26472

/-- DESIGN CHOICE (log 4): the seed of the alias keys, derived from the device unique secret, FW_DIGEST and COCOON_FW_DIGEST
(R392). -/
opaque aliasSeed : BitVec 256 → List Byte → List Byte → BitVec 256

/-- DESIGN CHOICE (log 4): a certificate chain of an attestation report (Table 13.9): the Ed25519 one (`false`) or the ML-DSA-65
one, from the Flostoarn intermediate to the alias certificate. -/
opaque certChain : Bool → BitVec 256 → List Byte

/-- DESIGN CHOICE (log 5): the k-th indeterminate byte of HBM (R37, R65, R223: content of discarded or
unused bytes). A free value. -/
opaque indeterminate : Nat → Byte

/-- DESIGN CHOICE (log 6): the node's estimate RETRY_NS before rounding and limits (R298). -/
opaque retryEstimate : Nat → Nat

/-- DESIGN CHOICE (log 81): the engine cycles that a stored corrupt block stalls its lane (R172). A free value. -/
opaque stallCycles : Nat → Nat

/-- DESIGN CHOICE (log 7): a measured trim word byte of a calibration record (R446, R449). -/
opaque trimByte : Nat → Nat → Nat → Byte

/-- DESIGN CHOICE (log 8): the MISR reference value of a test of classes 0x1 to 0x4 (R461): the signature
table lies in the firmware image, whose layout the spec does not give. -/
opaque misrReference : Nat → BitVec 64

/-- DESIGN CHOICE (log 10): the fused MAC address of a management port (R439). -/
opaque mgmtMac : Nat → BitVec 48

/-- DESIGN CHOICE (log 11): NEXT of the node DVSEC header, the next capability offset (Table 12.2). -/
opaque dvsecNext : BitVec 12

/-- DESIGN CHOICE (log 80): the 9 check bits of a directory word with its V (R79): the spec names a SECDED code and gives no
matrix. A free value of the 129 bits. -/
opaque secded : BitVec 129 → BitVec 9

/-- DESIGN CHOICE (log 12): bytes of a DOE or SPDM response whose content an outside standard fixes. -/
opaque standardResponse : Nat → List Byte → List Byte

end Sys2Proof.Config
end

