-- ==== Sys2Proof/Machine/Crypto.lean ====
section
/-!
DEFINITION. The ciphers, hashes and checks the spec names: CRC-8 (R267), CRC-32C (R435), SHA-384, HKDF with
SHA-384 (R377), AES-256 in GCM and XTS modes (R285, R356, R379).
-/

namespace Sys2Proof.Machine

open Sys2Proof

/-! ### Cyclic checks -/

/-- One bit step of the CRC-8 with polynomial x^8 + x^2 + x + 1, most significant bit first (R267). -/
def crc8Bits : Nat → Nat → Nat
  | 0, r => r
  | n + 1, r => crc8Bits n (if 128 ≤ r then (2 * r) % 256 ^^^ 7 else 2 * r)

/-- HCRC of R267 over bytes. -/
def crc8 (bs : List Byte) : Nat := bs.foldl (fun r b => crc8Bits 8 (r ^^^ b.toNat)) 0

/-- One bit step of the reflected CRC-32C (R435). -/
def crc32cBits : Nat → Nat → Nat
  | 0, r => r
  | n + 1, r => crc32cBits n (if r % 2 = 1 then (r / 2) ^^^ 0x82F63B78 else r / 2)

/-- The CRC-32C of RFC 3720 (R435). -/
def crc32c (bs : List Byte) : Nat :=
  (bs.foldl (fun r b => crc32cBits 8 (r ^^^ b.toNat)) 0xFFFFFFFF) ^^^ 0xFFFFFFFF

/-- CRC-32C with the 4 bytes at an offset taken as zero. -/
def crc32cAt (bs : List Byte) (off : Nat) : Nat :=
  crc32c (bs.take off ++ zeroBytes (min 4 (bs.length - off)) ++ bs.drop (off + 4))

/-! ### SHA-384, HMAC and HKDF -/

/-- The 80 round words of SHA-384. -/
def shaK : List Nat :=
  [0x428A2F98D728AE22, 0x7137449123EF65CD, 0xB5C0FBCFEC4D3B2F, 0xE9B5DBA58189DBBC] ++
  [0x3956C25BF348B538, 0x59F111F1B605D019, 0x923F82A4AF194F9B, 0xAB1C5ED5DA6D8118] ++
  [0xD807AA98A3030242, 0x12835B0145706FBE, 0x243185BE4EE4B28C, 0x550C7DC3D5FFB4E2] ++
  [0x72BE5D74F27B896F, 0x80DEB1FE3B1696B1, 0x9BDC06A725C71235, 0xC19BF174CF692694] ++
  [0xE49B69C19EF14AD2, 0xEFBE4786384F25E3, 0x0FC19DC68B8CD5B5, 0x240CA1CC77AC9C65] ++
  [0x2DE92C6F592B0275, 0x4A7484AA6EA6E483, 0x5CB0A9DCBD41FBD4, 0x76F988DA831153B5] ++
  [0x983E5152EE66DFAB, 0xA831C66D2DB43210, 0xB00327C898FB213F, 0xBF597FC7BEEF0EE4] ++
  [0xC6E00BF33DA88FC2, 0xD5A79147930AA725, 0x06CA6351E003826F, 0x142929670A0E6E70] ++
  [0x27B70A8546D22FFC, 0x2E1B21385C26C926, 0x4D2C6DFC5AC42AED, 0x53380D139D95B3DF] ++
  [0x650A73548BAF63DE, 0x766A0ABB3C77B2A8, 0x81C2C92E47EDAEE6, 0x92722C851482353B] ++
  [0xA2BFE8A14CF10364, 0xA81A664BBC423001, 0xC24B8B70D0F89791, 0xC76C51A30654BE30] ++
  [0xD192E819D6EF5218, 0xD69906245565A910, 0xF40E35855771202A, 0x106AA07032BBD1B8] ++
  [0x19A4C116B8D2D0C8, 0x1E376C085141AB53, 0x2748774CDF8EEB99, 0x34B0BCB5E19B48A8] ++
  [0x391C0CB3C5C95A63, 0x4ED8AA4AE3418ACB, 0x5B9CCA4F7763E373, 0x682E6FF3D6B2B8A3] ++
  [0x748F82EE5DEFB2FC, 0x78A5636F43172F60, 0x84C87814A1F0AB72, 0x8CC702081A6439EC] ++
  [0x90BEFFFA23631E28, 0xA4506CEBDE82BDE9, 0xBEF9A3F7B2C67915, 0xC67178F2E372532B] ++
  [0xCA273ECEEA26619C, 0xD186B8C721C0C207, 0xEADA7DD6CDE0EB1E, 0xF57D4F7FEE6ED178] ++
  [0x06F067AA72176FBA, 0x0A637DC5A2C898A6, 0x113F9804BEF90DAE, 0x1B710B35131C471B] ++
  [0x28DB77F523047D84, 0x32CAAB7B40C72493, 0x3C9EBE0A15C9BEBC, 0x431D67C49C100D4C] ++
  [0x4CC5D4BECB3E42B6, 0x597F299CFC657E2A, 0x5FCB6FAB3AD6FAEC, 0x6C44198C4A475817]

/-- The initial words of SHA-384. -/
def shaInit : List Nat :=
  [0xCBBB9D5DC1059ED8, 0x629A292A367CD507, 0x9159015A3070DD17, 0x152FECD8F70E5939] ++
  [0x67332667FFC00B31, 0x8EB44A8768581511, 0xDB0C2E0D64F98FA7, 0x47B5481DBEFA4FA4]

/-- The AES substitution table. -/
def aesSbox : List Nat :=
  [0x63, 0x7C, 0x77, 0x7B, 0xF2, 0x6B, 0x6F, 0xC5, 0x30, 0x01, 0x67, 0x2B, 0xFE, 0xD7, 0xAB, 0x76] ++
  [0xCA, 0x82, 0xC9, 0x7D, 0xFA, 0x59, 0x47, 0xF0, 0xAD, 0xD4, 0xA2, 0xAF, 0x9C, 0xA4, 0x72, 0xC0] ++
  [0xB7, 0xFD, 0x93, 0x26, 0x36, 0x3F, 0xF7, 0xCC, 0x34, 0xA5, 0xE5, 0xF1, 0x71, 0xD8, 0x31, 0x15] ++
  [0x04, 0xC7, 0x23, 0xC3, 0x18, 0x96, 0x05, 0x9A, 0x07, 0x12, 0x80, 0xE2, 0xEB, 0x27, 0xB2, 0x75] ++
  [0x09, 0x83, 0x2C, 0x1A, 0x1B, 0x6E, 0x5A, 0xA0, 0x52, 0x3B, 0xD6, 0xB3, 0x29, 0xE3, 0x2F, 0x84] ++
  [0x53, 0xD1, 0x00, 0xED, 0x20, 0xFC, 0xB1, 0x5B, 0x6A, 0xCB, 0xBE, 0x39, 0x4A, 0x4C, 0x58, 0xCF] ++
  [0xD0, 0xEF, 0xAA, 0xFB, 0x43, 0x4D, 0x33, 0x85, 0x45, 0xF9, 0x02, 0x7F, 0x50, 0x3C, 0x9F, 0xA8] ++
  [0x51, 0xA3, 0x40, 0x8F, 0x92, 0x9D, 0x38, 0xF5, 0xBC, 0xB6, 0xDA, 0x21, 0x10, 0xFF, 0xF3, 0xD2] ++
  [0xCD, 0x0C, 0x13, 0xEC, 0x5F, 0x97, 0x44, 0x17, 0xC4, 0xA7, 0x7E, 0x3D, 0x64, 0x5D, 0x19, 0x73] ++
  [0x60, 0x81, 0x4F, 0xDC, 0x22, 0x2A, 0x90, 0x88, 0x46, 0xEE, 0xB8, 0x14, 0xDE, 0x5E, 0x0B, 0xDB] ++
  [0xE0, 0x32, 0x3A, 0x0A, 0x49, 0x06, 0x24, 0x5C, 0xC2, 0xD3, 0xAC, 0x62, 0x91, 0x95, 0xE4, 0x79] ++
  [0xE7, 0xC8, 0x37, 0x6D, 0x8D, 0xD5, 0x4E, 0xA9, 0x6C, 0x56, 0xF4, 0xEA, 0x65, 0x7A, 0xAE, 0x08] ++
  [0xBA, 0x78, 0x25, 0x2E, 0x1C, 0xA6, 0xB4, 0xC6, 0xE8, 0xDD, 0x74, 0x1F, 0x4B, 0xBD, 0x8B, 0x8A] ++
  [0x70, 0x3E, 0xB5, 0x66, 0x48, 0x03, 0xF6, 0x0E, 0x61, 0x35, 0x57, 0xB9, 0x86, 0xC1, 0x1D, 0x9E] ++
  [0xE1, 0xF8, 0x98, 0x11, 0x69, 0xD9, 0x8E, 0x94, 0x9B, 0x1E, 0x87, 0xE9, 0xCE, 0x55, 0x28, 0xDF] ++
  [0x8C, 0xA1, 0x89, 0x0D, 0xBF, 0xE6, 0x42, 0x68, 0x41, 0x99, 0x2D, 0x0F, 0xB0, 0x54, 0xBB, 0x16]

/-- Its inverse. -/
def aesInv : List Nat :=
  [0x52, 0x09, 0x6A, 0xD5, 0x30, 0x36, 0xA5, 0x38, 0xBF, 0x40, 0xA3, 0x9E, 0x81, 0xF3, 0xD7, 0xFB] ++
  [0x7C, 0xE3, 0x39, 0x82, 0x9B, 0x2F, 0xFF, 0x87, 0x34, 0x8E, 0x43, 0x44, 0xC4, 0xDE, 0xE9, 0xCB] ++
  [0x54, 0x7B, 0x94, 0x32, 0xA6, 0xC2, 0x23, 0x3D, 0xEE, 0x4C, 0x95, 0x0B, 0x42, 0xFA, 0xC3, 0x4E] ++
  [0x08, 0x2E, 0xA1, 0x66, 0x28, 0xD9, 0x24, 0xB2, 0x76, 0x5B, 0xA2, 0x49, 0x6D, 0x8B, 0xD1, 0x25] ++
  [0x72, 0xF8, 0xF6, 0x64, 0x86, 0x68, 0x98, 0x16, 0xD4, 0xA4, 0x5C, 0xCC, 0x5D, 0x65, 0xB6, 0x92] ++
  [0x6C, 0x70, 0x48, 0x50, 0xFD, 0xED, 0xB9, 0xDA, 0x5E, 0x15, 0x46, 0x57, 0xA7, 0x8D, 0x9D, 0x84] ++
  [0x90, 0xD8, 0xAB, 0x00, 0x8C, 0xBC, 0xD3, 0x0A, 0xF7, 0xE4, 0x58, 0x05, 0xB8, 0xB3, 0x45, 0x06] ++
  [0xD0, 0x2C, 0x1E, 0x8F, 0xCA, 0x3F, 0x0F, 0x02, 0xC1, 0xAF, 0xBD, 0x03, 0x01, 0x13, 0x8A, 0x6B] ++
  [0x3A, 0x91, 0x11, 0x41, 0x4F, 0x67, 0xDC, 0xEA, 0x97, 0xF2, 0xCF, 0xCE, 0xF0, 0xB4, 0xE6, 0x73] ++
  [0x96, 0xAC, 0x74, 0x22, 0xE7, 0xAD, 0x35, 0x85, 0xE2, 0xF9, 0x37, 0xE8, 0x1C, 0x75, 0xDF, 0x6E] ++
  [0x47, 0xF1, 0x1A, 0x71, 0x1D, 0x29, 0xC5, 0x89, 0x6F, 0xB7, 0x62, 0x0E, 0xAA, 0x18, 0xBE, 0x1B] ++
  [0xFC, 0x56, 0x3E, 0x4B, 0xC6, 0xD2, 0x79, 0x20, 0x9A, 0xDB, 0xC0, 0xFE, 0x78, 0xCD, 0x5A, 0xF4] ++
  [0x1F, 0xDD, 0xA8, 0x33, 0x88, 0x07, 0xC7, 0x31, 0xB1, 0x12, 0x10, 0x59, 0x27, 0x80, 0xEC, 0x5F] ++
  [0x60, 0x51, 0x7F, 0xA9, 0x19, 0xB5, 0x4A, 0x0D, 0x2D, 0xE5, 0x7A, 0x9F, 0x93, 0xC9, 0x9C, 0xEF] ++
  [0xA0, 0xE0, 0x3B, 0x4D, 0xAE, 0x2A, 0xF5, 0xB0, 0xC8, 0xEB, 0xBB, 0x3C, 0x83, 0x53, 0x99, 0x61] ++
  [0x17, 0x2B, 0x04, 0x7E, 0xBA, 0x77, 0xD6, 0x26, 0xE1, 0x69, 0x14, 0x63, 0x55, 0x21, 0x0C, 0x7D]

/-- Rotation of a 64-bit word to the right. -/
def ror64 (x n : Nat) : Nat := (x / 2 ^ n) ||| ((x % 2 ^ n) * 2 ^ (64 - n))

/-- A sum modulo 2^64. -/
def add64 (a b : Nat) : Nat := (a + b) % 0x10000000000000000

/-- The big-endian number that bytes spell. -/
def beNat (bs : List Byte) : Nat := bs.foldl (fun r b => r * 256 + b.toNat) 0

/-- The `n` big-endian bytes of a number. -/
def beBytes (n v : Nat) : List Byte := (leBytes n v).reverse

/-- Cuts a list into pieces of `k`, at most `n` of them. -/
def chunks {α : Type} (k : Nat) : Nat → List α → List (List α)
  | 0, _ => []
  | n + 1, l => if l.isEmpty then [] else l.take k :: chunks k n (l.drop k)

/-- The message schedule of one block: `n` further words, newest first. -/
def shaSched : Nat → List Nat → List Nat
  | 0, w => w
  | n + 1, w =>
    let w2 := w.getD 1 0
    let w15 := w.getD 14 0
    let s0 := ror64 w15 1 ^^^ ror64 w15 8 ^^^ (w15 / 128)
    let s1 := ror64 w2 19 ^^^ ror64 w2 61 ^^^ (w2 / 64)
    shaSched n (add64 (add64 (w.getD 15 0) s0) (add64 (w.getD 6 0) s1) :: w)

/-- One round of SHA-384 on the eight working words. -/
def shaRound (v : List Nat) (k w : Nat) : List Nat :=
  match v with
  | [a, b, c, d, e, f, g, h] =>
    let s1 := ror64 e 14 ^^^ ror64 e 18 ^^^ ror64 e 41
    let ch := (e &&& f) ^^^ ((0xFFFFFFFFFFFFFFFF ^^^ e) &&& g)
    let t1 := add64 (add64 h s1) (add64 ch (add64 k w))
    let s0 := ror64 a 28 ^^^ ror64 a 34 ^^^ ror64 a 39
    let mj := (a &&& b) ^^^ (a &&& c) ^^^ (b &&& c)
    [add64 t1 (add64 s0 mj), a, b, c, add64 d t1, e, f, g]
  | _ => v

/-- One block of SHA-384. -/
def shaBlock (h : List Nat) (blk : List Byte) : List Nat :=
  let w0 := ((chunks 8 16 blk).map beNat).reverse
  let w := (shaSched 64 w0).reverse
  let v := (List.zip shaK w).foldl (fun v kw => shaRound v kw.1 kw.2) h
  List.zipWith add64 h v

/-- SHA-384. -/
def sha384 (m : List Byte) : List Byte :=
  let pad := (256 - (m.length + 17) % 128) % 128
  let p := m ++ [0x80#8] ++ zeroBytes pad ++ beBytes 16 (8 * m.length)
  let h := (chunks 128 (p.length / 128 + 1) p).foldl shaBlock shaInit
  (h.take 6).flatMap (beBytes 8)

/-- HMAC with SHA-384. -/
def hmac384 (key m : List Byte) : List Byte :=
  let k := if 128 < key.length then sha384 key else key
  let k := k ++ zeroBytes (128 - k.length)
  sha384 (k.map (· ^^^ 0x5C#8) ++ sha384 (k.map (· ^^^ 0x36#8) ++ m))

/-- HKDF-Extract (R377). -/
def hkdfExtract (salt ikm : List Byte) : List Byte := hmac384 salt ikm

/-- The first 48 or fewer bytes of HKDF-Expand: one block is enough for the 32-byte keys of the spec. -/
def hkdfExpand32 (prk info : List Byte) : List Byte := (hmac384 prk (info ++ [1#8])).take 32

/-! ### AES-256 -/

/-- Substitution by a table. -/
def subByte (t : List Nat) (b : Byte) : Byte := BitVec.ofNat 8 (t.getD b.toNat 0)

/-- Doubling in the AES field. -/
def xtime (b : Byte) : Byte := if 128 ≤ b.toNat then (b <<< 1) ^^^ 0x1B#8 else b <<< 1

/-- Product by a small constant in the AES field: 1, 2, 3, 9, 11, 13 or 14. -/
def aesMul (k : Nat) (b : Byte) : Byte :=
  let b2 := xtime b
  let b4 := xtime b2
  let b8 := xtime b4
  (if k % 2 = 1 then b else 0#8) ^^^ (if k / 2 % 2 = 1 then b2 else 0#8) ^^^
    (if k / 4 % 2 = 1 then b4 else 0#8) ^^^ (if k / 8 % 2 = 1 then b8 else 0#8)

/-- The exclusive or of two byte lists. -/
def xorBytes (a b : List Byte) : List Byte := List.zipWith (· ^^^ ·) a b

/-- Key expansion: `n` further words from word number `i`, newest first, each of 4 bytes. -/
def aesExpand : Nat → Nat → Byte → List (List Byte) → List (List Byte)
  | 0, _, _, w => w
  | n + 1, i, rc, w =>
    let t := w.getD 0 []
    let t' :=
      if i % 8 = 0 then
        xorBytes ((t.drop 1 ++ t.take 1).map (subByte aesSbox)) [rc, 0#8, 0#8, 0#8]
      else if i % 8 = 4 then t.map (subByte aesSbox) else t
    aesExpand n (i + 1) (if i % 8 = 0 then xtime rc else rc) (xorBytes (w.getD 7 []) t' :: w)

/-- The 15 round keys of AES-256. -/
def aesKeys (key : List Byte) : List (List Byte) :=
  let w := (aesExpand 52 8 1#8 ((chunks 4 8 key).reverse)).reverse
  (chunks 4 15 w).map List.flatten

/-- ShiftRows, or its inverse, on a state of 16 bytes in column order. -/
def shiftRows (inv : Bool) (s : List Byte) : List Byte :=
  (List.range 16).map fun i =>
    let r := i % 4
    let c := i / 4
    s.getD (4 * ((if inv then c + 4 - r else c + r) % 4) + r) 0#8

/-- MixColumns by the four coefficients of its first row. -/
def mixColumns (k0 k1 k2 k3 : Nat) (s : List Byte) : List Byte :=
  (chunks 4 4 s).flatMap fun c =>
    match c with
    | [a, b, d, e] =>
      [aesMul k0 a ^^^ aesMul k1 b ^^^ aesMul k2 d ^^^ aesMul k3 e,
       aesMul k3 a ^^^ aesMul k0 b ^^^ aesMul k1 d ^^^ aesMul k2 e,
       aesMul k2 a ^^^ aesMul k3 b ^^^ aesMul k0 d ^^^ aesMul k1 e,
       aesMul k1 a ^^^ aesMul k2 b ^^^ aesMul k3 d ^^^ aesMul k0 e]
    | _ => c

/-- The rounds of the cipher after the first key addition. -/
def aesEncRounds : List (List Byte) → List Byte → List Byte
  | [], s => s
  | [k], s => xorBytes (shiftRows false (s.map (subByte aesSbox))) k
  | k :: ks, s =>
    aesEncRounds ks (xorBytes (mixColumns 2 3 1 1 (shiftRows false (s.map (subByte aesSbox)))) k)

/-- The rounds of the inverse cipher. -/
def aesDecRounds : List (List Byte) → List Byte → List Byte
  | [], s => s
  | [k], s => xorBytes ((shiftRows true s).map (subByte aesInv)) k
  | k :: ks, s =>
    aesDecRounds ks (mixColumns 14 11 13 9 (xorBytes ((shiftRows true s).map (subByte aesInv)) k))

/-- One block of AES-256 with expanded keys. -/
def aesEnc (keys : List (List Byte)) (b : List Byte) : List Byte :=
  match keys with
  | [] => b
  | k :: ks => aesEncRounds ks (xorBytes b k)

/-- One block of the inverse cipher. -/
def aesDec (keys : List (List Byte)) (b : List Byte) : List Byte :=
  match keys.reverse with
  | [] => b
  | k :: ks => aesDecRounds ks (xorBytes b k)

/-! ### XTS -/

/-- Multiplication of a tweak by x (IEEE 1619), as a little-endian number. -/
def xtsNext (t : Nat) : Nat :=
  if 2 ^ 127 ≤ t then ((2 * t) % 2 ^ 128) ^^^ 0x87 else 2 * t

/-- The blocks of one data unit under the running tweak. -/
def xtsBlocks (f : List Byte → List Byte) : Nat → List (List Byte) → List Byte
  | _, [] => []
  | t, b :: bs =>
    let tb := leBytes 16 t
    xorBytes (f (xorBytes b tb)) tb ++ xtsBlocks f (xtsNext t) bs

/-- AES-256-XTS of a data unit of whole blocks under a 512-bit key, with a 128-bit tweak value (R379). -/
def xtsUnit (enc : Bool) (key : BitVec 512) (tweak : Nat) (data : List Byte) : List Byte :=
  let kb := leBytes 64 key.toNat
  let k1 := aesKeys (kb.take 32)
  let k2 := aesKeys (kb.drop 32)
  let t0 := leNat (aesEnc k2 (leBytes 16 tweak))
  xtsBlocks (if enc then aesEnc k1 else aesDec k1) t0 (chunks 16 (data.length / 16 + 1) data)

/-! ### GCM -/

/-- Halving in the GCM field. -/
def ghashHalf (v : Nat) : Nat := if v % 2 = 1 then (v / 2) ^^^ (0xE1 * 2 ^ 120) else v / 2

/-- Product in the GCM field: the bits of `x` from the most significant one. -/
def ghashMul : Nat → Nat → Nat → Nat → Nat
  | 0, _, _, z => z
  | n + 1, x, v, z => ghashMul n x (ghashHalf v) (if (x / 2 ^ n) % 2 = 1 then z ^^^ v else z)

/-- GHASH over whole blocks. -/
def ghash (h : Nat) (bs : List Byte) : Nat :=
  (chunks 16 (bs.length / 16 + 1) bs).foldl (fun y b => ghashMul 128 (y ^^^ beNat b) h 0) 0

/-- Zeros up to a whole block. -/
def pad16 (bs : List Byte) : List Byte := bs ++ zeroBytes ((16 - bs.length % 16) % 16)

/-- The counter-mode stream applied to data, from a counter value. -/
def gcmCtr (keys : List (List Byte)) (iv : List Byte) : Nat → List (List Byte) → List Byte
  | _, [] => []
  | c, b :: bs => xorBytes b (aesEnc keys (iv ++ beBytes 4 c)) ++ gcmCtr keys iv ((c + 1) % 2 ^ 32) bs

/-- The tag of AES-256-GCM over associated data and ciphertext. -/
def gcmTag (key : BitVec 256) (iv aad cipher : List Byte) : List Byte :=
  let ks := aesKeys (leBytes 32 key.toNat)
  let h := beNat (aesEnc ks (zeroBytes 16))
  let y := ghash h (pad16 aad ++ pad16 cipher ++ beBytes 8 (8 * aad.length) ++ beBytes 8 (8 * cipher.length))
  xorBytes (beBytes 16 y) (aesEnc ks (iv ++ beBytes 4 1))

/-- The data of AES-256-GCM enciphered, or deciphered, under a 96-bit nonce. -/
def gcmCrypt (key : BitVec 256) (iv data : List Byte) : List Byte :=
  gcmCtr (aesKeys (leBytes 32 key.toNat)) iv 2 (chunks 16 (data.length / 16 + 1) data)

end Sys2Proof.Machine
end

