-- ==== Sys2Proof/Machine/State.lean ====
section
/-!
DEFINITION. The state of the block as plain data: every register, queue, table, buffer and mode the spec
gives the node, the queue of waiting commands, and `State.reset`. Fields that the model adds carry the word
MODEL in their docstring.
-/

namespace Sys2Proof.Machine

open Sys2Proof

/-- Why a step stops with a fault. Every other outcome the spec describes is a status, a drop, an event or a register
effect. -/
inductive Fault where
  /-- Raised by POWER_ON with a rail out of range: R489 calls the behaviour not defined. Safe: the machine stops. -/
  | railOutOfRange
  deriving DecidableEq, Repr

/-- Why a step is refused. -/
inductive Refusal where
  /-- Raised by JTAG_INSTRUCTION for an internal scan while Table 16.5 lets it in: the spec does not say what a scan of the logic
  does. Safe: the machine stops. -/
  | internalScan
  /-- A command whose meaning is not written: raised by the dispatch alone. Safe: nothing is claimed of it. -/
  | notModelled (mnemonic : String)
  deriving DecidableEq, Repr

/-! ### Persistent state: fuses and the configuration memory -/

/-- Lifecycle states (Table 15.10). -/
inductive Lifecycle where
  | manufacture
  | provisioned
  | deployed
  | rma
  | decommissioned
  deriving DecidableEq, Repr

/-- What outlives a power failure: fuses, hard repairs, the xSPI device (R434, R450, R452, R487). -/
structure NonVol where
  /-- the lifecycle counter's state (R452) and the steps used (ID_FWVER.LC_STEPS) -/
  lifecycle : Lifecycle := .deployed
  lcSteps : Nat := 2
  /-- operator root digests fused, at most 4 (R453) -/
  roots : List (List Byte) := [List.replicate 48 0#8]
  /-- ID_FWVER.SVN_MIN (R443) -/
  svnMin : Nat := 0
  /-- an FW_UPDATE with COMMIT_SVN waits for the next cold start (R443) -/
  commitSvn : Bool := false
  /-- DEVICE_SERIAL (R390) -/
  serial : Nat := 0
  /-- the device unique secret is erased (R393, R453) -/
  secretErased : Bool := false
  /-- VDD_AD setpoint code (R487) -/
  setpoint : Nat := 0
  /-- ENTER_RECOVERY was issued (R444) -/
  enterRecovery : Bool := false
  /-- ID_BOOT.RECAL_PENDING and the kinds waiting (R449) -/
  recalKinds : List Nat := []
  /-- rows remapped by hard post-package repair: (pseudo-channel, bank, row) (R419) -/
  repaired : List (Nat × Nat × Nat) := []
  /-- the 64 MiB configuration memory; a byte not listed reads 0xFF, erased (R434, R437) -/
  nor : List Host.Cell := []
  deriving DecidableEq, Repr

/-! ### Start-up and the node's own status -/

/-- A partition entry of the configuration block (Table 15.5). -/
structure PartEntry where
  part : Nat
  quotaDd0 : Nat := 0xFFFF
  quotaDd1 : Nat := 0xFFFF
  progQuota : Nat := 0xFFFF
  taskQuota : Nat := 0xFFFF
  ways : Nat := 64
  connQuota : Nat := 16777216
  lowWm : Nat := 0xFFFFFF
  highWm : Nat := 0xFFFFFF
  entryLow : Nat := 0
  entryHigh : Nat := 0
  evictEn : Bool := false
  windowDef : Nat := 10000000
  stageMax : Nat := 4096
  stageTtl : Nat := 1000
  walkPages : Nat := 4096
  polBeRate : Nat := 0
  polBeBurst : Nat := 0
  polLcRate : Nat := 0
  polLcBurst : Nat := 0
  shpRate : Nat := 0
  shpBurst : Nat := 0
  polBeEn : Bool := false
  polLcEn : Bool := false
  shpEn : Bool := false
  tokInit : Bool := false
  deriving DecidableEq, Repr

/-- Start-up status (R433, Table 15.14) and what firmware keeps of the configuration block. -/
structure Boot where
  powered : Bool := true
  stage : Nat := 0
  recovery : Bool := false
  recoveryCause : Nat := 0
  cfgDefaulted : Bool := false
  calFallback : Bool := false
  fwPending : Bool := false
  cfgPending : Bool := false
  locked : Bool := false
  fwVersion : Nat := 0
  svn : Nat := 0
  fwDigest : List Byte := List.replicate 48 0#8
  cocoonDigest : List Byte := List.replicate 48 0#8
  configDigest : List Byte := List.replicate 48 0#8
  cver : Nat := 0
  applied : Nat := 0
  refused : Nat := 0
  calBad : Nat := 0
  calUser : Nat := 0
  /-- the bytes of the configuration block read in phase 2 (R433) -/
  block : List Byte := []
  entries : List PartEntry := []
  /-- ROUTER records: (port, Ethernet port, IPv6 address) (R276) -/
  routers : List (Nat × Nat × Nat) := []
  /-- MGMT records: (port, prefix length, UDP port, address) (R439) -/
  mgmtPorts : List (Nat × Nat × Nat × Nat) := []
  /-- THERMTRIP_N is asserted (R493) -/
  thermTrip : Bool := false
  /-- the node serves nothing until cold start: a boundary-scan run was made (R463) -/
  scanIdle : Bool := false
  /-- BIST_COMPAT_OPEN is in force (R468) -/
  compatOpen : Bool := false
  deriving DecidableEq, Repr

/-! ### Timebase -/

/-- The marker state of a native port (R304). -/
structure MarkerPort where
  lastSent : Nat := 0
  lastRx : Nat := 0
  /-- the peer's send stamp of the last marker received -/
  lastPeerSend : Nat := 0
  seen : Bool := false
  sent : Bool := false
  deriving DecidableEq, Repr

/-- The timebase and its synchronisation (R28, R303 to R306, Table 10.9). -/
structure Timebase where
  /-- the 64-bit count of nanoseconds -/
  now : Nat := 0
  loaded : Bool := false
  locked : Bool := false
  /-- the map names this node root (R304) -/
  mapRoot : Bool := false
  holdover : Bool := false
  parent : Option Nat := none
  alternate : Option Nat := none
  altInUse : Bool := false
  /-- last offset in ns -/
  offset : Int := 0
  unlocks : Nat := 0
  /-- offset still to take up by slewing -/
  slew : Int := 0
  /-- consecutive offsets within 15 ns -/
  good : Nat := 0
  /-- when the parent or alternate last delivered a marker -/
  lastMarker : Nat := 0
  ports : List (Nat × MarkerPort) := []
  deriving DecidableEq, Repr

/-! ### Event log -/

/-- An event record (Table 14.10). -/
structure EvRec where
  seqno : Nat
  ts : Nat
  code : Nat
  sev : Nat
  source : Nat
  part : Option Nat
  times : Nat
  unit : Nat
  args : List Nat
  deriving DecidableEq, Repr

/-- The event log (R428), by ring position. -/
structure EvLog where
  recs : List (Nat × EvRec) := []
  head : Nat := 0
  wrapped : Bool := false
  overflow : Nat := 0
  next : Nat := 0
  /-- ALERT_N pulses given (R493) -/
  alerts : Nat := 0
  deriving DecidableEq, Repr

/-! ### Cache: descriptors, pages, references -/

/-- A page entry (Table 2.6). -/
structure PageEntry where
  page : Nat
  fmt : Nat
  excGen : Nat := 0
  keySlot : Nat := 0
  repl : Nat := 0
  spec : Bool := false
  shared : Bool := false
  lost : Bool := false
  swapped : Bool := false
  refIdx : Nat := 0
  ntok : Nat := 0
  serial : Nat := 0
  /-- MODEL: speculative rows beyond NTOK (in a coded page the node finds them by decoding) -/
  specRows : Nat := 0
  /-- the failure of Table 14.4 left the page to PAGE_FETCH (R406) -/
  fetching : Bool := false
  deriving DecidableEq, Repr

/-- Row kinds (Table 2.5). -/
inductive Kind where
  | keys
  | values
  | latent
  deriving DecidableEq, Repr

/-- A stream entry (Table 2.5) with its page-list blocks (R46). Entry j of `entries` stands in block j / 30. -/
structure Stream where
  kind : Kind
  layer : Nat
  layerIdx : Nat
  kvhead : Nat
  ring : Bool := false
  publish : Bool := false
  ropeStored : Bool := false
  fmt : Nat
  excTable : Nat := 0
  elems : Nat
  ropeElems : Nat := 0
  tokPerPage : Nat := 0
  sinks : Nat := 0
  window : Nat := 0
  tokens : Nat := 0
  /-- coded: offset / 4 of the end of the speculative blocks in the tail page (RING_OR_SPEC) -/
  specEnd : Nat := 0
  /-- ring: one more than the highest position yet written (R65) -/
  ringHigh : Nat := 0
  plbs : List Nat := []
  entries : List PageEntry := []
  deriving DecidableEq, Repr

/-- The chrysalis record (R212). -/
structure Chrysalis where
  base : Nat
  counts : List Nat
  deriving DecidableEq, Repr

/-- Replication states on the primary (Table 14.1). -/
inductive ReplState where
  | none
  | sync
  | rebuild
  | absent
  deriving DecidableEq, Repr

/-- The replication record (R399) and, for a move, the second one (R328). -/
structure ReplRec where
  node : Option Nat := none
  state : ReplState := .none
  /-- next RSEQ to send; on a replica, the next expected -/
  rseq : Nat := 0
  /-- on a replica (R408) -/
  complete : Bool := false
  /-- the placement record must be read before the next replication step (R398) -/
  unread : Bool := false
  /-- no row was ever sent: a DESC_OPEN without REBUILD opens the replica (Table 14.3) -/
  fresh : Bool := false
  /-- waits in the rebuild queue (R409) -/
  queued : Bool := false
  /-- the replica has answered the DESC_OPEN of this rebuild (R410 step 2) -/
  opened : Bool := false
  /-- rebuild position: the next stream and page index of step 3 -/
  rbStream : Nat := 0
  rbIndex : Nat := 0
  /-- PAGE messages sent, for REBUILD_END -/
  rbSent : Nat := 0
  /-- NTOK sent per (stream, page index) (R410 steps 3 and 4) -/
  rbNtok : List (Nat × Nat × Nat) := []
  /-- step 4 holds new appends of the descriptor -/
  rbHold : Bool := false
  /-- PAGE_FETCH outstanding: RSEQ, stream, page index, first transmission (R407) -/
  fetches : List (Nat × Nat × Nat × Nat) := []
  /-- the tag kept of a failed tail (Table 14.4) -/
  keptTag : Nat := 0
  /-- an accumulator set of this layer failed (Table 14.4) -/
  failedSets : List Nat := []
  deriving DecidableEq, Repr

/-- A descriptor (Table 2.4). -/
structure Desc where
  tenant : Nat
  layerGroup : Nat
  part : Nat
  seqId : Nat
  conf : Bool := false
  replica : Bool := false
  loss : Bool := false
  lostFirst : Nat := 0
  lostEnd : Nat := 0
  serialNext : Nat := 0
  exts : List Nat := []
  specTag : Nat := 0
  specDeadline : Nat := 0
  chrysalis : Option Chrysalis := none
  created : Nat := 0
  lastUse : Nat := 0
  streams : List Stream := []
  repl : ReplRec := {}
  /-- the target of an announced move (R328) -/
  moveRepl : Option ReplRec := none
  /-- the descriptor's own MDBs failed (Table 14.4) -/
  failed : Bool := false
  /-- every request but SEQ_CLOSE is answered DATA_LOST (R408) -/
  declaredLost : Bool := false
  deriving DecidableEq, Repr

/-- A shared reference entry (Table 2.9). -/
structure RefEntry where
  page : Nat
  swapped : Bool := false
  lost : Bool := false
  keySlot : Nat := 0
  refs : Nat
  originSeq : Nat
  originLg : Nat
  originTenant : Nat
  originSerial : Nat
  /-- MODEL: the fields a reader takes from the page entry that made the share, for PREFIX_LOOKUP -/
  fmt : Nat
  excGen : Nat
  ntok : Nat
  excSlot : Nat
  deriving DecidableEq, Repr

/-- What a page that is not free is doing (R51, R52, R71, R226). -/
inductive PageUse where
  /-- held by a descriptor, a reference entry, a buffer, a ring, a message -/
  | inUse
  /-- released, still held by page tasks (R51) -/
  | held
  /-- awaiting ROWZERO (R52) -/
  | zeroing
  /-- holds a staged copy (R226) -/
  | staged
  | retired
  deriving DecidableEq, Repr

/-- A page that is not free, with the partition that took it. -/
structure PageRec where
  use : PageUse
  part : Nat
  /-- the table slot and generation of a page allocated in a coded format (R174) -/
  exc : Option (Nat × Nat) := none
  deriving DecidableEq, Repr

/-- A staging record (R226), by HBM page. -/
structure Staging where
  mdb : Nat
  stream : Nat
  serial : Nat
  refIdx : Option Nat
  slot : Nat
  epoch : Nat
  at_ : Nat
  part : Nat
  deriving DecidableEq, Repr

/-- A held ATT_BACKWARD (R140). -/
structure HeldBwd where
  index : Nat
  req : Req
  /-- its snapshot of TOKENS (R50), and the views it will read: stream, first position, end (R57) -/
  snap : Nat
  views : List (Nat × Nat × Nat)
  deriving DecidableEq, Repr

/-- An accumulator set (R139, R140), keyed by descriptor and layer index. A row: stream, position, elements. -/
structure AccSet where
  mdb : Nat
  layer : Nat
  next : Nat := 0
  held : List HeldBwd := []
  /-- requests that came while one of the set was at work: their turn is decided when it ends, in their order -/
  turn : List HeldBwd := []
  /-- a request has been applied: the set is open -/
  opened : Bool := false
  rows : List (Nat × Nat × List F32) := []
  /-- pages whose accumulators are allocated, with the bytes each allocation took (R139) -/
  pages : List (Nat × Nat) := []
  deriving DecidableEq, Repr

/-! ### Directory -/

/-- A directory word (Table 3.1). -/
structure DirEntry where
  key : BitVec 96
  pri : BitVec 4
  data : BitVec 28
  check : BitVec 9
  deriving DecidableEq, Repr

/-- An operation in a die's queue: what DD0 has passed to DD1 of a cascaded one (R84, R87). -/
structure DirJob where
  req : DirReq
  /-- DD0 has done its part -/
  passed : Bool := false
  /-- DD0's best-so-far record -/
  best : Option (Nat × DirEntry) := none
  deriving DecidableEq, Repr

/-- A request whose directory operations wait for quota (R97), with how many are left on each die. -/
structure DirWait where
  req : Req
  op : Nat
  part : Nat
  left0 : Nat
  left1 : Nat
  deriving DecidableEq, Repr

/-- One directory die (R87, R97, R103, Table 3.9). -/
structure DirDie where
  ready : Bool := false
  corrected : Nat := 0
  uncorrected : Nat := 0
  queue : List DirJob := []
  /-- operations waiting for quota (R97) -/
  wait : List DirReq := []
  /-- operations by partition, of the node's own work, whose admissions wait for a later window (R97; log 70) -/
  owed : List (Nat × Nat) := []
  /-- cleared entries that firmware is about to rewrite from the shadow (R103) -/
  repairs : List Nat := []
  /-- admissions of the window by partition -/
  used : List (Nat × Nat) := []
  /-- windows in which an operation waited, by partition -/
  qwait : List (Nat × Nat) := []
  /-- partitions whose intake stopped at a full queue (R97) -/
  stopped : List Nat := []
  scrubPos : Nat := 0
  /-- result of the last search: address, PRI and DATA, or a miss -/
  result : Option (Nat × Nat × Nat) := none
  deriving DecidableEq, Repr

/-- The directory (R77 to R105). -/
structure Directory where
  entries : List (Nat × DirEntry) := []
  shadow : List (Nat × DirEntry) := []
  /-- SDIR_SEGOWN: owner by segment -/
  segOwn : List (Nat × Nat) := []
  step : Nat := 0
  /-- a throttle step that takes effect at the next quota window (R99) -/
  stepNext : Nat := 0
  cascadeUp : Bool := false
  /-- requests whose operations wait for a later window, in queue order (R97) -/
  waitReqs : List DirWait := []
  dd0 : DirDie := {}
  dd1 : DirDie := {}
  deriving DecidableEq, Repr

/-! ### Exponent-code tables, programs, weight sets -/

/-- A table slot of a partition (R173). -/
structure TableSlot where
  newest : Option (Nat × List Byte) := none
  older : Option (Nat × List Byte) := none
  pending : Option (List Byte) := none
  loadedAt : Nat := 0
  olderAt : Nat := 0
  deriving DecidableEq, Repr

/-- A loaded partition program (R239 to R242). -/
structure Prog where
  number : Nat
  image : List Byte
  unloading : Bool := false
  holders : Nat := 0
  loadTs : Nat := 0
  deriving DecidableEq, Repr

/-- A loaded projection weight set (R126, R353). -/
structure WSet where
  id : Nat
  layers : Nat
  heads : Nat
  qn : Nat
  l : Nat
  image : List Byte
  holders : Nat := 0
  unloading : Bool := false
  loadTs : Nat := 0
  deriving DecidableEq, Repr

/-! ### Partitions and keys -/

/-- Partition states (TLM_PART.STATE). -/
inductive PartState where
  | active
  | teardown
  deriving DecidableEq, Repr

/-- Key-slot states (R382). -/
inductive SlotState where
  | free
  | active
  | retiring
  deriving DecidableEq, Repr

/-- A key slot of a confidential partition. -/
structure KeySlot where
  state : SlotState := .free
  key : Option (BitVec 512) := none
  deriving DecidableEq, Repr

/-- A charging record (Table 10.8). -/
structure Charge where
  epoch : Nat := 0
  byTeardown : Bool := false
  start : Nat := 0
  stop : Nat := 0
  pageUs : Nat := 0
  rxBytes : Nat := 0
  txBytes : Nat := 0
  hostBytes : Nat := 0
  hbmBytes : Nat := 0
  attOps : Nat := 0
  appendTokens : Nat := 0
  otherOps : Nat := 0
  engineCycles : Nat := 0
  mossSteps : Nat := 0
  lcSlots : Nat := 0
  deriving DecidableEq, Repr

/-- A swap area (R355). -/
structure SwapArea where
  base : Nat
  slots : Nat
  used : List Nat := []
  deriving DecidableEq, Repr

/-- An evicted-key table (R363): base, buckets and how many keys it holds. -/
structure EvictArea where
  base : Nat
  buckets : Nat
  keys : Nat := 0
  deriving DecidableEq, Repr

/-- A partition that exists (R371 to R374) with its quotas, watermarks, tables, keys and counters. -/
structure Part where
  state : PartState := .active
  tenant : Nat
  conf : Bool := false
  clkLevel : Nat := 0
  tdmFirst : Nat := 0
  tdmCount : Nat := 0
  tdmCores : Nat := 0
  wayMap : Nat := 0
  pcs : List Nat := []
  record : List Byte := []
  /-- descriptor MDBs allocated since creation (R498) -/
  descCount : Nat := 0
  lowWm : Nat := 0
  highWm : Nat := 0
  preempt : Bool := false
  starved : Bool := false
  /-- a request's allocation left FREE below LOW_WM and the pass has not yet run (R69) -/
  passDue : Bool := false
  quota0 : Nat := 0
  quota1 : Nat := 0
  /-- quotas that take effect at the next quota window (R98) -/
  quotaNext0 : Option Nat := none
  quotaNext1 : Option Nat := none
  progQuota : Nat := 12
  taskQuota : Nat := 0
  connQuota : Nat := 16777216
  tables : List (Nat × TableSlot) := []
  progs : List Prog := []
  wsets : List WSet := []
  measChain : List Byte := List.replicate 48 0#8
  slots : List KeySlot := []
  metaKey : Option (BitVec 512) := none
  swapKey : Option (BitVec 256) := none
  connSecret : Option (BitVec 256) := none
  ckptSecret : Option (BitVec 256) := none
  rotations : Nat := 0
  /-- a rotation whose new slot becomes ACTIVE at the next tick (R383): the slot, when it was loaded, and the command that it
  answers -/
  rotateTo : Option (Nat × Nat × CocoonCmd) := none
  /-- rotations that wait for the one that runs -/
  rotateWait : List CocoonCmd := []
  walking : Bool := false
  walkWindow : Nat := 0
  walkTaken : Nat := 0
  swapArea : Option SwapArea := none
  /-- table slot and generation of the coded pages in swap slots, by slot (R174) -/
  swapExc : List (Nat × Nat × Nat) := []
  /-- a confidential partition: the key slot of the page in each swap slot, by swap slot; those of evicted sequences among them (R382) -/
  swapKeys : List (Nat × Nat) := []
  evictArea : Option EvictArea := none
  charge : Charge := {}
  /-- closed records by ring position -/
  ring : List (Nat × Charge) := []
  chargeHead : Nat := 0
  chargeOverflow : Nat := 0
  /-- shard record (R318): steward flag, leaving flag, steward node, group -/
  steward : Bool := false
  leaving : Bool := false
  drain : Nat := 0
  stewardId : Nat := 0
  group : Nat := 0
  /-- pages of the placement buffer (R319) -/
  placement : List Nat := []
  convSat : Nat := 0
  convNonfinite : Nat := 0
  specOpened : Nat := 0
  specCommitted : Nat := 0
  specExpired : Nat := 0
  specForced : Nat := 0
  stageDiscarded : Nat := 0
  taskWaits : Nat := 0
  swapOuts : Nat := 0
  swapIns : Nat := 0
  preempted : Nat := 0
  starvations : Nat := 0
  probeFull : Nat := 0
  replAbsent : Nat := 0
  replRebuilt : Nat := 0
  throtMs : Nat := 0
  /-- running REQUEST commands (R354) -/
  running : Nat := 0
  deriving DecidableEq, Repr

/-! ### Fabric -/

/-- What the node sets in the outer frame of a packet that leaves in Ethernet mode (Table 9.6). -/
structure EthOut where
  dstMac : Nat
  srcMac : Nat
  etherType : Nat := 0x88E5
  /-- SecTAG: SC, E, C, SL, the association, the packet number and the SCI -/
  sc : Bool := true
  enc : Bool := true
  chg : Bool := true
  shortLen : Nat := 0
  association : Nat
  pn : Nat
  sci : Nat
  innerType : Nat := 0x86DD
  nextHeader : Nat := 17
  hopLimit : Nat := 64
  trafficClass : Nat
  flowLabel : Nat
  srcAddr : Nat
  dstAddr : Nat
  srcPort : Nat
  dstPort : Nat
  udpChecksum : Nat
  /-- the secure data as it leaves: inner EtherType, IPv6, UDP, Vanges header and payload, enciphered -/
  secure : List Byte := []
  icv : List Byte := []
  deriving DecidableEq, Repr

/-- A fabric port (Table 9.13, R260 to R263). -/
structure Port where
  upA : Bool := false
  upB : Bool := false
  verFail : Bool := false
  lanes : Nat := 0
  linkVer : Nat := 0
  rxPkts : Nat := 0
  txPkts : Nat := 0
  /-- next-hop MAC of each Ethernet port (R276) -/
  nextHopA : Option Nat := none
  nextHopB : Option Nat := none
  /-- the BE queue last served (R335) -/
  lastBe : Nat := 0
  /-- the packet last sent: queue, then the packet as it left -/
  wire : Option (Nat × NativeHdr × List Byte × List Byte) := none
  wireEth : Option EthOut := none
  deriving DecidableEq, Repr

/-- A slot of a receive window (R286) that is not free. -/
structure Slot where
  done : Bool := false
  cells : List (Nat × List Byte) := []
  total : Option Nat := none
  first : NativeHdr
  arrival : Nat
  port : Nat
  /-- status of a done slot; 0xFE while the request executes (R290) -/
  status : Nat := 0
  /-- pages of a large body (R273) and coverage MDBs -/
  pages : List (Nat × Nat) := []
  mdbs : List Nat := []
  large : Bool := false
  /-- held for a newer epoch (R316) -/
  waiting : Bool := false
  deriving DecidableEq, Repr

/-- Why the node sent a message (R291). -/
inductive SendFor where
  /-- the replication message of this number -/
  | replication (id : Nat)
  /-- the REPLY of a PAGE_FETCH (R407): peer buffer index -/
  | pageReply (index : Nat)
  /-- the image of a CHECKPOINT, with the response owed on OK -/
  | checkpoint (r : Req) (body : List Byte)
  | opening
  | closing
  deriving DecidableEq, Repr

/-- A request message that the node sent and that is not answered (R288, R291). -/
structure TxMsg where
  mseq : Nat
  typ : Nat
  ingressTs : Nat
  lastTx : Nat
  word : Nat
  body : List Byte
  why : SendFor
  /-- the map epoch it was routed by, the same in every copy (R270) -/
  epoch : Nat := 0
  /-- it left, or waits in the egress queue; a message outside the window of R288 waits with `false` -/
  sent : Bool := false
  deriving DecidableEq, Repr

/-- Where a connection record lies (R283). -/
inductive Tier where
  | chip
  | backing
  | host
  deriving DecidableEq, Repr

/-- An open connection (R278 to R286). -/
structure Conn where
  peer : Nat
  tenant : Nat
  part : Nat
  peerConn : Nat
  verMajor : Nat := 2
  verMinor : Nat := 2
  home : Nat := 0
  lc : Bool := false
  resend : Bool := false
  protect : Bool := false
  /-- the arrival mode of its packets: Ethernet -/
  eth : Bool := false
  port : Nat := 0
  /-- TX_START of the peer: the start of the series that this node receives -/
  openerStart : Nat := 0
  base : Nat := 0
  slots : List (Nat × Slot) := []
  txStart : Nat := 0
  txNext : Nat := 0
  tx : List TxMsg := []
  rxGen : Nat := 0
  txGen : Nat := 0
  tier : Tier := .chip
  /-- slot in the host tier -/
  hostSlot : Nat := 0
  used : Nat := 0
  /-- CONN_CLOSE was sent (R282) -/
  closing : Bool := false
  /-- CONN_OPEN was sent and CONN_ACCEPT has not arrived (R278) -/
  opening : Bool := false
  master : Option (BitVec 256) := none
  /-- this node sent the CONN_OPEN (R278) -/
  own : Bool := false
  deriving DecidableEq, Repr

/-- An entry of the quarantine (R282). -/
structure Quarantine where
  conn : Nat
  peer : Nat
  tenant : Nat
  peerConn : Nat
  until_ : Nat
  part : Nat
  verMajor : Nat
  verMinor : Nat
  /-- of a protected connection: the keys of a repeated CONN_CLOSE and of its answer -/
  keys : Option (BitVec 256 × BitVec 256) := none
  deriving DecidableEq, Repr

/-- Buffer states (R293). -/
inductive BufState where
  | free
  | pending
  | valid
  deriving DecidableEq, Repr

/-- An entry of the buffer table (Table 9.9). -/
structure Buf where
  state : BufState := .free
  write : Bool := false
  read : Bool := false
  hbm : Bool := false
  part : Nat := 0
  /-- GEN; none before the first registration since cold start -/
  gen : Option Nat := none
  length : Nat := 0
  base : Nat := 0
  lastBump : Option Nat := none
  effectAt : Nat := 0
  pages : List Nat := []
  mdbs : List Nat := []
  /-- a firmware registration (inbox, placement buffer) -/
  firmware : Bool := false
  /-- the ring command whose completion waits: partition, ring, index -/
  cmd : Option (Nat × Nat × Nat) := none
  deriving DecidableEq, Repr

/-- The counters of one network die (Table 9.13). -/
structure NetDie where
  hcrc : Nat := 0
  lifetime : Nat := 0
  unknown : Nat := 0
  auth : Nat := 0
  window : Nat := 0
  nores : Nat := 0
  stalls : Nat := 0
  retrySent : Nat := 0
  staleSent : Nat := 0
  heldCount : Nat := 0
  stale : Nat := 0
  reuseWaits : Nat := 0
  /-- packets waiting for a connection record (R284): arrival port, time, packet -/
  missQueue : List (Nat × Nat × Packet) := []
  deriving DecidableEq, Repr

/-- A packet in an egress queue (R334), with its enqueue time. -/
structure OutPkt where
  hdr : NativeHdr
  payload : List Byte
  tag : List Byte := []
  at_ : Nat
  /-- frond whose owned slots it may use (R312) -/
  frond : Option Nat := none
  /-- in Ethernet mode 0b10: the second port -/
  second : Bool := false
  /-- this node's ID of the connection, and the partition that is charged -/
  own : Option Nat := none
  part : Option Nat := none
  /-- INGRESS_TS is already that of the message's first transmission -/
  stamped : Bool := false
  /-- protected under this key (R285) -/
  key : Option (BitVec 256) := none
  /-- the transmission of one message that it belongs to (R266) -/
  msg : Nat := 0
  deriving DecidableEq, Repr

/-- What an attention request has seen of its descriptor when it stalls: the snapshot of TOKENS and its layer's tail (R50, R219),
and the views it will read: stream, first position, end (R57, R225). -/
structure Seen where
  tokens : Nat
  tail : Nat
  views : List (Nat × Nat × Nat)
  deriving DecidableEq, Repr

/-- A stalled request (R297). -/
structure Stalled where
  req : Req
  /-- its opcode -/
  op : Nat
  mdb : Nat
  home : Nat
  seen : Option Seen := none
  deriving DecidableEq, Repr

/-- A held append, commit or abort (R57, R222, R225, R410). -/
structure HeldAppend where
  req : Req
  op : Nat
  deriving DecidableEq, Repr

/-- A replication message that waits or is outstanding (R400 to R403), in the order in which it was formed. -/
structure ReplMsg where
  id : Nat
  node : Nat
  part : Nat
  inbox : Nat
  /-- the descriptor; none once it is closed -/
  mdb : Option Nat
  /-- it goes to the target of a move (R328) -/
  move : Bool
  rseq : Nat
  kind : Nat
  /-- PAGE and PAGE_FETCH: the page, and the NTOK sent -/
  stream : Nat
  idx : Nat
  ntok : Nat
  /-- ROWS and PAGE: the page entries that the rows lie in -/
  pages : List (Nat × Nat)
  bytes : List Byte
  sent : Bool := false
  /-- it has been sent once -/
  begun : Bool := false
  deriving DecidableEq, Repr

/-- What happens when the replication step of a request ends (R24, R403). -/
inductive ReplThen where
  | answer
  /-- KV_APPEND: descriptor, layer index, TOKENS after, pages to publish (stream, index in the chain, hash) -/
  | append (mdb layer tokens : Nat) (hashes : List (Nat × Nat × Nat))
  /-- SPEC_COMMIT -/
  | commit (mdb n : Nat)
  /-- the descriptor has been closed in the meantime (R75): tokens to charge, and whether it is a SPEC_COMMIT -/
  | closed (tokens : Nat) (commit : Bool)
  deriving DecidableEq, Repr

/-- A request that waits for its replication step: messages and placement reads still open. -/
structure ReplWait where
  req : Req
  op : Nat
  body : List Byte
  msgs : List Nat
  places : List Nat
  next : ReplThen
  deriving DecidableEq, Repr

/-- The swap-in that a fault started (R297, R359): descriptor, and for each page its stream, its index in the chain
and the HBM page allocated for it. -/
structure Demand where
  mdb : Nat
  pages : List (Nat × Nat × Nat)
  deriving DecidableEq, Repr

/-- A policer or shaper (Table 11.5). -/
structure Bucket where
  rate : Nat := 0
  burst : Nat := 0
  en : Bool := false
  tokInit : Bool := false
  tokens : Nat := 0
  /-- the interval up to which the tokens are refilled -/
  upTo : Nat := 0
  changes : Nat := 0
  passBytes : Nat := 0
  passPkts : Nat := 0
  dropPkts : Nat := 0
  dropBytes : Nat := 0
  sentBytes : Nat := 0
  waitNs : Nat := 0
  /-- since when the head packet waits for tokens -/
  waitSince : Option Nat := none
  /-- a change completed and not yet applied (R337): rate, burst, en, tokInit, completion time -/
  change : Option (Nat × Nat × Bool × Bool × Nat) := none
  deriving DecidableEq, Repr

/-- A queue sample record (Table 11.3). -/
structure QRec where
  tStart : Nat
  depthStart : Nat
  depthMax : Nat
  arrBytes : Nat
  depBytes : Nat
  arrUnits : Nat
  depUnits : Nat
  delayMax : Nat
  deriving DecidableEq, Repr

/-- The sampler's running counts of one queue and its ring (R339, R340). -/
structure QTel where
  depthStart : Nat := 0
  depth : Nat := 0
  depthMax : Nat := 0
  arrBytes : Nat := 0
  depBytes : Nat := 0
  arrUnits : Nat := 0
  depUnits : Nat := 0
  delayMax : Nat := 0
  recs : List (Nat × QRec) := []
  head : Nat := 0
  wrapped : Bool := false
  overwrites : Nat := 0
  deriving DecidableEq, Repr

/-- A page that a clone copies by ROWCOPY (R66). -/
structure PageCopy where
  src : Nat
  dst : Nat
  /-- the new descriptor -/
  mdb : Nat
  /-- the source: descriptor, stream, whether it is a ring, and the positions of the page, as runs -/
  from_ : Nat
  stream : Nat
  ring : Bool
  views : List (Nat × Nat)
  /-- TAIL and NBLK of a coded copy -/
  trailer : Option (List Byte) := none
  deriving DecidableEq, Repr

/-- A SEQ_CLONE whose copies are not all made (R67). -/
structure CloneWait where
  req : Req
  part : Nat
  /-- source descriptors -/
  srcs : List Nat
  /-- new descriptors, with their keys and class -/
  news : List (Nat × BitVec 96 × Bool)
  shared : Nat
  copied : Nat
  /-- SEQ_CLOSE requests that wait for its end -/
  closes : List Req := []
  deriving DecidableEq, Repr


/-- The fabric (chapters 9 and 11). -/
structure Fabric where
  /-- copies of pages by ROWCOPY that clones wait for, and the clones (R66, R67, R202) -/
  copies : List PageCopy := []
  clones : List CloneWait := []
  ports : List (Nat × Port) := []
  dies : List (Nat × NetDie) := []
  conns : List (Nat × Conn) := []
  quarantine : List Quarantine := []
  bufs : List (Nat × Buf) := []
  /-- completed requests that wait for their intake job (R338): die, partition, opcode, enqueue, request -/
  ingress : List (Nat × Nat × Nat × Nat × Req) := []
  /-- pages and MDBs of large request bodies, until their request is answered (R273): connection, MSEQ -/
  bodies : List (Nat × Nat × List Nat × List Nat) := []
  stalled : List Stalled := []
  /-- requests that have left FREE of a partition below LOW_WM and are not answered yet (R69) -/
  freeDue : List (Origin × Nat) := []
  heldAppends : List HeldAppend := []
  repl : List ReplMsg := []
  nextRepl : Nat := 0
  replWaits : List ReplWait := []
  /-- generations learnt of other nodes' buffers: 1,048,576 × node + index (R400) -/
  peerGens : List (Nat × Nat) := []
  /-- replication messages complete in an inbox and not yet applied: connection, MSEQ, buffer index, length -/
  inboxDue : List (Nat × Nat × Nat × Nat) := []
  demand : List Demand := []
  /-- pages that read-ahead may stage after a fault: descriptor, stream, index (R226) -/
  ahead : List (Nat × Nat × Nat) := []
  /-- egress queues by 66 × port + queue (R334) -/
  egress : List (Nat × List OutPkt) := []
  /-- packets whose queue is full (R334): queue number, packet -/
  blocked : List (Nat × OutPkt) := []
  policers : List (Nat × Bucket) := []
  shapers : List (Nat × Bucket) := []
  telemetry : List (Nat × QTel) := []
  /-- neighbour table: node, port, Ethernet port, IPv6 address (R276, R327) -/
  neighbours : List (Nat × Nat × Nat × Nat) := []
  /-- MACsec keys: port, Ethernet port, association, receive?, then key, salt, SSCI, SCI (R277) -/
  saks : List ((Nat × Nat × Nat × Bool) × (BitVec 256 × Nat × Nat × Nat)) := []
  /-- MACsec packet number last used, by 2 × port + Ethernet port (R275) -/
  txPn : List (Nat × Nat) := []
  /-- the number of the next message that enters the egress queues (R266) -/
  nextMsg : Nat := 0
  deriving DecidableEq, Repr

/-! ### Schedule, epochs and moves -/

/-- A frond entry (Table 10.3). -/
structure FrondEntry where
  first : Nat
  len : Nat
  kind : Nat
  index : Nat
  frames : Nat
  frond : Nat
  part : Nat
  conn : Nat
  deriving DecidableEq, Repr

/-- A validated frond table (R307). -/
structure FrondTable where
  period : Nat
  chunkMax : Nat
  tableId : Nat
  dirStep : Nat
  start : Nat
  entries : List FrondEntry
  image : List Byte
  deriving DecidableEq, Repr

/-- Frond state (R314, Table 10.9). -/
structure Fronds where
  bank0 : Option FrondTable := none
  bank1 : Option FrondTable := none
  activeBank : Nat := 0
  activeValid : Bool := false
  shadowValid : Bool := false
  admitted : Nat := 0
  refused : Nat := 0
  overruns : Nat := 0
  loadRefused : Nat := 0
  /-- occurrences taken: frond, period, and the request that owns it: connection and MSEQ (R311) -/
  taken : List (Nat × Nat × Nat × Nat) := []
  deriving DecidableEq, Repr

/-- A move entry (Table 10.12). -/
structure Move where
  tenant : Nat
  movedIn : Bool
  peer : Nat
  seqId : Nat
  deriving DecidableEq, Repr

/-- A shard record of a MAP_COMMIT (R327): partition, role, group, steward. -/
structure ShardRec where
  part : Nat
  role : Nat
  group : Nat
  steward : Nat
  deriving DecidableEq, Repr

/-- An accepted MAP_COMMIT that waits for its tick (R315). -/
structure Commit where
  /-- when it was accepted -/
  at_ : Nat
  epoch : Nat
  root : Bool
  parent : Option Nat
  alternate : Option Nat
  shards : List ShardRec
  neighbours : List (Nat × Nat × Nat × Nat)
  moves : List Move
  deriving DecidableEq, Repr

/-- Map epochs (R315 to R317). -/
structure Epochs where
  current : Nat := 0
  previous : Nat := 0
  mapped : Bool := false
  /-- end of the open grace window -/
  graceEnd : Option Nat := none
  graceStart : Nat := 0
  adoptTs : Nat := 0
  /-- accepted commits that wait for their tick, oldest first -/
  pending : List Commit := []
  moves : List Move := []
  /-- announced moves with the epoch that is to complete them (R328) -/
  announced : List (Nat × Move) := []
  shardRecs : List ShardRec := []
  /-- announcements waiting for SYNC: the command and the descriptors -/
  announceWait : List (MgmtCmd × List Nat) := []
  deriving DecidableEq, Repr

/-! ### Work scheduling -/

/-- The modes of MMA (Table 8.2). -/
inductive MmaMode where
  | bf16
  | fp8
  | mxfp8
  | mxfp4
  deriving DecidableEq, Repr

/-- The Atlas engine commands (Table 8.2). -/
inductive EngCmd where
  /-- a tile product of depth `k` -/
  | mma (mode : MmaMode) (k : Nat)
  | stat
  | xfer
  | signal
  deriving DecidableEq, Repr

/-- Engine cycles of a command (Table 8.2). -/
def EngCmd.cycles : EngCmd → Nat
  | .mma .bf16 k => k
  | .mma .fp8 k => k / 2
  | .mma .mxfp8 k => k / 2
  | .mma .mxfp4 k => k / 4
  | .stat => 64
  | .xfer => 64
  | .signal => 1

/-- A page task (R245). -/
structure PageTask where
  part : Nat
  page : Nat
  job : Nat
  mdb : Nat
  stream : Nat
  /-- positions of its view in the page, as runs: first and end -/
  views : List (Nat × Nat)
  moss : Bool
  lc : Bool
  /-- query rows, their elements, and the key rows from the first to the end (R187) -/
  rows : Nat
  elems : Nat
  keyRows : Nat
  /-- Atlas: engine commands of the page still to enqueue, as runs: the command and how many -/
  cmds : List (EngCmd × Nat)
  /-- Moss: the raw scores that the unit returns, by query row (R189) -/
  scores : List (List (BitVec 32)) := []
  deriving DecidableEq, Repr

/-- A page task that is not yet created. -/
structure TaskPlan where
  page : Nat
  mdb : Nat
  stream : Nat
  views : List (Nat × Nat)
  moss : Bool
  /-- elements of a row as a key against which the query rows are scored, and how many products it enters; 0: none -/
  keyElems : Nat := 0
  keyTimes : Nat := 1
  /-- elements of a row as a value that is weighed, and how many products it enters; 0: none -/
  valElems : Nat := 0
  valTimes : Nat := 1
  /-- bytes that XFER commands copy: a coded page through an expander lane, or a page whose values go through a hub (R128) -/
  moveBytes : Nat := 0
  /-- query rows of the pass that it serves, and the page's rows from the first to the end of the positions -/
  rows : Nat
  pageRows : Nat
  /-- bytes that it reads from HBM (R323) -/
  readBytes : Nat := 0
  /-- Moss: the raw scores by query row -/
  scores : List (List (BitVec 32)) := []
  deriving DecidableEq, Repr

/-- A kind of Skipper work (R238). -/
inductive ItemKind where
  | intake
  | gather
  | rotate
  | hook
  | dispatch
  | merge
  | pack
  deriving DecidableEq, Repr

/-- A job (R234). -/
structure Job where
  /-- the running request it belongs to -/
  run : Nat
  part : Nat
  lc : Bool
  group : Nat
  engine : Bool
  /-- its query operand: rows, and elements of each -/
  rows : Nat := 0
  elems : Nat := 0
  /-- the query frames that it holds, 0 to 3 (R231) -/
  frames : List Nat := []
  /-- the page frames that it holds while it streams pages, 0 to 47 (R231) -/
  pageFrames : List Nat := []
  /-- pages still to create tasks for -/
  plan : List TaskPlan := []
  /-- engine commands that belong to no page and are still to enqueue, as runs: the command and how many -/
  cmds : List (EngCmd × Nat) := []
  /-- its command queue, at most 64 (R254): the page task of a command, none for a command of the job's own -/
  queue : List (Option Nat × EngCmd) := []
  /-- SIGNAL has written its completion word -/
  signalled : Bool := false
  /-- what its Moss tasks returned: page, raw scores by query row, and the largest of each row (R189) -/
  returned : List (Nat × List (List (BitVec 32)) × List (BitVec 32)) := []
  /-- bytes that it reads from HBM beside its page tasks: the values of a lane on the Moss path (R323) -/
  readBytes : Nat := 0
  /-- work items still to run, the first first -/
  items : List ItemKind := []
  core : Option Nat := none
  /-- when it was placed among all jobs -/
  placed : Nat := 0
  /-- frond occurrence of an LC job: frond and period -/
  frond : Option (Nat × Nat) := none
  /-- the core of an LC job and its query frames, which its frond entries name (R312): core and mask -/
  lcPlace : Option (Nat × Nat) := none
  overrun : Bool := false
  deriving DecidableEq, Repr

/-- A request whose work runs in jobs: its response is sent when the last of them completes. -/
structure Running where
  req : Req
  op : Nat
  part : Nat
  body : List Byte
  /-- descriptors it names, programs and weight set it holds (R101, R242, R353) -/
  mdbs : List Nat
  hooks : List Nat
  wset : Option Nat
  /-- ATT_BACKWARD: descriptor, layer and the accumulator set before it, put back if the work fails (R112) -/
  undo : Option (Nat × Nat × Option AccSet) := none
  deriving DecidableEq, Repr

/-- One attention core (R231 to R238, R250). -/
structure Core where
  /-- jobs placed here, by number, in placement order -/
  jobs : List Nat := []
  lcCmds : Nat := 0
  beCmds : Nat := 0
  busy : Nat := 0
  switches : Nat := 0
  switchMax : Nat := 0
  /-- MODEL: the engine cycle (2.5 GHz, counted from the timebase's zero) up to which the engine has issued -/
  busyUntil : Nat := 0
  /-- MODEL: the engine cycle up to which the engine idles, for want of a command that fits; a queue that becomes ready ends it -/
  idleUntil : Nat := 0
  /-- when the BE job last issued was placed -/
  lastBe : Nat := 0
  binding : Option Nat := none
  /-- Skipper bindings -/
  skippers : List (Nat × Nat) := []
  /-- the valid lines of the operand buffer with their tags (R232), as blocks of 512 lines: 16 blocks to a query frame (0 to 63),
  one to a page frame (64 to 111), and the work region (112 to 127); a block not listed is not valid (log 69) -/
  obuf : List (Nat × Nat) := []
  deriving DecidableEq, Repr

/-- One attention die's counters. -/
structure AttDie where
  corrupt : Nat := 0
  recovered : Nat := 0
  stall : Nat := 0
  tagMiss : Nat := 0
  invalidates : Nat := 0
  clkSwitches : Nat := 0
  deriving DecidableEq, Repr

/-- Work scheduling (chapter 8). -/
structure Sched where
  runs : List (Nat × Running) := []
  nextRun : Nat := 0
  jobs : List (Nat × Job) := []
  nextJob : Nat := 0
  tasks : List (Nat × PageTask) := []
  nextTask : Nat := 0
  cores : List (Nat × Core) := []
  attDies : List (Nat × AttDie) := []
  /-- the number of the next placement -/
  nextPlaced : Nat := 1
  /-- what the valid lines of the program stores hold above the 256 KiB of the system programs, alike in all 64 cores: blocks of
  4 KiB, 0 to 191, with the partition tag and the program number (R239) -/
  store : List (Nat × Nat × Nat) := []
  deriving DecidableEq, Repr

/-! ### Memory base dies -/

/-- Row operations (Table 6.4). -/
inductive RowOp where
  | check
  | copySame
  | copyOther
  | zero
  | and_
  | or_
  | xor_
  | reencode
  | selfTest
  deriving DecidableEq, Repr

/-- Who issues a row operation (Table 6.5). -/
inductive RowIssuer where
  | pageFree
  | teardown
  | coldStart
  | firmware
  | clone
  | sequencer
  deriving DecidableEq, Repr

/-- A queued row operation on row sets: bank group, row, bank mask. -/
structure RowCmd where
  op : RowOp
  issuer : RowIssuer
  srcBg : Nat := 0
  srcRow : Nat := 0
  src2Row : Nat := 0
  dstBg : Nat := 0
  dstRow : Nat := 0
  mask : Nat := 0xFF
  /-- sources whose CHECK has passed (R202); repeats used for the next one -/
  passed : Nat := 0
  repeats : Nat := 0
  /-- a self-test run of class 0x2: slots left -/
  testSlots : Nat := 0
  deriving DecidableEq, Repr

/-- What holds the body of a pseudo-channel (R193). -/
inductive Body where
  | idle
  /-- a Moss chunk: task number, steps of this chunk, bank group -/
  | moss (task steps bg : Nat)
  | row (cmd : RowCmd)
  deriving DecidableEq, Repr

/-- One pseudo-channel's controller and Moss unit (R180 to R199). -/
structure PcCtl where
  body : Body := .idle
  /-- ordinary commands queued, by bank group, that issue before the next slot: at most 32 each with those of `late` (R195) -/
  ordinary : List (Nat × Nat) := []
  /-- ordinary commands queued since: they wait for the next body to end -/
  late : List (Nat × Nat) := []
  /-- commands beyond the 32, which wait in the hub-side queue (R211) -/
  hub : List (Nat × Nat) := []
  /-- firmware's writes among them that are not done: bank, row, codeword, data (R207) -/
  writes : List (Nat × Nat × Nat × List Byte) := []
  /-- the row operation whose next slot is granted ahead of every other (R202) -/
  next : Option RowCmd := none
  /-- the query store of the Moss unit (R186): partition, task, first query row and how many -/
  queryStore : Option (Nat × Nat × Nat × Nat) := none
  /-- Moss tasks queued, oldest first: task, steps left -/
  mossQ : List (Nat × Nat) := []
  /-- the task under way and its steps left -/
  mossCur : Option (Nat × Nat) := none
  lastBg : Option Nat := none
  rowQ : List RowCmd := []
  /-- refreshes due and not issued, by bank group (R185) -/
  due : List (Nat × Nat) := []
  /-- the codeword that the scrubber reads next: 4,096 × row + 128 × bank + codeword of the row -/
  scrubAt : Nat := 0
  /-- a place (bank, row) where the scrubber found an error that is not yet classified (R416) -/
  scrubErr : Option (Nat × Nat) := none
  deriving DecidableEq, Repr

/-- One memory base die (Table 6.7). -/
structure MemDie where
  tasks : Nat := 0
  chunks : Nat := 0
  steps : Nat := 0
  waitMax : Nat := 0
  slotMax : Nat := 0
  yields : Nat := 0
  corrected : Nat := 0
  uncorrected : Nat := 0
  rowDone : Nat := 0
  rowRefused : Nat := 0
  staleReads : Nat := 0
  hot : Bool := false
  postponedMax : Nat := 0
  forced : Nat := 0
  deriving DecidableEq, Repr

/-- The memory system. -/
structure Memory where
  /-- HBM: global pseudo-channel g occupies [g × 1,207,959,552, (g + 1) × 1,207,959,552); a byte not listed
  reads 0 (R209) -/
  hbm : List Host.Cell := []
  /-- the check bytes of the 64-byte data units whose check bytes are not the code of their data (R204, R205), by address / 64; every
  other unit has those of the code -/
  checks : List (Nat × List Byte) := []
  /-- code-stale rows: (pseudo-channel, bank, row) (R206) -/
  stale : List (Nat × Nat × Nat) := []
  pcs : List (Nat × PcCtl) := []
  dies : List (Nat × MemDie) := []
  deriving DecidableEq, Repr

/-! ### Health -/

/-- Unit states (TLM_PCHEALTH.STATE). -/
inductive UnitState where
  | inService
  | degradedKept
  | retiring
  | retired
  deriving DecidableEq, Repr

/-- Health of a pseudo-channel. -/
structure PcHealth where
  score : Nat := 0
  state : UnitState := .inService
  permFaults : Nat := 0
  /-- rows with a permanent fault that wait for their repair: bank, row (R419) -/
  faults : List (Nat × Nat) := []
  /-- transient errors: bank, row, time -/
  transients : List (Nat × Nat × Nat) := []
  /-- a candidate for retirement, with the cause that event 0x0107 gives (R421) -/
  candidate : Option Nat := none
  deriving DecidableEq, Repr

/-- Health of a lane or module. -/
structure LaneHealth where
  score : Nat := 0
  state : UnitState := .inService
  /-- redundant lanes of a module that repairs have used (R422) -/
  repaired : Nat := 0
  retrains : Nat := 0
  retrainTimes : List Nat := []
  /-- windows still to stay below LANE_ERR after a retrain (R417) -/
  probation : Nat := 0
  halfWidth : Bool := false
  deriving DecidableEq, Repr

/-- Health of a die. -/
structure DieHealth where
  score : Nat := 0
  lost : Bool := false
  deriving DecidableEq, Repr

/-- Health, wear and self-test status (chapters 14 and 16). -/
structure Health where
  belowFloor : Bool := false
  replaceReq : Bool := false
  stopped : Bool := false
  pcs : List (Nat × PcHealth) := []
  lanes : List (Nat × LaneHealth) := []
  dies : List (Nat × DieHealth) := []
  pcRetirements : List Nat := []
  laneRetirements : List Nat := []
  /-- rebuild queue budget of the 1 ms window: window number and PAGE messages sent (R409) -/
  rbWindow : Nat := 0
  rbSent : Nat := 0
  deriving DecidableEq, Repr

/-- A result register (TLM_BISTRES). -/
structure BistRes where
  verdict : Nat := 0
  inService : Bool := false
  fails : Nat := 0
  runs : Nat := 0
  deriving DecidableEq, Repr

/-- A commanded run (R462). -/
structure BistRunning where
  testId : Nat
  reference : BitVec 64
  external : Bool
  cmd : Option MgmtCmd
  /-- the run waits for the unit's traffic to allow it (Table 16.4), not for the engine -/
  deferred : Bool := false
  /-- the lanes that the unit's port ran on, saved for the end of the run (R464 step 2) -/
  savedLanes : Nat := 0
  deriving DecidableEq, Repr

/-- The self-test engine. -/
structure Bist where
  running : List BistRunning := []
  waiting : List BistRunning := []
  results : List (Nat × BistRes) := []
  deferred : Nat := 0
  /-- the unit from which each class goes on with its in-service tests (R465) -/
  nextUnit : List (Nat × Nat) := []
  /-- the in-service tests that are deferred (R464) -/
  held : List Nat := []
  /-- what the JTAG port last shifted out: IDCODE, or the 32 bytes of a run (R462, R467) -/
  jtagOut : List Byte := []
  deriving DecidableEq, Repr

/-! ### Power and thermal -/

/-- Power and thermal governance (Table 17.6). -/
structure Power where
  /-- last reading by sensor, in 1/16 °C -/
  temps : List (Nat × Int) := []
  maxes : List (Nat × Int) := []
  faulty : List Nat := []
  missed : List (Nat × Nat) := []
  sensorFaults : Nat := 0
  /-- sensor offsets of the calibration record (R446) -/
  offsets : List (Nat × Int) := []
  hottest : Int := 0
  hotSensor : Nat := 0
  /-- the hottest reading that the rules take: a faulty sensor by its die's hottest, a die without one at 103.0 °C (R472) -/
  hotRule : Int := 0
  thermStep : Nat := 0
  /-- the thermal step computed at the last sample, in force from the next one on (R474) -/
  thermNext : Nat := 0
  pwrStep : Nat := 0
  capW : Option Nat := none
  capNext : Option Nat := none
  frameSum : Nat := 0
  frameCount : Nat := 0
  avgW : Nat := 0
  lowFrames : Nat := 0
  boost : Bool := false
  fast : Bool := false
  /-- frame ends that the running fast event still lasts (R478) -/
  fastFrames : Nat := 0
  clockStep : Nat := 0
  /-- the steps in force at the start of the present 1 ms window (R387): directory, clock throttle -/
  latchDir : Nat := 0
  latchClk : Nat := 0
  stepChanges : Nat := 0
  fastEvents : Nat := 0
  deriving DecidableEq, Repr

/-! ### Host attachment -/

/-- A submission entry that was fetched and whose completion is not posted (R352). -/
structure Fetched where
  idx : Nat
  code : Nat
  fence : Bool
  intr : Bool
  cmdId : Nat
  addr : Nat
  len : Nat
  arg0 : Nat
  outAddr : Nat
  outLen : Nat
  args : List Nat
  /-- the input bytes read over CXL.cache; none if they could not be read (R352) -/
  input : Option (List Byte)
  fetchTs : Nat
  /-- REQUEST handed to its request step -/
  started : Bool := false
  deriving DecidableEq, Repr

/-- A ring pair (Table 12.4, R349 to R352). -/
structure Ring where
  enabled : Bool := false
  draining : Bool := false
  error : Bool := false
  errStatus : Nat := 0
  sqLog : Nat := 6
  cqLog : Nat := 6
  sqHead : Nat := 0
  tail : Nat := 0
  /-- completion entries consumed and written since the pair was enabled -/
  cqHead : Nat := 0
  cqTail : Nat := 0
  /-- RMA completions that wait for a free slot (R352): buffer index, GEN, TOTAL -/
  rmaDue : List (Nat × Nat × Nat) := []
  sqPages : List Nat := []
  cqPages : List Nat := []
  fetched : List Fetched := []
  done : Nat := 0
  nextIdx : Nat := 0
  msix : Nat := 0xFFFF
  deriving DecidableEq, Repr

/-- The spill area (R364). -/
structure SpillArea where
  base : Nat
  records : Nat
  used : List Nat := []
  writes : Nat := 0
  deriving DecidableEq, Repr

/-- The host die (chapter 12). -/
structure HostDie where
  up : Bool := false
  cxl : Bool := false
  flit256 : Bool := false
  latOpt : Bool := false
  negotFail : Bool := false
  width : Nat := 0
  speed : Nat := 0
  ideIo : Option (BitVec 256) := none
  ideCm : Option (BitVec 256) := none
  viralEn : Bool := false
  viral : Bool := false
  cause : Nat := 0
  viralTs : Nat := 0
  /-- uncorrectable internal error signalled by AER (R367) -/
  aer : Bool := false
  unbacked : Nat := 0
  rmaNoCq : Nat := 0
  checkFail : Nat := 0
  txBytes : Nat := 0
  rxBytes : Nat := 0
  select : Nat := 0
  selectErr : Bool := false
  rings : List (Nat × Ring) := []
  /-- control page of each partition area -/
  ctlPages : List (Nat × Nat) := []
  spill : Option SpillArea := none
  /-- what the node wrote into host memory; a byte not listed reads 0 -/
  mem : List Host.Cell := []
  /-- MSI-X vectors signalled, with a count -/
  msix : List (Nat × Nat) := []
  /-- DOE responses, oldest first -/
  doe : List (List Byte) := []
  /-- HDM data returned by the last read -/
  readData : List Byte := []
  deriving DecidableEq, Repr

/-! ### Cocoon and management -/

/-- A cocoon mailbox instance (R376). -/
structure Mailbox where
  reqLen : Nat := 0
  busy : Bool := false
  done : Bool := false
  req : List (Nat × Nat) := []
  rsp : List Byte := []
  /-- open sessions: ID and role -/
  sessions : List (Nat × Role) := []
  deriving DecidableEq, Repr

/-- The cocoon (chapter 13). -/
structure Cocoon where
  approved : Bool := false
  errorState : Bool := false
  /-- keys erased by tamper, error state or command -/
  erased : Bool := false
  /-- the device secret is read-locked until cold start (R468) -/
  readLocked : Bool := false
  aliasSeed : Option (BitVec 256) := none
  spillKey : Option (BitVec 256) := none
  transportKeys : Bool := false
  /-- MODEL: how many draws of the DRBG were made (the argument of `Config.drbg`) -/
  draws : Nat := 0
  mb0 : Mailbox := {}
  mb1 : Mailbox := {}
  /-- teardown answers that wait: instance and partition -/
  teardownWait : List (Nat × Nat) := []
  deriving DecidableEq, Repr

/-- A management response as sent (R454). -/
structure MgmtRsp where
  session : Nat
  mseq : Nat
  port : Nat
  status : Nat
  result : Nat
  cmdId : Nat
  out : List Byte
  deriving DecidableEq, Repr

/-- Management network state (R454, R455). -/
structure Mgmt where
  /-- the last 64 responses of each session, newest first -/
  stored : List (Nat × List MgmtRsp) := []
  /-- responses sent, newest first, at most one kept for each port -/
  sent : List (Nat × MgmtRsp) := []
  /-- commands authenticated and not yet carried out -/
  admitted : List (Nat × MgmtCmd) := []
  /-- staged pieces of a command: 65,536 × session + code, offset, bytes (R455) -/
  pieces : List (Nat × Nat × List Byte) := []
  portsUp : Bool := true
  deriving DecidableEq, Repr

/-- The whole machine. -/
structure State where
  /-- the commands that wait, first in, first out -/
  pending : List Instr := []
  nv : NonVol := {}
  boot : Boot := {}
  tb : Timebase := {}
  /-- software-writable register words that differ from reset, by window offset (Table 0.3) -/
  regs : List (Nat × Nat) := []
  accCount : Nat := 0
  accOffset : Nat := 0
  ev : EvLog := {}
  mem : Memory := {}
  pages : List (Nat × PageRec) := []
  /-- allocated metadata blocks with the partition that took each (R35) -/
  mdbs : List (Nat × Nat) := []
  descs : List (Nat × Desc) := []
  refs : List (Nat × RefEntry) := []
  staging : List (Nat × Staging) := []
  accSets : List AccSet := []
  dir : Directory := {}
  parts : List (Nat × Part) := []
  /-- counters and closed charging records of partition numbers that were torn down: only a cold start clears them -/
  pastParts : List (Nat × Part) := []
  fab : Fabric := {}
  fronds : Fronds := {}
  epochs : Epochs := {}
  sched : Sched := {}
  health : Health := {}
  bist : Bist := {}
  power : Power := {}
  host : HostDie := {}
  cocoon : Cocoon := {}
  mgmt : Mgmt := {}
  /-- MODEL: how many free values were drawn (the argument of the opaque functions of Config) -/
  free : Nat := 0
  deriving DecidableEq, Repr

/-- The machine right after reset: power is good, no cold-start phase has ended, and every register field
has the reset value of its table (R9, R28, R433). Values the spec does not give are those of log 2. -/
def State.reset : State := {}

end Sys2Proof.Machine
end

