-- ==== Sys2Proof/Machine/Ops.lean ====
section
/-!
DEFINITION. The named operations over the state that every family shares: byte memories in canonical form, time,
register words, the event log, the cocoon's random numbers, partitions, pages, metadata blocks and reference
entries.
-/

namespace Sys2Proof.Machine

open Sys2Proof

/-! ### Status codes (Table 9.11, R300) -/

def stOk : Nat := 0x00
def stStaleMap : Nat := 0x11
def stStaleBuffer : Nat := 0x12
def stDupAcked : Nat := 0x13
def stNotResident : Nat := 0x21
def stSeqUnavailable : Nat := 0x22
def stSpecFull : Nat := 0x23
def stDataLost : Nat := 0x31
def stDirectoryFull : Nat := 0x41
def stConnLimit : Nat := 0x42
def stPosLimit : Nat := 0x43
def stKeySlotsFull : Nat := 0x44
def stPoolFull : Nat := 0x45
def stScheduleFault : Nat := 0x51
def stNotPermitted : Nat := 0x61
def stFormat : Nat := 0x62
def stBelowFloor : Nat := 0x71

/-! ### Byte memories -/

/-- The cells that a run of bytes from address `a` lists, where `d` is what an unlisted address reads as. -/
def cellsOf (d : Byte) : Nat → List Byte → List Host.Cell
  | _, [] => []
  | a, b :: bs => if b = d then cellsOf d (a + 1) bs else (a, b) :: cellsOf d (a + 1) bs

/-- A byte memory with the bytes from address `a` replaced, in canonical form. -/
def cellsPut (d : Byte) (m : List Host.Cell) (a : Nat) (bs : List Byte) : List Host.Cell :=
  m.filter (fun c => decide (c.1 < a)) ++ cellsOf d a bs ++
    m.filter (fun c => decide (a + bs.length ≤ c.1))

/-- `n` bytes from address `a`, from cells that start at or above `a`. -/
def cellsRun (d : Byte) : Nat → Nat → List Host.Cell → List Byte
  | 0, _, _ => []
  | n + 1, a, l =>
    match l with
    | [] => d :: cellsRun d n (a + 1) []
    | c :: m => if c.1 = a then c.2 :: cellsRun d n (a + 1) m else d :: cellsRun d n (a + 1) l

/-- `n` bytes from address `a` of a byte memory. -/
def cellsGet (d : Byte) (m : List Host.Cell) (a n : Nat) : List Byte :=
  cellsRun d n a (m.filter fun c => decide (a ≤ c.1) && decide (c.1 < a + n))

/-- One byte of a byte memory. -/
def cellAt (d : Byte) : List Host.Cell → Nat → Byte
  | [], _ => d
  | c :: m, a => if c.1 = a then c.2 else cellAt d m a

/-- The bytes [a, a + n) made to read as unlisted ones. -/
def cellsClear (m : List Host.Cell) (a n : Nat) : List Host.Cell :=
  m.filter fun c => decide (c.1 < a) || decide (a + n ≤ c.1)

/-- Canonical form: addresses strictly rising, and no cell equal to what an unlisted address reads as. -/
def cellsWf (d : Byte) : List Host.Cell → Bool
  | [] => true
  | c :: m => (c.2 != d) && m.all (fun x => decide (c.1 < x.1)) && cellsWf d m

/-- The three byte memories are canonical: HBM and host memory with 0, the configuration memory with 0xFF. -/
def Memory.wf (s : State) : Bool :=
  cellsWf 0#8 s.mem.hbm && cellsWf 0#8 s.host.mem && cellsWf 0xFF#8 s.nv.nor

/-- HBM bytes (R209: an unwritten byte reads zero after cold start). -/
def hbmRead (s : State) (a n : Nat) : List Byte := cellsGet 0#8 s.mem.hbm a n
/-- A write of `n` bytes gives the units that it touches the check bytes of their new data (R204). -/
def freshChecks (a n : Nat) (l : List (Nat × List Byte)) : List (Nat × List Byte) :=
  l.filter fun x => n == 0 || decide (x.1 < a / 64) || decide ((a + n - 1) / 64 < x.1)
def hbmWrite (a : Nat) (bs : List Byte) (s : State) : State :=
  { s with mem := { s.mem with hbm := cellsPut 0#8 s.mem.hbm a bs, checks := freshChecks a bs.length s.mem.checks } }
def hbmZero (a n : Nat) (s : State) : State :=
  { s with mem := { s.mem with hbm := cellsClear s.mem.hbm a n, checks := freshChecks a n s.mem.checks } }

/-- Host memory (log 16: an unwritten byte reads zero). The node counts what it reads and writes. -/
def hostRead (s : State) (a n : Nat) : List Byte := cellsGet 0#8 s.host.mem a n
def hostWrite (a : Nat) (bs : List Byte) (s : State) : State :=
  { s with host := { s.host with mem := cellsPut 0#8 s.host.mem a bs,
                                 txBytes := sat64 (s.host.txBytes + bs.length) } }
/-- `n` bytes read from host memory are counted. -/
def hostCountRead (n : Nat) (s : State) : State :=
  { s with host := { s.host with rxBytes := sat64 (s.host.rxBytes + n) } }

/-- The configuration memory: an erased byte reads 0xFF (R434). -/
def norRead (s : State) (a n : Nat) : List Byte := cellsGet 0xFF#8 s.nv.nor a n
def norWrite (a : Nat) (bs : List Byte) (s : State) : State :=
  { s with nv := { s.nv with nor := cellsPut 0xFF#8 s.nv.nor a bs } }

/-- Bytes of one global pseudo-channel (R14). -/
def pcBytes : Nat := 1207959552
/-- Pool pages of one pseudo-channel (R14). -/
def pcPages : Nat := 17920
/-- Bytes of the pool part of a pseudo-channel (R14). -/
def poolBytes : Nat := 1174405120
def pageSize : Nat := 65536
/-- The pseudo-channel of a page (R15). -/
def pagePc (p : Nat) : Nat := p / pcPages
/-- The HBM address of a page (R15). -/
def pageAddr (p : Nat) : Nat := pagePc p * pcBytes + p % pcPages * pageSize

/-! ### Whether the node serves, and time -/

/-- Configuration lock is set and nothing has stopped the node (R451, R444, R463, R475, R489). -/
def serving (s : State) : Bool :=
  s.boot.powered && s.boot.locked && !s.boot.recovery && !s.boot.thermTrip && !s.boot.scanIdle &&
    !s.boot.compatOpen && !s.health.stopped

/-- The timebase is not below a time stamp that a command carries (R28: it never decreases). -/
def touch (t : Nat) (s : State) : State :=
  if s.tb.loaded then { s with tb := { s.tb with now := max s.tb.now t } } else s

/-- The active frond table (R314), whether or not it is suspended. -/
def activeTable (s : State) : Option FrondTable :=
  if !s.fronds.activeValid then none else if s.fronds.activeBank = 0 then s.fronds.bank0 else s.fronds.bank1

/-- The table that waits for its START. -/
def shadowTable (s : State) : Option FrondTable :=
  if !s.fronds.shadowValid then none else if s.fronds.activeBank = 0 then s.fronds.bank1 else s.fronds.bank0

/-! ### Register words that software can write (Table 0.3) -/

/-- A node-wide register seen in all four network die blocks is kept at its NI0 offset. -/
def canonOffset (o : Nat) : Nat :=
  if o = 0x01100800 ∨ o = 0x01200800 ∨ o = 0x01300800 then 0x01000800 else o

/-- Reset word and writable mask of the RWL register at a window offset; none where no RWL register lies.
The masks are the RWL fields of Tables 3.9, 5.7, 6.7, 7.6, 8.6, 9.13, 10.9, 11.5, 13.12, 14.12, 16.6, 17.6. -/
def rwlReg (o : Nat) : Option (Nat × Nat) :=
  if o = 0x00400000 ∨ o = 0x00600000 then some (0x6401, 0xFF01)
  else if 0x00403000 ≤ o ∧ o < 0x00403400 ∧ o % 0x10 = 0 then some (0, 0x807FFFFF007FFFFF)
  else if 0x00800000 ≤ o ∧ o < 0x008C0000 ∧ o % 0x10000 = 0 then some (0x10340, 0x103FF)
  else if 0x00C00000 ≤ o ∧ o < 0x00D00000 ∧ o % 0x10000 = 0 then some (0x202, 0x30F)
  else if 0x01805000 ≤ o ∧ o < 0x01805800 ∧ o % 0x20 = 0 then some (0x03E8100000989680, 0xFFFFFFFFFFFFFFFF)
  else if 0x01000000 ≤ o ∧ o < 0x01400000 then
    let d := o % 0x100000
    if d = 0 ∨ d = 0x100 then some (0, 3)
    else if d = 0x20 ∨ d = 0x28 ∨ d = 0x120 ∨ d = 0x128 then some (0, 0xFFFFFFFFFFFF)
    else if d = 0x30 ∨ d = 0x38 ∨ d = 0x40 ∨ d = 0x48 ∨ d = 0x130 ∨ d = 0x138 ∨ d = 0x140 ∨ d = 0x148 then
      some (0, 0xFFFFFFFFFFFFFFFF)
    else if d = 0x800 then some (0, 0xFFF)
    else if o = 0x01000818 then some (0x000A000A, 0xFFFF03FF)
    else if o = 0x01000820 then some (0xC8, 0xFFFF)
    else if o = 0x01000850 then some (0x0AC6A2, 0x3FFFFF)
    else if o = 0x01000870 then some (0x03E82710, 0x03FF3FFF)
    else none
  else if o = 0x01809008 then some (0x03E80A00, 0xFFFFFF03)
  else if o = 0x018B0000 then some (3, 0x7FF)
  else if 0x0180C800 ≤ o ∧ o < 0x0180CA00 ∧ o % 8 = 0 then some (0x1000, 0xFFFF)
  else if o = 0x01990008 then some (0x40030084, 0xFF03FFFF)
  else if o = 0x01990010 then some (0x100400, 0x1FFFFF)
  else if o = 0x01A00000 then some (0x18, 0xFF)
  else if o = 0x01B00000 then some (0x105DC0708, 0x107FF07FF)
  else none

/-- The word of a register of `rwlReg`: the last one written, or the reset word. -/
def regWord (s : State) (o : Nat) : Nat :=
  let o := canonOffset o
  mget (match rwlReg o with | some r => r.1 | none => 0) s.regs o

/-- A write of a register of `rwlReg`: only its writable bits change. -/
def setRegWord (o v : Nat) (s : State) : State :=
  let o := canonOffset o
  match rwlReg o with
  | none => s
  | some (_, mask) =>
    let old := regWord s o
    { s with regs := mset s.regs o ((old &&& (0xFFFFFFFFFFFFFFFF ^^^ mask)) ||| (v &&& mask)) }

def nodeId (s : State) : Nat := regWord s 0x01000800 % 4096
/-- VPORT_CFG.MODE of a fabric port. -/
def portMode (s : State) (p : Nat) : Nat := regWord s (0x01000000 + p / 2 * 0x100000 + p % 2 * 0x100) % 4
/-- PLT and SKEW in ns (R288). -/
def pltNs (s : State) : Nat := min 1000 (max 1 (bitsOf (regWord s 0x01000818) 9 0)) * 1000000
def skewNs (s : State) : Nat := min 1000 (bitsOf (regWord s 0x01000818) 31 16) * 1000
/-- MIN_REUSE of R293. -/
def minReuse (s : State) : Nat := ceilDiv' (pltNs s + skewNs s) 255
/-- The retransmit timeout in ns (R291). -/
def retxNs (s : State) : Nat := max 1 (bitsOf (regWord s 0x01000820) 15 0) * 1000
def graceNs (s : State) : Nat := min 10000 (bitsOf (regWord s 0x01000870) 13 0) * 1000
def holdNs (s : State) : Nat := max 1 (bitsOf (regWord s 0x01000870) 25 16) * 1000

/-! ### The event log -/

/-- SEV of an event code (Table 14.11; Table 17.5 for the 0x0A codes). -/
def evSev (code : Nat) : Nat :=
  if code = 0x0101 ∨ code = 0x0104 ∨ code = 0x0201 ∨ code = 0x0302 ∨ code = 0x0304 then 0
  else if code = 0x0103 ∨ code = 0x0107 ∨ code = 0x0109 ∨ code = 0x0205 ∨ code = 0x0305 ∨ code = 0x0401 ∨
      code = 0x0501 ∨ code = 0x0602 ∨ code = 0x0701 ∨ code = 0x0903 then 2
  else if code = 0x0204 ∨ code = 0x0702 ∨ code = 0x0801 ∨ code = 0x0902 then 3
  else if code = 0x0A01 then 0
  else if code = 0x0A02 then 3
  else 1

/-- SOURCE of an event whose rule names no die: the control die, which holds the log (DEDUCED, log 17). -/
def srcCt : Nat := 0x32

/-- The event log after one event: a record of its own, or merged with the newest one (R428). An ALERT_N pulse goes with each
record of SEV 2 or 3 (R493). -/
def evWrite (code sev source : Nat) (part : Option Nat) (unit : Nat) (args : List Nat) (now : Nat) (ev : EvLog) : EvLog :=
  let newestPos := (ev.head + 65535) % 65536
  let merged : Option EvRec :=
    match mfind ev.recs newestPos with
    | some r =>
      if ev.next ≠ 0 ∧ r.code = code ∧ r.source = source ∧ r.part = part ∧ r.unit = unit ∧
          now < r.ts + 1000000 ∧ r.times < 65535 then some { r with times := r.times + 1 } else none
    | none => none
  match merged with
  | some r => { ev with recs := mset ev.recs newestPos r }
  | none =>
    let r : EvRec := ⟨ev.next, now, code, sev, source, part, 1, unit, args⟩
    let head := (ev.head + 1) % 65536
    { ev with
      recs := mset ev.recs ev.head r
      head := head
      wrapped := ev.wrapped || head == 0
      overflow := if 65536 ≤ ev.next then sat32 (ev.overflow + 1) else ev.overflow
      next := ev.next + 1
      alerts := if 2 ≤ sev then ev.alerts + 1 else ev.alerts }

/-- Writes an event record with its severity given. -/
def logEventSev (code sev source : Nat) (part : Option Nat) (unit : Nat) (args : List Nat) (s : State) : State :=
  { s with ev := evWrite code sev source part unit args s.tb.now s.ev }

/-- An event with the severity of its code. -/
def logEvent (code source : Nat) (part : Option Nat) (unit : Nat) (args : List Nat) (s : State) : State :=
  logEventSev code (evSev code) source part unit args s

/-! ### Random numbers of the cocoon -/

/-- One draw of the cocoon's DRBG (R377): a free value. -/
def draw (s : State) : BitVec 256 × State :=
  (Config.drbg s.cocoon.draws, { s with cocoon := { s.cocoon with draws := s.cocoon.draws + 1 } })

/-- A 512-bit key: two draws. -/
def draw512 (s : State) : BitVec 512 × State :=
  let a := draw s
  let b := draw a.2
  (a.1 ++ b.1, b.2)

/-- One free value of the model, for a value the spec leaves open. -/
def freeTick (s : State) : Nat × State := (s.free, { s with free := s.free + 1 })

/-! ### Partitions -/

def part? (s : State) (n : Nat) : Option Part := mfind s.parts n

/-- Updates an existing partition. -/
def updPart (n : Nat) (f : Part → Part) (s : State) : State :=
  match mfind s.parts n with
  | some p => { s with parts := mset s.parts n (f p) }
  | none => s

/-- The partition of a tenant: the lowest one that holds it and is not being torn down (R371). -/
def partOfTenant (s : State) (t : Nat) : Option Nat :=
  (s.parts.find? fun x => x.2.tenant == t && x.2.state == .active).map (·.1)

def isConf (s : State) (n : Nat) : Bool := match part? s n with | some p => p.conf | none => false

/-- The state of a pseudo-channel. -/
def pcHealth (s : State) (g : Nat) : PcHealth := mget {} s.health.pcs g
def pcInService (s : State) (g : Nat) : Bool :=
  (pcHealth s g).state == .inService || (pcHealth s g).state == .degradedKept

/-- A die by its SOURCE code (Table 14.10) is lost (R423). -/
def dieLost (s : State) (d : Nat) : Bool := (mget {} s.health.dies d).lost

/-- The partition that a pseudo-channel belongs to. -/
def ownerOf (s : State) (g : Nat) : Option Nat := (s.parts.find? fun x => x.2.pcs.contains g).map (·.1)

/-- The in-service pseudo-channels a partition owns, in ascending order (R70). -/
def ownedPcs (s : State) (n : Nat) : List Nat :=
  match part? s n with
  | some p => p.pcs.filter (pcInService s)
  | none => []

/-! ### Counting keys of sorted tables -/

/-- How many keys of a table lie in [lo, hi). -/
def countKeys {α : Type} (m : List (Nat × α)) (lo hi : Nat) : Nat :=
  m.countP fun x => decide (lo ≤ x.1) && decide (x.1 < hi)

/-- The least number from `n` on that is no key of a sorted table. -/
def firstGap {α : Type} : Nat → List (Nat × α) → Nat
  | n, [] => n
  | n, (k, _) :: m => if k < n then firstGap n m else if k = n then firstGap (n + 1) m else n

/-- A list turned so that it starts at position `i` (the rotations of R70 and R498). -/
def rotate {α : Type} (l : List α) (i : Nat) : List α :=
  let i := if l.length = 0 then 0 else i % l.length
  l.drop i ++ l.take i

/-- The first answer of a function over a list. -/
def firstSome {α β : Type} (f : α → Option β) : List α → Option β
  | [] => none
  | x :: xs => match f x with | some y => some y | none => firstSome f xs

/-! ### Pages -/

/-- Free pages of a pseudo-channel: in service, with no record. -/
def pcFree (s : State) (g : Nat) : Nat := pcPages - countKeys s.pages (g * pcPages) ((g + 1) * pcPages)

/-- FREE of a partition (R68, R71). -/
def partFree (s : State) (n : Nat) : Nat := ((ownedPcs s n).map (pcFree s)).sum

/-- Retired pages of a pseudo-channel still in service. -/
def pcRetiredPages (s : State) (g : Nat) : Nat :=
  s.pages.countP fun x =>
    decide (g * pcPages ≤ x.1) && decide (x.1 < (g + 1) * pcPages) && (x.2.use == .retired)

/-- TOTAL of a partition: its in-service pages. -/
def partTotal (s : State) (n : Nat) : Nat := ((ownedPcs s n).map fun g => pcPages - pcRetiredPages s g).sum

/-- The lowest free page of a pseudo-channel. -/
def lowestFreePage (s : State) (g : Nat) : Option Nat :=
  let p := firstGap (g * pcPages) s.pages
  if p < (g + 1) * pcPages then some p else none

/-- Takes a page for a partition, starting from position `i` of its pseudo-channels (R70). -/
def allocPage (n i : Nat) (exc : Option (Nat × Nat)) (s : State) : Option (Nat × State) :=
  match firstSome (lowestFreePage s) (rotate (ownedPcs s n) i) with
  | some p => some (p, { s with pages := mset s.pages p { use := .inUse, part := n, exc := exc } })
  | none => none

/-- Takes a page in one pseudo-channel only. -/
def allocPageIn (n g : Nat) (exc : Option (Nat × Nat)) (s : State) : Option (Nat × State) :=
  match lowestFreePage s g with
  | some p => some (p, { s with pages := mset s.pages p { use := .inUse, part := n, exc := exc } })
  | none => none

/-- Takes `k` pages, the first at rotation `i` (b = 0 where the page belongs to no descriptor, DESIGN CHOICE
log 18). -/
def allocPages (n : Nat) : Nat → Nat → State → Option (List Nat × State)
  | 0, _, s => some ([], s)
  | k + 1, i, s =>
    match allocPage n i none s with
    | none => none
    | some (p, s1) =>
      match allocPages n k (i + 1) s1 with
      | none => none
      | some (ps, s2) => some (p :: ps, s2)

/-- The controller of a pseudo-channel, and the counters of a memory base die. -/
def pcCtl (s : State) (g : Nat) : PcCtl := mget {} s.mem.pcs g
def updPc (g : Nat) (f : PcCtl → PcCtl) (s : State) : State :=
  { s with mem := { s.mem with pcs := mset s.mem.pcs g (f (pcCtl s g)) } }
def memDie (s : State) (d : Nat) : MemDie := mget {} s.mem.dies d
def updMemDie (d : Nat) (f : MemDie → MemDie) (s : State) : State :=
  { s with mem := { s.mem with dies := mset s.mem.dies d (f (memDie s d)) } }

/-- A page task holds the page (R51), or a copy of it by ROWCOPY that a clone waits for (R66). -/
def pageHeld (s : State) (p : Nat) : Bool := (s.sched.tasks.any fun t => t.2.page == p) || s.fab.copies.any fun c => c.src == p

/-- A page whose last reference is released (R51, R52): held by page tasks, or waiting for its ROWZERO. -/
def releasePage (p : Nat) (s : State) : State :=
  match mfind s.pages p with
  | some r =>
    let r' : PageRec := if pageHeld s p then { r with use := .held } else { r with use := .zeroing, exc := none }
    { s with pages := mset s.pages p r' }
  | none => s

/-- A released page that nothing holds any more waits for its ROWZERO. -/
def settleHeld (p : Nat) (s : State) : State :=
  match mfind s.pages p with
  | some r => if r.use = .held ∧ !pageHeld s p then { s with pages := mset s.pages p { r with use := .zeroing, exc := none } } else s
  | none => s

/-- The bank group and the row of a page (R181). -/
def pageBg (p : Nat) : Nat := p % pcPages % 4
def pageRow (p : Nat) : Nat := p % pcPages / 4

def releasePages (ps : List Nat) (s : State) : State := ps.foldl (fun s p => releasePage p s) s

/-- A page that ROWZERO has zeroed is returned to the free pool (R52). -/
def returnPage (p : Nat) (s : State) : State := { s with pages := mdel s.pages p }

/-! ### Metadata blocks and reference entries -/

def pcMdbs : Nat := 16384
def pcRefs : Nat := 3072

def lowestFreeMdb (s : State) (g : Nat) : Option Nat :=
  let m := firstGap (g * pcMdbs) s.mdbs
  if m < (g + 1) * pcMdbs then some m else none

/-- Free MDBs of a partition. -/
def partMdbFree (s : State) (n : Nat) : Nat :=
  ((ownedPcs s n).map fun g => pcMdbs - countKeys s.mdbs (g * pcMdbs) ((g + 1) * pcMdbs)).sum

/-- Free reference entries of a partition. -/
def partRefFree (s : State) (n : Nat) : Nat :=
  ((ownedPcs s n).map fun g => pcRefs - countKeys s.refs (g * pcRefs) ((g + 1) * pcRefs)).sum

def takeMdb (n m : Nat) (s : State) : State := { s with mdbs := mset s.mdbs m n }

/-- A descriptor MDB (R498): the partition's count of descriptor MDBs chooses the pseudo-channel. -/
def allocDescMdb (n : Nat) (s : State) : Option (Nat × State) :=
  match part? s n with
  | none => none
  | some p =>
    match firstSome (lowestFreeMdb s) (rotate (ownedPcs s n) p.descCount) with
    | none => none
    | some m => some (m, updPart n (fun p => { p with descCount := p.descCount + 1 }) (takeMdb n m s))

/-- The rotation position of a pseudo-channel among a partition's own; 0 if it is not one of them. -/
def pcIndex (s : State) (n g : Nat) : Nat := (ownedPcs s n).findIdx (· == g) % max 1 (ownedPcs s n).length

/-- A stream-extension MDB or PLB of the descriptor at MDB `d` (R498). -/
def allocChainMdb (n d : Nat) (s : State) : Option (Nat × State) :=
  match firstSome (lowestFreeMdb s) (rotate (ownedPcs s n) (pcIndex s n (d / pcMdbs))) with
  | none => none
  | some m => some (m, takeMdb n m s)

def allocChainMdbs (n d : Nat) : Nat → State → Option (List Nat × State)
  | 0, s => some ([], s)
  | k + 1, s =>
    match allocChainMdb n d s with
    | none => none
    | some (m, s1) =>
      match allocChainMdbs n d k s1 with
      | none => none
      | some (ms, s2) => some (m :: ms, s2)

/-- Any other MDB (R498): the lowest free MDB of the lowest-numbered owned pseudo-channel that has one. -/
def allocOtherMdb (n : Nat) (s : State) : Option (Nat × State) :=
  match firstSome (lowestFreeMdb s) (ownedPcs s n) with
  | none => none
  | some m => some (m, takeMdb n m s)

def allocOtherMdbs (n : Nat) : Nat → State → Option (List Nat × State)
  | 0, s => some ([], s)
  | k + 1, s =>
    match allocOtherMdb n s with
    | none => none
    | some (m, s1) =>
      match allocOtherMdbs n k s1 with
      | none => none
      | some (ms, s2) => some (m :: ms, s2)

def freeMdbs (ms : List Nat) (s : State) : State := { s with mdbs := ms.foldl mdel s.mdbs }

/-- The reference entry for a page of pseudo-channel `g` (R498). -/
def refSlotFor (s : State) (n g : Nat) : Option Nat :=
  firstSome (fun h =>
    let r := firstGap (h * pcRefs) s.refs
    if r < (h + 1) * pcRefs then some r else none) (rotate (ownedPcs s n) (pcIndex s n g))

/-! ### Descriptors -/

def desc? (s : State) (m : Nat) : Option Desc := mfind s.descs m

def updDesc (m : Nat) (f : Desc → Desc) (s : State) : State :=
  match mfind s.descs m with
  | some d => { s with descs := mset s.descs m (f d) }
  | none => s

/-- Updates one stream of a descriptor. -/
def updStream (m i : Nat) (f : Stream → Stream) (s : State) : State :=
  updDesc m (fun d => match d.streams[i]? with
    | some st => { d with streams := d.streams.set i (f st) }
    | none => d) s

/-- Updates one page entry of a stream. -/
def updEntry (m i j : Nat) (f : PageEntry → PageEntry) (s : State) : State :=
  updStream m i (fun st => match st.entries[j]? with
    | some e => { st with entries := st.entries.set j (f e) }
    | none => st) s

/-- Ends a meaning: the command's effect on everything but the queue, which stays as it was. -/
def done (s t : State) : Host.Outcome State Fault Refusal := .next { t with pending := s.pending }

/-- What a read over the host link or of the register window returned last. -/
def setReadData (bs : List Byte) (s : State) : State := { s with host := { s.host with readData := bs } }

end Sys2Proof.Machine
end

