-- ==== Sys2Proof/Machine/Directory.lean ====
section
/-!
DEFINITION. The sequence directory (chapter 3): keys, search, insert-if-absent and delete over the arrays and
their shadow, replacement, the quota windows and the operation queues, the scrubber.
-/

namespace Sys2Proof.Machine

open Sys2Proof

/-! ### Keys (Table 3.2) -/

/-- The sequence key of a tenant, a sequence and a layer group. -/
def seqKey (tenant seqId lg : Nat) : BitVec 96 :=
  BitVec.ofNat 96 (tenant % 65536 + 0x10000 + seqId % 2 ^ 40 * 2 ^ 20 + lg % 256 * 2 ^ 60)

/-- The prefix key of a tenant and a block hash. -/
def prefixKey (tenant hash : Nat) : BitVec 96 :=
  BitVec.ofNat 96 (tenant % 65536 + 0x20000 + hash % 2 ^ 64 * 2 ^ 20)

def keyTenant (k : BitVec 96) : Nat := bitsOf k.toNat 15 0
def keyIsSeq (k : BitVec 96) : Bool := bitsOf k.toNat 19 16 == 1
def keyIsPrefix (k : BitVec 96) : Bool := bitsOf k.toNat 19 16 == 2
def keySeqId (k : BitVec 96) : Nat := bitsOf k.toNat 59 20
def keyLg (k : BitVec 96) : Nat := bitsOf k.toNat 67 60

/-- DATA of a sequence key (Table 3.3). -/
def seqData (mdb : Nat) (lc : Bool) : Nat := mdb % 2 ^ 24 + bnat lc * 2 ^ 24
def dataMdb (d : Nat) : Nat := d % 2 ^ 24
def dataLc (d : Nat) : Bool := bitOf d 24
def dataRef (d : Nat) : Nat := d % 2 ^ 22

/-! ### Segments -/

def segSize : Nat := 16384

/-- The segments a partition owns, ascending (R78). -/
def segsOf (s : State) (n : Nat) : List Nat := (s.dir.segOwn.filter fun x => x.2 == n).map (·.1)

/-- Which dies a partition's segments lie on (R85). -/
def onDie (s : State) (n d : Nat) : Bool := (segsOf s n).any fun g => g / 128 == d

/-- Free entries of a partition. -/
def dirFree (s : State) (n : Nat) : Nat :=
  ((segsOf s n).map fun g => segSize - countKeys s.dir.shadow (g * segSize) ((g + 1) * segSize)).sum

/-- Valid entries of a partition on a die. -/
def dirUsed (s : State) (n d : Nat) : Nat :=
  (((segsOf s n).filter fun g => g / 128 == d).map fun g =>
    countKeys s.dir.entries (g * segSize) ((g + 1) * segSize)).sum

/-! ### Operations (R83 to R90) -/

/-- The directory word of a key with V = 1 and its check bits (R79, Table 3.1). -/
def dirWord (key : BitVec 96) (pri data : Nat) : DirEntry :=
  let p := BitVec.ofNat 4 pri
  let d := BitVec.ofNat 28 data
  ⟨key, p, d, Config.secded (1#1 ++ d ++ p ++ key)⟩

/-- What the node stores (R80 to R82): a key of Table 3.2, DATA of Table 3.3 and a priority of Table 3.4. -/
def wordOk (key : BitVec 96) (pri data : Nat) : Bool :=
  (keyIsSeq key && bitsOf key.toNat 95 68 == 0 && (pri == 8 || pri == 9) && decide (data < 2 ^ 25)) ||
    (keyIsPrefix key && bitsOf key.toNat 95 84 == 0 && pri == 4 && decide (data < 2 ^ 22))

/-- The better of two matches: the higher priority, then the lower address (R83, R84). -/
def betterMatch (best : Option (Nat × DirEntry)) (x : Nat × DirEntry) : Option (Nat × DirEntry) :=
  match best with
  | none => some x
  | some b => if b.2.pri < x.2.pri ∨ (b.2.pri = x.2.pri ∧ x.1 < b.1) then some x else some b

/-- An entry is in a segment of the partition and has the key. -/
def dirHit (s : State) (n : Nat) (key : BitVec 96) (x : Nat × DirEntry) : Bool :=
  x.2.key == key && (mget 64 s.dir.segOwn (x.1 / segSize) == n)

/-- A search of a partition for a key (R83): the winner's address and word. -/
def dirSearch (s : State) (n : Nat) (key : BitVec 96) : Option (Nat × DirEntry) :=
  (s.dir.entries.filter (dirHit s n key)).foldl betterMatch none

/-- The address of a key by firmware's shadow, which also knows an entry that waits for its rewrite (R103). -/
def shadowAddr (s : State) (n : Nat) (key : BitVec 96) : Option Nat :=
  ((s.dir.shadow.filter (dirHit s n key)).foldl betterMatch none).map (·.1)

/-- The lowest free address of a partition's segments (R88); one that waits for its rewrite is not free (R103). -/
def lowestFreeAddr (s : State) (n : Nat) : Option Nat :=
  firstSome (fun g =>
    let a := firstGap (g * segSize) s.dir.shadow
    if a < (g + 1) * segSize then some a else none) (segsOf s n)

/-- A word and its shadow written at an address (R103: the shadow follows the arrays). -/
def dirPut (a : Nat) (e : DirEntry) (s : State) : State :=
  { s with dir := { s.dir with entries := mset s.dir.entries a e, shadow := mset s.dir.shadow a e } }

/-- A delete (R89). -/
def dirDelete (a : Nat) (s : State) : State :=
  { s with dir := { s.dir with entries := mdel s.dir.entries a, shadow := mdel s.dir.shadow a } }

/-- Insert-if-absent (R88): the state after it, and the address written; none where the key exists or no
address is free. -/
def dirInsert (n : Nat) (key : BitVec 96) (pri data : Nat) (s : State) : Option (Nat × State) :=
  match dirSearch s n key with
  | some _ => none
  | none =>
    match lowestFreeAddr s n with
    | none => none
    | some a => some (a, dirPut a (dirWord key pri data) s)

/-- The entry repaired from its shadow (R103). -/
def dirRepair (a : Nat) (s : State) : State :=
  match mfind s.dir.shadow a with
  | some e => { s with dir := { s.dir with entries := mset s.dir.entries a e } }
  | none => { s with dir := { s.dir with entries := mdel s.dir.entries a } }

/-! ### The two dies -/

def dirDie (s : State) (d : Nat) : DirDie := if d = 0 then s.dir.dd0 else s.dir.dd1

def updDirDie (d : Nat) (f : DirDie → DirDie) (s : State) : State :=
  if d = 0 then { s with dir := { s.dir with dd0 := f s.dir.dd0 } }
  else { s with dir := { s.dir with dd1 := f s.dir.dd1 } }

/-- One uncorrectable error on the die of an address, with its event (R86, R103). -/
def dirUncorrected (a : Nat) (s : State) : State :=
  let d := a / 2097152
  logEvent 0x0401 (0x38 + d) none d [a]
    (updDirDie d (fun x => { x with uncorrected := sat32 (x.uncorrected + 1) }) s)

/-- What a search of a sequence key finds. -/
inductive KeyFind where
  | miss
  /-- two mismatches (R86) -/
  | broken
  | hit (mdb : Nat) (addr : Nat) (lc : Bool)
  deriving DecidableEq, Repr

/-- The descriptor at an entry's DESC_MDB is that of the key and the partition (R86). -/
def descMatches (s : State) (n : Nat) (key : BitVec 96) (e : DirEntry) : Bool :=
  match desc? s (dataMdb e.data.toNat) with
  | some d =>
    d.tenant == keyTenant key && d.seqId == keySeqId key && d.layerGroup == keyLg key && d.part == n
  | none => false

/-- A search of a sequence key with the check and the one repair of R86. -/
def findKey (n : Nat) (key : BitVec 96) (s : State) : KeyFind × State :=
  match dirSearch s n key with
  | none => (.miss, s)
  | some (a, e) =>
    if descMatches s n key e then (.hit (dataMdb e.data.toNat) a (dataLc e.data.toNat), s)
    else
      let d := a / 2097152
      let s1 := updDirDie d (fun x => { x with uncorrected := sat32 (x.uncorrected + 1) }) (dirRepair a s)
      match dirSearch s1 n key with
      | none => (.miss, s1)
      | some (a2, e2) =>
        if descMatches s1 n key e2 then (.hit (dataMdb e2.data.toNat) a2 (dataLc e2.data.toNat), s1)
        else (.broken, logEvent 0x0401 (0x38 + a2 / 2097152) none (a2 / 2097152) [a2] s1)

/-! ### Quotas and queues (R97 to R99) -/

/-- The default quota of a partition on a die (R98). -/
def defaultQuota (s : State) (n d : Nat) : Nat :=
  let segs := ((segsOf s n).filter fun g => g / 128 == d).length
  1000 * segs / 128 / 4 * 4

/-- QUOTA × f at a throttle step (R99). -/
def effQuota (q step : Nat) : Nat := q * (4 - min step 3) / 4

/-- The effective quota of a partition on a die. -/
def quotaOf (s : State) (n d : Nat) : Nat :=
  match part? s n with
  | none => 0
  | some p => effQuota (if d = 0 then p.quota0 else p.quota1) s.dir.step

/-- Admissions of a partition that the present window of a die still allows. -/
def quotaLeft (s : State) (n d : Nat) : Nat := quotaOf s n d - mget 0 (dirDie s d).used n

/-- `k` admissions of a partition in the present window of a die. -/
def useQuota (n d k : Nat) (s : State) : State :=
  if k = 0 then s else updDirDie d (fun x => { x with used := mset x.used n (mget 0 x.used n + k) }) s

/-! ### The queues of the dies (R85, R87) -/

/-- An operation that runs over both dies: a search or an insert of a partition with segments on both (R85). -/
def cascaded (s : State) (q : DirReq) : Bool :=
  match q.op with
  | .delete _ => false
  | _ => onDie s q.part 0 && onDie s q.part 1

/-- The die whose queue an operation enters: that of the address of a delete, DD0 for a cascaded one. -/
def queueDie (s : State) (q : DirReq) : Nat :=
  match q.op with
  | .delete a => a / 2097152 % 2
  | _ => if onDie s q.part 0 then 0 else 1

/-- The entry of a cascaded operation at die 0 passes to die 1; only the part of the chain on die 0 is looked at. -/
def dd0Best (s : State) (q : DirReq) : Option (Nat × DirEntry) :=
  match q.op with
  | .search key | .insert key _ _ =>
    (s.dir.entries.filter fun x => decide (x.1 < 2097152) && dirHit s q.part key x).foldl betterMatch none
  | .delete _ => none

/-- The rest of the chain: the record that DD0 passed, and what this die finds (R84). -/
def chainEnd (s : State) (x : DirJob) (key : BitVec 96) : Option (Nat × DirEntry) :=
  (s.dir.entries.filter fun y => (!x.passed || decide (2097152 ≤ y.1)) && dirHit s x.req.part key y).foldl betterMatch x.best

/-- The result register of a die. -/
def setResult (d : Nat) (r : Option (Nat × DirEntry)) (s : State) : State :=
  updDirDie d (fun x => { x with result := r.map fun y => (y.1, y.2.pri.toNat, y.2.data.toNat) }) s

/-- Performs one operation at the end of its chain (R83, R88 to R90): the insert of a replacement, with PRI 9, does not look for
its key; what is no word of Tables 3.2 to 3.4 is not stored. -/
def performOp (d : Nat) (x : DirJob) (s : State) : State :=
  let q := x.req
  match q.op with
  | .search key => setResult d (chainEnd s x key) s
  | .insert key pri data =>
    let put := match lowestFreeAddr s q.part with
      | some a => if wordOk key pri data then setResult d none (dirPut a (dirWord key pri data) s) else setResult d none s
      | none => setResult d none s
    if pri = 9 then put
    else match chainEnd s x key with
      | some y => setResult d (some y) s
      | none => put
  | .delete a =>
    if mget 64 s.dir.segOwn (a / segSize) = q.part then dirDelete a s else s

/-- A cascaded insert is on its way through DD1: DD0 performs nothing until it has ended, since an insert is one queue step
(R88; log 80). -/
def insertPassing (s : State) : Bool :=
  s.dir.dd1.queue.any fun x => x.passed && match x.req.op with | .insert .. => true | _ => false

/-- The head of a die's queue is performed, or passes from DD0 to DD1 (R87). -/
def stepQueue (d : Nat) (s : State) : State :=
  match (dirDie s d).queue with
  | [] => s
  | x :: xs =>
    if d = 0 ∧ insertPassing s then s
    else
      let s1 := updDirDie d (fun y => { y with queue := xs }) s
      if d = 0 ∧ cascaded s x.req then
        updDirDie 1 (fun y => { y with queue := y.queue ++ [{ x with passed := true, best := dd0Best s x.req }] }) s1
      else performOp d x s1

/-- Every operation in the queues of both dies is performed, each queue in its order (`fuel` bounds the steps). -/
def drainQueues : Nat → State → State
  | 0, s => s
  | fuel + 1, s =>
    if s.dir.dd0.queue.isEmpty && s.dir.dd1.queue.isEmpty then s else drainQueues fuel (stepQueue 1 (stepQueue 0 s))

/-- An operation that follows sees every update that entered the queues before it (R87). -/
def drainDir (s : State) : State := drainQueues (2 * s.dir.dd0.queue.length + s.dir.dd1.queue.length + 1) s

/-- The admission of one operation of the node's own work on a die: in the present window, or in a later one where the quota is
used up (R97; log 70). -/
def countOn (n d : Nat) (s : State) : State :=
  if !onDie s n d then s
  else if 0 < quotaLeft s n d then useQuota n d 1 s
  else updDirDie d (fun x => { x with owed := mset x.owed n (mget 0 x.owed n + 1) }) s

/-- The admissions of an insert of the node's own work, after what the queues hold. -/
def countOp (n : Nat) (s : State) : State := countOn n 1 (countOn n 0 (drainDir s))

/-- The admission of a delete: on the die of its address. -/
def countDel (n a : Nat) (s : State) : State := countOn n (a / 2097152 % 2) (drainDir s)

/-- An entry is deleted by the node's own work (R87, R89). -/
def dirRemove (n a : Nat) (s : State) : State := dirDelete a (countDel n a s)

/-- A replacement of a sequence key's DATA (R90): a second entry with PRI 9, the old one deleted, PRI 8. The four steps follow one
another in the queues, so no search enters between them. Where no address is free for the second entry, DATA is rewritten in
place (DESIGN CHOICE, log 19). -/
def dirReplace (n : Nat) (key : BitVec 96) (data : Nat) (s : State) : State :=
  match dirSearch s n key with
  | none => s
  | some (old, e) =>
    match lowestFreeAddr s n with
    | none => dirPut old (dirWord key e.pri.toNat data) (drainDir s)
    | some a =>
      let s1 := dirPut a (dirWord key 9 data) (countOp n s)
      let s2 := dirRemove n old s1
      dirPut a (dirWord key 8 data) s2

/-- The present window still allows the deletes at these addresses. -/
def delsAllowed (s : State) (n : Nat) (as_ : List Nat) : Bool :=
  (List.range 2).all fun d => decide ((as_.countP fun a => a / 2097152 % 2 == d) ≤ quotaLeft s n d)

/-! ### Admission -/

/-- Quota of the present window allows an operation: on both dies for a cascaded one. -/
def admissible (s : State) (d : Nat) (q : DirReq) : Bool :=
  decide (0 < quotaLeft s q.part d) && (!cascaded s q || decide (0 < quotaLeft s q.part 1))

/-- The first waiting operation that can be admitted: an LC one of a partition before its BE ones (R97). -/
def pickWaiting (s : State) (d : Nat) : Option DirReq :=
  match (dirDie s d).wait.find? (fun q => q.lc && admissible s d q) with
  | some q => some q
  | none => (dirDie s d).wait.find? fun q => admissible s d q

/-- Every waiting operation that quota allows enters the die's queue (`fuel` bounds the admissions). -/
def admitAll (d : Nat) : Nat → State → State
  | 0, s => s
  | fuel + 1, s =>
    match pickWaiting s d with
    | none => s
    | some q =>
      let s1 := updDirDie d (fun x => { x with wait := x.wait.erase q, queue := x.queue ++ [{ req := q }] }) s
      admitAll d fuel (useQuota q.part d 1 (if cascaded s q then useQuota q.part 1 1 s1 else s1))

/-- DIRECTORY_OPERATION: an operation arrives at the intake of its die (R97), what quota allows is admitted in order,
and the head of the queue of `die` is performed (R87 to R89). -/
def execDirectoryOperation (die : Nat) (arrive : Option DirReq) (s : State) :
    Host.Outcome State Fault Refusal :=
  let s1 := match arrive with
    | none => s
    | some q =>
      let h := queueDie s q
      if 4096 ≤ (dirDie s h).wait.countP (fun w => w.part == q.part) then
        updDirDie h (fun x => { x with stopped := if x.stopped.contains q.part then x.stopped
                                                    else x.stopped ++ [q.part] }) s
      else updDirDie h (fun x => { x with wait := x.wait ++ [q] }) s
  let settle := fun (d : Nat) (s : State) =>
    updDirDie d (fun y => { y with stopped := y.stopped.filter fun n => decide (4096 ≤ y.wait.countP fun w => w.part == n) })
      (admitAll d (dirDie s d).wait.length s)
  let s2 := settle 1 (settle 0 s1)
  if !serving s || !(dirDie s die).ready then done s s else done s (stepQueue die s2)

/-- The partitions with an operation waiting. -/
def waitingParts (x : DirDie) : List Nat := ((x.wait.map (·.part)).dedup)

/-- The partitions with a request that waits for a die's quota. -/
def waitingReqParts (s : State) (d : Nat) : List Nat :=
  ((s.dir.waitReqs.filter fun w => if d = 0 then w.left0 != 0 else w.left1 != 0).map (·.part)).dedup

/-- A quota window starts on a die (R97): the windows in which operations of the partitions `ps` waited are counted, the
admissions start from those that are owed, as far as `q` allows. -/
def newWindow (q : Nat → Nat) (ps : List Nat) (x : DirDie) : DirDie :=
  { x with
    qwait := (waitingParts x ++ ps ++ x.owed.map (·.1)).dedup.foldl (fun m n => mset m n (sat32 (mget 0 m n + 1))) x.qwait
    used := x.owed.map fun y => (y.1, min y.2 (q y.1))
    owed := (x.owed.map fun y => (y.1, y.2 - q y.1)).filter fun y => y.2 != 0 }

/-- New quotas of a partition come into force (R98). -/
def applyQuota (p : Part) : Part :=
  { p with quota0 := p.quotaNext0.getD p.quota0, quota1 := p.quotaNext1.getD p.quota1, quotaNext0 := none, quotaNext1 := none }

/-- DIRECTORY_QUOTA_WINDOW: the next window of both dies (R97 to R99): quotas and the throttle step that wait
take effect, and waiting operations are admitted. -/
def execDirectoryQuotaWindow (s : State) : Host.Outcome State Fault Refusal :=
  if !serving s then done s s
  else
    let s1 := { s with parts := s.parts.map (fun x => (x.1, applyQuota x.2)), dir := { s.dir with step := s.dir.stepNext } }
    let open_ := fun (d : Nat) (t : State) => updDirDie d (newWindow (fun n => quotaOf s1 n d) (waitingReqParts s d)) t
    let s2 := open_ 1 (open_ 0 s1)
    let s3 := admitAll 0 s2.dir.dd0.wait.length s2
    done s (admitAll 1 s3.dir.dd1.wait.length s3)

/-- The address the scrubber of a die reads next: its position counts through the die's entries. -/
def scrubAddr (s : State) (d : Nat) : Nat := d * 2097152 + (dirDie s d).scrubPos

/-- Firmware rewrites from the shadow what the scrubber of a die has cleared (R103). -/
def rewriteCleared (d : Nat) (s : State) : State :=
  (dirDie s d).repairs.foldl (fun s a => dirRepair a s) (updDirDie d (fun x => { x with repairs := [] }) s)

/-- DIRECTORY_SCRUB: the scrubber of a die reads its next entry (R103): a single-bit error is corrected and
counted; an uncorrectable one clears V, is counted and logged, and firmware rewrites the entry from the
shadow before the scrubber's next read (log 80); until then a search of its key misses. -/
def execDirectoryScrub (die : Nat) (found : ReadOutcome) (s : State) : Host.Outcome State Fault Refusal :=
  if !serving s then done s s
  else
    let s0 := rewriteCleared die s
    if regWord s (0x00400000 + die % 2 * 0x200000) % 2 = 0 then done s s0
    else
      let a := scrubAddr s0 die
      let s1 := updDirDie die (fun x => { x with scrubPos := (x.scrubPos + 1) % 2097152 }) s0
      match found with
      | .clean => done s s1
      | .correctable => done s (updDirDie die (fun x => { x with corrected := sat32 (x.corrected + 1) }) s1)
      | .uncorrectable =>
        let s2 := { s1 with dir := { s1.dir with entries := mdel s1.dir.entries a } }
        done s (dirUncorrected a (updDirDie die (fun x => { x with repairs := x.repairs ++ [a] }) s2))

end Sys2Proof.Machine
end

