-- ==== Sys2Proof/Machine/Transport.lean ====
section
/-!
DEFINITION. The sending side of the fabric: header bytes, cells, keys of protected connections, egress queues
with their telemetry, responses, the window slots they finish, and the node's own requests (chapters 9, 11, 13).
-/

namespace Sys2Proof.Machine

open Sys2Proof

/-! ### Header and packets (R266 to R270) -/

/-- The 32 header bytes of Table 9.3 with the check byte given. -/
def headerBytesWith (h : NativeHdr) (hcrc : Nat) : List Byte :=
  leBytes 1 (h.verMajor * 16 + h.verMinor) ++ leBytes 1 h.typ ++
  leBytes 2 (h.length + bnat h.final * 2048 + bnat h.spec * 4096 + bnat h.lc * 8192 + h.route * 16384) ++
  leBytes 2 h.tenant ++ leBytes 2 h.epoch ++
  leBytes 4 (h.src + h.dst * 4096 + hcrc * 0x1000000) ++ leBytes 4 h.ingressTs ++ leBytes 4 h.mseq ++
  leBytes 4 h.word ++ leBytes 8 (h.offset + h.conn * 2 ^ 40)

/-- The header bytes with byte 0x0B taken as zero (R267, R285). -/
def headerBytes0 (h : NativeHdr) : List Byte := headerBytesWith h 0

/-- HCRC of a header (R267). -/
def hcrcOf (h : NativeHdr) : Nat := crc8 (headerBytes0 h)

def cellSize : Nat := 2048

/-- How many cells a body of `total` bytes has (R269). -/
def cellCount (total : Nat) : Nat := ceilDiv' total cellSize

/-- The cell index of a packet's header (R286). -/
def cellIndex (h : NativeHdr) : Nat := if h.final then ceilDiv' h.offset cellSize - 1 else h.offset / cellSize

/-- TYPE of packet `k` of a message: an RMA write changes at its FINAL packet (R270). -/
def packetType (typ : Nat) (final : Bool) : Nat := if typ = 0x40 ∨ typ = 0x42 then (if final then 0x42 else 0x40) else typ

/-- The packets of a message from its header template (R269). -/
def packetsOf (h : NativeHdr) (body : List Byte) : List (NativeHdr × List Byte) :=
  let n := cellCount body.length
  (List.range n).map fun k =>
    let cell := (body.drop (k * cellSize)).take cellSize
    let final := k + 1 == n
    let hdr := { h with length := cell.length - 1, final := final, typ := packetType h.typ final,
                        offset := if final then body.length else k * cellSize }
    (hdr, cell)

/-- The policed length of a packet (R331). -/
def policedLen (h : NativeHdr) : Nat := 32 + h.length + 1

/-! ### Protected connections (R285, R381) -/

/-- The 96-bit nonce of a packet. -/
def gcmNonce (h : NativeHdr) : List Byte :=
  leBytes 4 h.mseq ++ leBytes 4 (cellIndex h) ++ leBytes 3 h.conn ++ leBytes 1 (h.typ / 128)

/-- The key of one direction in a generation (R381). -/
def connKey (master : BitVec 256) (tenant sender receiver senderConn receiverConn gen : Nat) : BitVec 256 :=
  let prk := hkdfExtract (leBytes 2 tenant) (leBytes 32 master.toNat)
  let info := (leBytes 7 0x6E6E6F632D6776) ++ leBytes 2 sender ++ leBytes 2 receiver ++ leBytes 3 senderConn ++
    leBytes 3 receiverConn ++ leBytes 4 gen
  BitVec.ofNat 256 (leNat (hkdfExpand32 prk info))

/-- The generation of message sequence `m`, given that of `b`, where the series starts at `start` (R381). -/
def genOf (start b gen m : Nat) : Nat :=
  let u := (b + 2 ^ 32 - start % 2 ^ 32) % 2 ^ 32
  let d := (m + 2 ^ 32 - b % 2 ^ 32) % 2 ^ 32
  if d < 2 ^ 31 then (if 2 ^ 32 ≤ u + d then gen + 1 else gen)
  else (if u < 2 ^ 32 - d then gen - 1 else gen)

/-- The key under which this node receives a packet; a response belongs to the series of the request it answers
(DEDUCED, log 20). An erased key is zero in its engine (R378). -/
def rxKey (s : State) (cid : Nat) (c : Conn) (h : NativeHdr) : Option (BitVec 256) :=
  let gen := if h.typ < 128 ∨ 0xE0 ≤ h.typ then genOf c.openerStart c.base c.rxGen h.mseq
             else genOf c.txStart c.txNext c.txGen h.mseq
  if c.protect then
    some (match c.master with | some m => connKey m c.tenant c.peer (nodeId s) c.peerConn cid gen | none => 0#256)
  else none

/-- The key under which this node sends a packet; CONN_OPEN and CONN_ACCEPT are not protected (R285). -/
def txKey (s : State) (cid : Nat) (c : Conn) (typ mseq : Nat) : Option (BitVec 256) :=
  let gen := if typ < 128 ∨ 0xE0 ≤ typ then genOf c.txStart c.txNext c.txGen mseq
             else genOf c.openerStart c.base c.rxGen mseq
  if c.protect && typ != 0xE0 && typ != 0xE1 then
    some (match c.master with | some m => connKey m c.tenant (nodeId s) c.peer cid c.peerConn gen | none => 0#256)
  else none

/-! ### Fabric records -/

def conn? (s : State) (c : Nat) : Option Conn := mfind s.fab.conns c
def setConn (i : Nat) (c : Conn) (s : State) : State :=
  { s with fab := { s.fab with conns := mset s.fab.conns i c } }
def updConn (i : Nat) (f : Conn → Conn) (s : State) : State :=
  match mfind s.fab.conns i with
  | some c => setConn i (f c) s
  | none => s

def netDie (s : State) (d : Nat) : NetDie := mget {} s.fab.dies d
def updNetDie (d : Nat) (f : NetDie → NetDie) (s : State) : State :=
  { s with fab := { s.fab with dies := mset s.fab.dies d (f (netDie s d)) } }

def portOf (s : State) (p : Nat) : Port := mget {} s.fab.ports p
def updPort (p : Nat) (f : Port → Port) (s : State) : State :=
  { s with fab := { s.fab with ports := mset s.fab.ports p (f (portOf s p)) } }

/-! ### Charging (R323) -/

/-- Adds to the charging record of a partition whose interval holds time `t`. -/
def chargeAt (n t : Nat) (f : Charge → Charge) (s : State) : State :=
  updPart n (fun p =>
    if p.charge.start ≤ t then { p with charge := f p.charge }
    else match p.ring.find? (fun x => decide (x.2.start ≤ t) && decide (t < x.2.stop)) with
      | some (i, c) => { p with ring := mset p.ring i (f c) }
      | none => p) s

/-- The start of the microsecond in which work runs: engine cycles and Moss steps are charged there (R323). -/
def tickTime (s : State) : Nat := s.tb.now / 1000 * 1000

/-- HBM_READ_BYTES of a partition's charging record: bytes read from its pages (R323; what counts, DESIGN CHOICE, log 89). -/
def chargeReads (n bytes : Nat) (s : State) : State :=
  chargeAt n s.tb.now (fun c => { c with hbmBytes := sat64 (c.hbmBytes + bytes) }) s

/-! ### Queue telemetry (R338, R339) -/

/-- The node-wide number of egress queue `j` of a port, and of the ingress queue of a partition on a die. -/
def egressTel (port j : Nat) : Nat := 196 * (port / 2) + 66 * (port % 2) + j
def ingressTel (die n : Nat) : Nat := 196 * die + 132 + n

def qArrive (n : Nat) (q : QTel) : QTel :=
  let d := q.depth + n
  { q with depth := d, depthMax := max q.depthMax d, arrBytes := q.arrBytes + n,
           arrUnits := min 65535 (q.arrUnits + 1) }

def qDepart (n delay : Nat) (q : QTel) : QTel :=
  { q with depth := q.depth - n, depBytes := q.depBytes + n, depUnits := min 65535 (q.depUnits + 1),
           delayMax := max q.delayMax (sat32 delay) }

def updTel (g : Nat) (f : QTel → QTel) (s : State) : State :=
  { s with fab := { s.fab with telemetry := mset s.fab.telemetry g (f (mget {} s.fab.telemetry g)) } }

/-! ### Token buckets (R332, R336, R337) -/

/-- BURST values below 2,080 act as 2,080. -/
def effBurst (b : Bucket) : Nat := max 2080 b.burst

/-- The refills up to interval `k`. -/
def refillTo (k : Nat) (b : Bucket) : Bucket :=
  if k ≤ b.upTo then b
  else { b with tokens := min (effBurst b) (b.tokens + b.rate * (k - b.upTo)), upTo := k }

/-- A configuration change takes effect at the boundary that starts interval `k` (R337). -/
def applyChange (policer : Bool) (k rate burst : Nat) (en tokInit : Bool) (b : Bucket) : Bucket :=
  let full := max 2080 burst
  { b with
    rate := rate
    burst := burst
    en := en
    tokInit := tokInit
    tokens := if policer || tokInit then full else 0
    upTo := k
    changes := sat32 (b.changes + 1)
    change := none }

/-- A bucket brought to interval `k`: its refills, and its change in place of the refill at the change's
boundary. -/
def bucketAt (policer : Bool) (k : Nat) (b : Bucket) : Bucket :=
  match b.change with
  | none => refillTo k b
  | some (rate, burst, en, tokInit, t) =>
    if t / 1000 + 1 ≤ k then refillTo k (applyChange policer (t / 1000 + 1) rate burst en tokInit b)
    else refillTo k b

def policerOf (s : State) (i : Nat) : Bucket := mget {} s.fab.policers i
def setPolicer (i : Nat) (b : Bucket) (s : State) : State :=
  { s with fab := { s.fab with policers := mset s.fab.policers i b } }
def shaperOf (s : State) (i : Nat) : Bucket := mget {} s.fab.shapers i
def setShaper (i : Nat) (b : Bucket) (s : State) : State :=
  { s with fab := { s.fab with shapers := mset s.fab.shapers i b } }

/-! ### Egress queues (R334) -/

/-- The key of egress queue `j` of a port. -/
def egressKey (port j : Nat) : Nat := 66 * port + j
def egressOf (s : State) (k : Nat) : List OutPkt := mget [] s.fab.egress k
def setEgress (k : Nat) (l : List OutPkt) (s : State) : State :=
  { s with fab := { s.fab with egress := mset s.fab.egress k l } }

/-- WAIT_NS of shaper `64 × port + n` is kept up to date: the head packet waits while it does not conform
(Table 11.5). -/
def noteWait (port n : Nat) (s : State) : State :=
  let i := 64 * port + n
  let b := bucketAt false (s.tb.now / 1000) (shaperOf s i)
  let waits := match egressOf s (egressKey port (2 + n)) with
    | [] => false
    | p :: _ => b.en && decide (b.tokens < policedLen p.hdr)
  match b.waitSince, waits with
  | none, true => setShaper i { b with waitSince := some s.tb.now } s
  | some t, false => setShaper i { b with waitSince := none, waitNs := sat64 (b.waitNs + (s.tb.now - t)) } s
  | _, _ => s

/-- A packet enters egress queue `j`, or waits for a place (R334). -/
def enqueue (port j : Nat) (p : OutPkt) (s : State) : State :=
  let k := egressKey port j
  let q := egressOf s k
  if 256 ≤ q.length then { s with fab := { s.fab with blocked := s.fab.blocked ++ [(k, p)] } }
  else
    let s1 := updTel (egressTel port j) (qArrive (policedLen p.hdr))
      (setEgress k (q ++ [{ p with at_ := s.tb.now }]) s)
    if 2 ≤ j then noteWait port (j - 2) s1 else s1

/-- The egress queue of a packet. -/
def egressQueueOf (h : NativeHdr) (part : Nat) : Nat :=
  if h.lc then 0 else if 0xE0 ≤ h.typ then 1 else 2 + part

/-- A message's packets enter a port's queues; its first transmission stamps INGRESS_TS unless it is already
stamped. -/
def sendMessage (port cid part : Nat) (h : NativeHdr) (body : List Byte) (stamped : Bool)
    (key : Option (BitVec 256)) (frond : Option Nat) (second : Bool) (s : State) : State :=
  let n := s.fab.nextMsg
  (packetsOf h body).foldl (fun s x =>
    enqueue port (egressQueueOf h part)
      { hdr := x.1, payload := x.2, at_ := s.tb.now, frond := frond, second := second, own := some cid,
        part := some part, stamped := stamped, key := key, msg := n } s) { s with fab := { s.fab with nextMsg := n + 1 } }

/-- The Ethernet port that the neighbour table names for a node (R334). -/
def secondPort (s : State) (node : Nat) : Bool :=
  match s.fab.neighbours.find? (fun x => x.1 == node) with
  | some x => x.2.2.1 == 1
  | none => false

/-- The header template of a packet of a connection. -/
def connHdr (s : State) (c : Conn) (typ : Nat) : NativeHdr :=
  { verMajor := c.verMajor, verMinor := c.verMinor, typ := typ, length := 0, final := false, spec := false,
    lc := false, route := 0, tenant := c.tenant, epoch := s.epochs.current, src := nodeId s, dst := c.peer,
    hcrc := 0, ingressTs := 0, mseq := 0, word := 0, offset := 0, conn := c.peerConn }

/-! ### Status bodies (R107, R299) -/

/-- An 8-byte body: STATUS and 7 reserved bytes. -/
def statusBody (st : Nat) : List Byte := leBytes 8 st

/-- The body of a status that leaves every other field of the request's response at zero (R299): 32 bytes for
the attention requests and MERGE (Table 4.4), 16 for SEQ_CLONE, SPEC_COMMIT, SPEC_ABORT, SWAP_OUT, SWAP_IN and CHECKPOINT, and
8 for the others. -/
def refusedBody (op st : Nat) : List Byte :=
  if op = 0x01 ∨ op = 0x02 ∨ op = 0x03 ∨ op = 0x30 then leBytes 32 st
  else if op = 0x06 ∨ op = 0x07 ∨ op = 0x12 ∨ op = 0x20 ∨ op = 0x21 ∨ op = 0x22 then leBytes 16 st
  else statusBody st

/-- The smallest TOKENS of a descriptor's streams. -/
def minTokens (d : Desc) : Nat :=
  match d.streams with
  | [] => 0
  | st :: rest => rest.foldl (fun m x => min m x.tokens) st.tokens

/-- The response of Table 7.5: status, TOKENS and DISCARDED. -/
def specBody (st tokens dropped : Nat) : List Byte := leBytes 4 st ++ leBytes 4 tokens ++ leBytes 8 dropped

/-- The smallest TOKENS of the sequence that a body of Table 7.4 names; 0 where its key misses. -/
def namedTokens (s : State) (n tenant : Nat) (body : List Byte) : Nat :=
  if body.length < 9 then 0
  else match dirSearch s n (seqKey tenant (fieldAt body 0 5) (fieldAt body 8 1)) with
    | some (_, e) => match desc? s (dataMdb e.data.toNat) with | some d => minTokens d | none => 0
    | none => 0

/-- The body of a refusal: SPEC_COMMIT and SPEC_ABORT give TOKENS under every status (R221). -/
def refusalBody (s : State) (n tenant op st : Nat) (body : List Byte) : List Byte :=
  if op = 6 ∨ op = 7 then specBody st (namedTokens s n tenant body) 0 else refusedBody op st

/-! ### Responses (R299) -/

/-- TYPE of the response to a request's TYPE. -/
def responseType (typ : Nat) : Nat := if typ = 0x40 ∨ typ = 0x42 then 0xC2 else 0x80 + typ

/-- STATUS_ARG under a version (Table 9.2). -/
def argOf (c : Conn) (arg : Nat) : Nat :=
  if c.verMajor < 2 ∨ (c.verMajor = 2 ∧ c.verMinor < 2) then 0 else arg % 2 ^ 32

/-- Counts the statuses that have a counter of their own (R297, R316, R294). -/
def countStatus (die st : Nat) (s : State) : State :=
  if st = stNotResident then updNetDie die (fun d => { d with retrySent := sat32 (d.retrySent + 1) }) s
  else if st = stStaleMap then updNetDie 0 (fun d => { d with staleSent := sat32 (d.staleSent + 1) }) s
  else s

/-- The frond whose occurrence a request owns. -/
def frondOfReq (s : State) (cid mseq : Nat) : Option Nat :=
  (s.fronds.taken.find? fun x => x.2.2.1 == cid && x.2.2.2 == mseq).map (·.1)

/-- Sends a response on a connection by a port. -/
def respondPkt (cid mseq port typ : Nat) (lc : Bool) (arg : Nat) (body : List Byte) (s : State) : State :=
  match conn? s cid with
  | none => s
  | some c =>
    let t := responseType typ
    let h := { connHdr s c t with mseq := mseq, lc := lc, word := argOf c arg }
    countStatus c.home (leNat (body.take 1))
      (sendMessage port cid c.part h body false (txKey s cid c t mseq) (if lc then frondOfReq s cid mseq else none)
        (secondPort s c.peer) s)

/-! ### Window slots (R286, R289) -/

/-- Releases what a slot holds: pages, coverage MDBs and store cells (R273). -/
def releaseSlotMem (sl : Slot) (s : State) : State :=
  freeMdbs sl.mdbs (releasePages (sl.pages.map (·.2)) s)

/-- The slot becomes done with a status; what it held is released. -/
def finishSlot (cid mseq st : Nat) (s : State) : State :=
  match conn? s cid with
  | none => s
  | some c =>
    match mfind c.slots mseq with
    | none => s
    | some sl =>
      let sl' := { sl with done := true, status := st, cells := [], pages := [], mdbs := [], waiting := false }
      setConn cid { c with slots := mset c.slots mseq sl' } (releaseSlotMem sl s)

/-- The body of a refusal on a connection. -/
def refusalOn (s : State) (cid tenant op st : Nat) (body : List Byte) : List Byte :=
  match conn? s cid with
  | some c => refusalBody s c.part tenant op st body
  | none => refusedBody op st

/-- The first cell of a message whose slot is kept, where it has come, or the payload that has come with it. -/
def firstCell (s : State) (cid mseq : Nat) (payload : List Byte) : List Byte :=
  match ((conn? s cid).bind fun c => mfind c.slots mseq).bind fun sl => mfind sl.cells 0 with
  | some b => b
  | none => payload

/-- fail(s, st) of R286, for the message that header `h` begins; `payload`: that of a packet of it that is not in its slot. -/
def failSlot (cid mseq port : Nat) (h : NativeHdr) (st arg : Nat) (payload : List Byte) (s : State) : State :=
  respondPkt cid mseq port h.typ h.lc arg (refusalOn s cid h.tenant h.typ st (firstCell s cid mseq payload))
    (finishSlot cid mseq st s)

/-- The slot at BASE may be left (R289). -/
def baseMoves (s : State) (c : Conn) : Bool :=
  let life := pltNs s + skewNs s
  match mfind c.slots (c.base % 2 ^ 32) with
  | some sl => sl.done || c.slots.any fun x =>
      decide (0 < (x.1 + 2 ^ 32 - c.base) % 2 ^ 32) &&
      decide (life ≤ (s.tb.now + 2 ^ 32 - x.2.first.ingressTs) % 2 ^ 32) &&
      decide ((s.tb.now + 2 ^ 32 - x.2.first.ingressTs) % 2 ^ 32 < 2 ^ 32 - skewNs s)
  | none => c.slots.any fun x =>
      decide (0 < (x.1 + 2 ^ 32 - c.base) % 2 ^ 32) &&
      decide (life ≤ (s.tb.now + 2 ^ 32 - x.2.first.ingressTs) % 2 ^ 32) &&
      decide ((s.tb.now + 2 ^ 32 - x.2.first.ingressTs) % 2 ^ 32 < 2 ^ 32 - skewNs s)

/-- WINDOW_BASE_ADVANCE: BASE moves forward one slot where R289 lets it; an open slot that it leaves is discarded
and counted. -/
def execWindowBaseAdvance (cid : Nat) (s : State) : Host.Outcome State Fault Refusal :=
  if !serving s then done s s
  else match conn? s cid with
  | none => done s s
  | some c =>
    if baseMoves s c then
      let next := (c.base + 1) % 2 ^ 32
      let gen := if next = c.openerStart then c.rxGen + 1 else c.rxGen
      let c' := { c with base := next, slots := mdel c.slots c.base, rxGen := gen }
      match mfind c.slots c.base with
      | none => done s (setConn cid c' s)
      | some sl =>
        let s1 := releaseSlotMem sl (setConn cid c' s)
        if sl.done then done s s1
        else done s (updNetDie c.home (fun d => { d with window := sat32 (d.window + 1) }) s1)
    else done s s

/-! ### The node as a sender (R288, R291) -/

/-- A message that R288 lets the node send now: no request of MSEQ n − 256 or below is unanswered. -/
def mayTransmit (c : Conn) (m : TxMsg) : Bool :=
  c.tx.all fun x => decide ((m.mseq + 2 ^ 32 - x.mseq) % 2 ^ 32 < 256) || decide (2 ^ 31 ≤ (m.mseq + 2 ^ 32 - x.mseq) % 2 ^ 32)

/-- The packets of one of the node's own requests enter the egress queues. -/
def transmitTx (cid : Nat) (m : TxMsg) (stamped : Bool) (s : State) : State :=
  match conn? s cid with
  | none => s
  | some c =>
    let h := { connHdr s c m.typ with mseq := m.mseq, word := m.word, ingressTs := m.ingressTs, epoch := m.epoch }
    sendMessage c.port cid c.part h m.body stamped (txKey s cid c m.typ m.mseq) none (secondPort s c.peer) s

/-- Sends the waiting messages of a connection that R288 lets go, in ascending MSEQ. -/
def flushTx (cid : Nat) (s : State) : State :=
  match conn? s cid with
  | none => s
  | some c =>
    c.tx.foldl (fun s m =>
      if m.sent || c.opening || !mayTransmit c m then s
      else transmitTx cid m false
        (updConn cid (fun c => { c with tx := c.tx.map fun x =>
          if x.mseq = m.mseq then { x with sent := true, lastTx := s.tb.now } else x }) s)) s

/-- Sends a request message on a connection: its MSEQ, and the state. -/
def sendRequest (cid typ word : Nat) (body : List Byte) (why : SendFor) (s : State) : Nat × State :=
  match conn? s cid with
  | none => (0, s)
  | some c =>
    let m : TxMsg := ⟨c.txNext, typ, 0, s.tb.now, word, body, why, s.epochs.current, false⟩
    let next := (c.txNext + 1) % 2 ^ 32
    let gen := if next = c.txStart then c.txGen + 1 else c.txGen
    (c.txNext, flushTx cid (setConn cid { c with tx := c.tx ++ [m], txNext := next, txGen := gen } s))

/-- A request of the node is answered or abandoned: it leaves the list, and messages behind it may go. -/
def dropTx (cid mseq : Nat) (s : State) : State :=
  flushTx cid (updConn cid (fun c => { c with tx := c.tx.filter fun x => x.mseq != mseq }) s)

/-- The first transmission of a message still waits in a queue. -/
def notYetSent (s : State) (cid mseq : Nat) : Bool :=
  let mine : OutPkt → Bool := fun p => p.own == some cid && p.hdr.mseq == mseq && !p.stamped &&
    (decide (p.hdr.typ < 128) || p.hdr.typ == 0xE0 || p.hdr.typ == 0xE2)
  (s.fab.egress.any fun x => x.2.any mine) || s.fab.blocked.any fun x => mine x.2

/-- RETRANSMIT_TIMEOUT: every cell of an unanswered message is sent again, up to the lifetime limit (R288,
R291). -/
def execRetransmitTimeout (cid mseq : Nat) (s : State) : Host.Outcome State Fault Refusal :=
  if !serving s then done s s
  else match conn? s cid with
  | none => done s s
  | some c =>
    match c.tx.find? (fun x => x.mseq == mseq) with
    | none => done s s
    | some m =>
      if m.sent && !notYetSent s cid mseq && decide (retxNs s ≤ s.tb.now - m.lastTx) &&
          decide ((s.tb.now + 2 ^ 32 - m.ingressTs) % 2 ^ 32 < pltNs s) then
        done s (transmitTx cid m true (updConn cid (fun c => { c with tx := c.tx.map fun x =>
          if x.mseq = mseq then { x with lastTx := s.tb.now } else x }) s))
      else done s s

end Sys2Proof.Machine
end

