-- ==== Sys2Proof/Machine/Answer.lean ====
section
/-!
DEFINITION. How the node answers: completion entries of the command rings, output in host memory, management
responses, cocoon answers, and the response of a request wherever it came from.
-/

namespace Sys2Proof.Machine

open Sys2Proof

/-! ### Ring pairs (R349 to R352) -/

/-- The number under which ring pair `r` of partition `n` is kept. -/
def ringKey (n r : Nat) : Nat := 8 * n + r
def ring (s : State) (n r : Nat) : Ring := mget {} s.host.rings (ringKey n r)
def setRing (n r : Nat) (x : Ring) (s : State) : State :=
  { s with host := { s.host with rings := mset s.host.rings (ringKey n r) x } }
def updRing (n r : Nat) (f : Ring → Ring) (s : State) : State := setRing n r (f (ring s n r)) s

/-- The HBM address of byte `off` of a region backed by a list of pages; none past its end. -/
def backedAddr (pages : List Nat) (off : Nat) : Option Nat :=
  (pages[off / pageSize]?).map fun p => pageAddr p + off % pageSize

/-- Completion slots that are free. -/
def cqFree (x : Ring) : Nat := 2 ^ x.cqLog - (x.cqTail - x.cqHead)

/-- MSI-X vector of a ring is signalled (R349). -/
def signal (v : Nat) (s : State) : State :=
  if v = 0xFFFF then s
  else { s with host := { s.host with msix := mset s.host.msix v (mget 0 s.host.msix v + 1) } }

/-- Writes the next completion entry of a ring (R351): PHASE is 1 on the first pass. -/
def postEntry (n r st kind cmdId result : Nat) (s : State) : State :=
  let x := ring s n r
  let phase := (x.cqTail / 2 ^ x.cqLog + 1) % 2
  let entry := leBytes 1 st ++ leBytes 1 (phase + kind * 2) ++ leBytes 2 x.sqHead ++ leBytes 4 cmdId ++
    leBytes 8 result ++ leBytes 8 s.tb.now ++ zeroBytes 8
  let s1 := setRing n r { x with cqTail := x.cqTail + 1 } s
  match backedAddr x.cqPages (x.cqTail % 2 ^ x.cqLog * 32) with
  | some a => hbmWrite a entry s1
  | none => s1

/-- RMA completions due enter the ring while it has free slots (R352). -/
def flushRma (n r : Nat) : List (Nat × Nat × Nat) → State → State
  | [], s => updRing n r (fun x => { x with rmaDue := [] }) s
  | (i, g, t) :: rest, s =>
    if (ring s n r).fetched.length < cqFree (ring s n r) then flushRma n r rest (postEntry n r stOk 1 (i + g * 2 ^ 24) t s)
    else updRing n r (fun x => { x with rmaDue := (i, g, t) :: rest }) s

/-- The completion record of an RMA write to a host buffer (R295, R352). -/
def rmaCompletion (n i g total : Nat) (s : State) : State :=
  let x := ring s n 0
  if x.enabled && !s.host.viral then flushRma n 0 (x.rmaDue ++ [(i, g, total)]) s
  else { s with host := { s.host with rmaNoCq := min 255 (s.host.rmaNoCq + 1) } }

def fetched? (s : State) (n r idx : Nat) : Option Fetched := (ring s n r).fetched.find? fun f => f.idx == idx

/-- Completes a fetched command: its entry is posted and it leaves the ring. -/
def complete (n r idx st result : Nat) (s : State) : State :=
  match fetched? s n r idx with
  | none => s
  | some f =>
    let s1 := updRing n r (fun x => { x with fetched := x.fetched.filter fun g => g.idx != idx,
                                             done := sat32 (x.done + 1) }) s
    let s2 := postEntry n r st 0 f.cmdId result s1
    if f.intr then signal (ring s2 n r).msix s2 else s2

/-- Host memory can be read and written over CXL.cache (R352, R366). -/
def hostUsable (s : State) : Bool := s.host.up && s.host.cxl && !s.host.viral

/-- The response body of a REQUEST goes to OUT_ADDR (R354), and the command completes: with DATA_LOST where the output can
no longer be written (R352). -/
def completeRequest (n r idx st : Nat) (body : List Byte) (s : State) : State :=
  match fetched? s n r idx with
  | none => s
  | some f =>
    let s1 := updPart n (fun p => { p with running := p.running - 1 }) s
    let room := if f.outAddr = 0 then 0 else f.outLen
    let truncated := decide (room < body.length)
    let result := body.length + bnat truncated * 2 ^ 63
    if room = 0 then complete n r idx st result s1
    else if hostUsable s1 then complete n r idx st result (hostWrite f.outAddr (body.take room) s1)
    else complete n r idx stDataLost 0 s1

/-! ### Responses of requests -/

/-- The request leaves its ingress queue as its work starts (R338, R339). -/
def leaveIngress (r : Req) (s : State) : State :=
  match r.origin with
  | .ring _ _ _ => s
  | .fabric _ _ _ =>
    let here := fun (x : Nat × Nat × Nat × Nat × Req) => decide (x.2.2.2.2.origin = r.origin)
    match s.fab.ingress.find? here with
    | none => s
    | some x =>
      let s1 := { s with fab := { s.fab with ingress := s.fab.ingress.filter fun y => !here y } }
      updTel (ingressTel x.1 x.2.1) (qDepart r.body.length (s.tb.now - x.2.2.2.1)) s1

/-- The pages and MDBs of a large body are released when its request completes (R273). -/
def releaseBody (cid mseq : Nat) (s : State) : State :=
  let mine := s.fab.bodies.filter fun x => x.1 == cid && x.2.1 == mseq
  mine.foldl (fun s x => freeMdbs x.2.2.2 (releasePages x.2.2.1 s))
    { s with fab := { s.fab with bodies := s.fab.bodies.filter fun x => !(x.1 == cid && x.2.1 == mseq) } }

/-- A request that left FREE below LOW_WM has completed: what that sets off may begin (R69). -/
def freeNoted (o : Origin) (s : State) : State :=
  (s.fab.freeDue.filter fun x => decide (x.1 = o)).foldl (fun s x => updPart x.2 (fun p => { p with passDue := true }) s)
    { s with fab := { s.fab with freeDue := s.fab.freeDue.filter fun x => decide (x.1 ≠ o) } }

/-- The response of a request whose work ends with a status (R299, R354). -/
def respond (r : Req) (op st arg : Nat) (body : List Byte) (s : State) : State :=
  freeNoted r.origin (match r.origin with
    | .fabric c m p => respondPkt c m p op r.lc arg body (releaseBody c m (finishSlot c m st s))
    | .ring n k i => completeRequest n k i st body (countStatus 0 st s))

/-- The partition that a request acts for. -/
def reqPart (s : State) (r : Req) : Option Nat :=
  match r.origin with
  | .fabric c _ _ => (conn? s c).map (·.part)
  | .ring n _ _ => some n

/-- Answers a status with STATUS_ARG; every field of the body that no rule gives a value is zero (R299, R221). -/
def answer (r : Req) (op st arg : Nat) (s : State) : State :=
  respond r op st arg (match reqPart s r with
    | some n => refusalBody s n r.tenant op st r.body
    | none => refusedBody op st) s

/-- A refusal whose STATUS_ARG is 0. -/
def refuse (r : Req) (op st : Nat) (s : State) : State := answer r op st 0 s

/-! ### Management answers (R454) -/

/-- The response of a management command leaves by the port of its request and is kept among the last 64 of its
session; a command that came in no session is not kept. -/
def mgmtAnswer (c : MgmtCmd) (st result : Nat) (out : List Byte) (s : State) : State :=
  let rsp : MgmtRsp := ⟨c.session, c.mseq, c.port, st, result, c.cmdId, out⟩
  { s with mgmt :=
    { s.mgmt with
      stored := if c.session = 0 then s.mgmt.stored
        else mset s.mgmt.stored c.session ((rsp :: mget [] s.mgmt.stored c.session).take 64)
      sent := mset s.mgmt.sent c.port rsp
      admitted := s.mgmt.admitted.filter fun x => decide (x.2 ≠ c) } }

/-- The role of a management command is that of the session that it names (R375). -/
def inSession (s : State) (c : MgmtCmd) : Bool :=
  c.role == .none || s.cocoon.mb1.sessions.any fun x => x.1 == c.session && x.2 == c.role

/-- A management command of a role that Table 13.3 allows, while the node serves; any other is answered NOT_PERMITTED (R375,
R444, R451). `t` is the state after the command's own effect. -/
def mgmtCmd (c : MgmtCmd) (allowed : Bool) (s t : State) : Host.Outcome State Fault Refusal :=
  if !s.boot.powered || s.health.stopped || !s.mgmt.portsUp then done s s
  else if !serving s || !inSession s c || !allowed then done s (mgmtAnswer c stNotPermitted 0 [] s)
  else done s t

/-! ### Cocoon answers (R376, R397) -/

def mailbox (s : State) (i : Nat) : Mailbox := if i = 0 then s.cocoon.mb0 else s.cocoon.mb1
def setMailbox (i : Nat) (m : Mailbox) (s : State) : State :=
  if i = 0 then { s with cocoon := { s.cocoon with mb0 := m } } else { s with cocoon := { s.cocoon with mb1 := m } }

/-- The cocoon writes a response to a mailbox: BUSY is cleared and DONE set (R376). -/
def mailboxReply (i : Nat) (bytes : List Byte) (s : State) : State :=
  setMailbox i { mailbox s i with rsp := bytes, busy := false, done := true } s

/-- The answer of a cocoon command: STATUS, RLEN and the result, none unless OK (R397). -/
def cocoonAnswer (c : CocoonCmd) (st : Nat) (result : List Byte) (s : State) : State :=
  let out := if st = stOk then result else []
  mailboxReply c.inst (leBytes 4 st ++ leBytes 4 out.length ++ out) s

end Sys2Proof.Machine
end

