-- ==== Sys2Proof/Machine/Fp.lean ====
section
/-!
DEFINITION. Arithmetic to the bit (chapter 5): exact numbers, one rounding to nearest even into any format of
Table 5.1 (R144 to R149), the FP32 operations, and the elementary functions (R154 to R158). Table entries are
the stated real values rounded once to FP32 (DEDUCED, log 14: the words were computed outside Lean).
-/

namespace Sys2Proof.Machine

open Sys2Proof

/-- A number: NaN, an infinity with its sign, or the exact value (-1)^neg × m × 2^e. -/
inductive Num where
  | nan
  | inf (neg : Bool)
  | fin (neg : Bool) (m : Nat) (e : Int)
  deriving DecidableEq, Repr

/-- A binary format of Table 5.1: significand bits with the hidden one, the exponent of its smallest
subnormal, and the magnitude code of its largest finite value. -/
structure Fmt where
  p : Nat
  elsb : Int
  top : Nat
  deriving DecidableEq, Repr

def fmtF32 : Fmt := ⟨24, -149, 0x7F7FFFFF⟩
def fmtBf16 : Fmt := ⟨8, -133, 0x7F7F⟩
def fmtFp16 : Fmt := ⟨11, -24, 0x7BFF⟩
def fmtE4m3 : Fmt := ⟨4, -9, 0x7E⟩
def fmtE5m2 : Fmt := ⟨3, -16, 0x7B⟩
def fmtE3m2 : Fmt := ⟨3, -4, 0x1F⟩
def fmtE2m1 : Fmt := ⟨2, -1, 0x7⟩

/-- The quotient rounded to the nearest natural number, ties to even. -/
def roundDiv (a b : Nat) : Nat :=
  let q := a / b
  let r := a % b
  if 2 * r < b then q else if b < 2 * r then q + 1 else q + q % 2

/-- 2^e of an integer exponent, as a fraction (numerator, denominator). -/
def pow2frac (e : Int) : Nat × Nat :=
  if 0 ≤ e then (2 ^ e.toNat, 1) else (1, 2 ^ (-e).toNat)

/-- floor(log2 (num / den × 2^e)) of a positive value. -/
def floorLog2 (num den : Nat) (e : Int) : Int :=
  let l : Int := (Nat.log2 num : Int) - (Nat.log2 den : Int)
  let below : Bool := if 0 ≤ l then decide (num < den * 2 ^ l.toNat) else decide (num * 2 ^ (-l).toNat < den)
  (if below then l - 1 else l) + e

/-- The magnitude code of num / den × 2^e rounded once to nearest even into a format, with subnormals kept
and no upper end to the exponent (R144, R145, R149). -/
def roundCode (f : Fmt) (num den : Nat) (e : Int) : Nat :=
  if num = 0 then 0
  else
    let t : Int := max f.elsb (floorLog2 num den e - ((f.p : Int) - 1))
    let s := e - t
    let q := if 0 ≤ s then roundDiv (num * 2 ^ s.toNat) den else roundDiv num (den * 2 ^ (-s).toNat)
    (t - f.elsb).toNat * 2 ^ (f.p - 1) + q

/-- The significand and exponent of a finite magnitude code. -/
def codeVal (f : Fmt) (c : Nat) : Nat × Int :=
  let h := 2 ^ (f.p - 1)
  if c < h then (c, f.elsb) else (h + c % h, f.elsb + (c / h : Nat) - 1)

/-! ### FP32 -/

/-- The canonical quiet NaN (R146). -/
def f32Nan : F32 := 0x7FC00000#32
def f32Inf (neg : Bool) : F32 := if neg then 0xFF800000#32 else 0x7F800000#32
def f32Zero : F32 := 0#32
def f32One : F32 := 0x3F800000#32
def f32Two : F32 := 0x40000000#32

/-- The FP32 word of a magnitude code and a sign; beyond the largest finite value it is an infinity. -/
def f32Pack (neg : Bool) (c : Nat) : F32 :=
  if fmtF32.top < c then f32Inf neg else BitVec.ofNat 32 (c + bnat neg * 0x80000000)

/-- What an FP32 word stands for (R146: every NaN is one NaN). -/
def f32Num (w : F32) : Num :=
  let n := w.toNat
  let neg := bitOf n 31
  let c := n % 0x80000000
  if 0x7F800000 < c then .nan
  else if c = 0x7F800000 then .inf neg
  else let v := codeVal fmtF32 c; .fin neg v.1 v.2

/-- An exact number rounded once to FP32. -/
def f32Of : Num → F32
  | .nan => f32Nan
  | .inf s => f32Inf s
  | .fin s m e => f32Pack s (roundCode fmtF32 m 1 e)

def f32IsNan (w : F32) : Bool := 0x7F800000 < w.toNat % 0x80000000
def f32IsInf (w : F32) : Bool := w.toNat % 0x80000000 == 0x7F800000
/-- A NaN or an infinity (R134). -/
def f32Bad (w : F32) : Bool := 0x7F800000 ≤ w.toNat % 0x80000000
def f32IsZero (w : F32) : Bool := w.toNat % 0x80000000 == 0
def f32Neg (w : F32) : Bool := bitOf w.toNat 31

/-- Exact sum of two numbers (R144, R145). -/
def numAdd : Num → Num → Num
  | .nan, _ => .nan
  | _, .nan => .nan
  | .inf s, .inf t => if s = t then .inf s else .nan
  | .inf s, _ => .inf s
  | _, .inf t => .inf t
  | .fin s m e, .fin t n f =>
    let g := min e f
    let a : Int := (m * 2 ^ (e - g).toNat : Nat)
    let b : Int := (n * 2 ^ (f - g).toNat : Nat)
    let v := (if s then -a else a) + (if t then -b else b)
    if v = 0 then .fin (s && t && m == 0 && n == 0) 0 g else .fin (v < 0) v.natAbs g

/-- Exact negation. -/
def numNeg : Num → Num
  | .nan => .nan
  | .inf s => .inf (!s)
  | .fin s m e => .fin (!s) m e

/-- Exact product. -/
def numMul : Num → Num → Num
  | .nan, _ => .nan
  | _, .nan => .nan
  | .inf s, .inf t => .inf (s != t)
  | .inf s, .fin t n _ => if n = 0 then .nan else .inf (s != t)
  | .fin s m _, .inf t => if m = 0 then .nan else .inf (s != t)
  | .fin s m e, .fin t n f => .fin (s != t) (m * n) (e + f)

def fAdd (a b : F32) : F32 := f32Of (numAdd (f32Num a) (f32Num b))
def fSub (a b : F32) : F32 := f32Of (numAdd (f32Num a) (numNeg (f32Num b)))
def fMul (a b : F32) : F32 := f32Of (numMul (f32Num a) (f32Num b))

/-- Division, rounded once (R144). -/
def fDiv (a b : F32) : F32 :=
  match f32Num a, f32Num b with
  | .nan, _ => f32Nan
  | _, .nan => f32Nan
  | .inf _, .inf _ => f32Nan
  | .inf s, .fin t _ _ => f32Inf (s != t)
  | .fin s _ _, .inf t => f32Pack (s != t) 0
  | .fin s m e, .fin t n f =>
    if n = 0 then (if m = 0 then f32Nan else f32Inf (s != t))
    else f32Pack (s != t) (roundCode fmtF32 m n (e - f))

/-- max of R146. -/
def fMax (a b : F32) : F32 :=
  match f32Num a, f32Num b with
  | .nan, _ => f32Nan
  | _, .nan => f32Nan
  | .inf s, _ => if s then b else a
  | _, .inf t => if t then a else b
  | .fin s m e, .fin t n f =>
    let g := min e f
    let x : Int := (m * 2 ^ (e - g).toNat : Nat)
    let y : Int := (n * 2 ^ (f - g).toNat : Nat)
    let x' := if s then -x else x
    let y' := if t then -y else y
    if x' < y' then b else if y' < x' then a else if s then b else a

/-- An integer as FP32, rounded once. -/
def fOfInt (z : Int) : F32 := f32Of (.fin (z < 0) z.natAbs 0)

/-- A finite number is less than another (false on NaN). -/
def fLt (a b : F32) : Bool :=
  match f32Num a, f32Num b with
  | .nan, _ => false
  | _, .nan => false
  | .inf s, .inf t => s && !t
  | .inf s, _ => s
  | _, .inf t => !t
  | .fin s m e, .fin t n f =>
    let g := min e f
    let x : Int := (m * 2 ^ (e - g).toNat : Nat)
    let y : Int := (n * 2 ^ (f - g).toNat : Nat)
    decide ((if s then -x else x) < (if t then -y else y))

/-! ### Tables -/

/-- t[j] = 2^(j/64) (R154). -/
def tableT : List Nat :=
  [0x3F800000, 0x3F8164D2, 0x3F82CD87, 0x3F843A29, 0x3F85AAC3, 0x3F871F62, 0x3F88980F, 0x3F8A14D5] ++
  [0x3F8B95C2, 0x3F8D1ADF, 0x3F8EA43A, 0x3F9031DC, 0x3F91C3D3, 0x3F935A2B, 0x3F94F4F0, 0x3F96942D] ++
  [0x3F9837F0, 0x3F99E046, 0x3F9B8D3A, 0x3F9D3EDA, 0x3F9EF532, 0x3FA0B051, 0x3FA27043, 0x3FA43516] ++
  [0x3FA5FED7, 0x3FA7CD94, 0x3FA9A15B, 0x3FAB7A3A, 0x3FAD583F, 0x3FAF3B79, 0x3FB123F6, 0x3FB311C4] ++
  [0x3FB504F3, 0x3FB6FD92, 0x3FB8FBAF, 0x3FBAFF5B, 0x3FBD08A4, 0x3FBF179A, 0x3FC12C4D, 0x3FC346CD] ++
  [0x3FC5672A, 0x3FC78D75, 0x3FC9B9BE, 0x3FCBEC15, 0x3FCE248C, 0x3FD06334, 0x3FD2A81E, 0x3FD4F35B] ++
  [0x3FD744FD, 0x3FD99D16, 0x3FDBFBB8, 0x3FDE60F5, 0x3FE0CCDF, 0x3FE33F89, 0x3FE5B907, 0x3FE8396A] ++
  [0x3FEAC0C7, 0x3FED4F30, 0x3FEFE4BA, 0x3FF28177, 0x3FF5257D, 0x3FF7D0DF, 0x3FFA83B3, 0x3FFD3E0C]

/-- g[j] = log2(1 + j/64) (R155). -/
def tableG : List Nat :=
  [0x00000000, 0x3CB73CB4, 0x3D35D69C, 0x3D8759C5, 0x3DB31FB8, 0x3DDE4212, 0x3E0462C4, 0x3E19574F] ++
  [0x3E2E00D2, 0x3E42615F, 0x3E567AF1, 0x3E6A4F72, 0x3E7DE0B6, 0x3E88983F, 0x3E92203D, 0x3E9B8926] ++
  [0x3EA4D3C2, 0x3EAE00D2, 0x3EB7110E, 0x3EC0052B, 0x3EC8DDD4, 0x3ED19BB0, 0x3EDA3F60, 0x3EE2C97D] ++
  [0x3EEB3A9F, 0x3EF39355, 0x3EFBD42B, 0x3F01FED4, 0x3F060828, 0x3F0A0650, 0x3F0DF989, 0x3F11E20F] ++
  [0x3F15C01A, 0x3F1993E3, 0x3F1D5DA0, 0x3F211D84, 0x3F24D3C2, 0x3F28808C, 0x3F2C2411, 0x3F2FBE80] ++
  [0x3F335004, 0x3F36D8CB, 0x3F3A58FF, 0x3F3DD0C8, 0x3F41404F, 0x3F44A7BA, 0x3F480731, 0x3F4B5ED7] ++
  [0x3F4EAED0, 0x3F51F740, 0x3F553848, 0x3F587209, 0x3F5BA4A4, 0x3F5ED039, 0x3F61F4E5, 0x3F6512C7] ++
  [0x3F6829FB, 0x3F6B3A9F, 0x3F6E44CD, 0x3F7148A1, 0x3F744636, 0x3F773DA4, 0x3F7A2F04, 0x3F7D1A71]

/-- sin(2πk/256) for k from 0 to 64, the quarter wave of SK and CK (R157). -/
def tableQ : List Nat :=
  [0x00000000, 0x3CC90AB0, 0x3D48FB30, 0x3D96A905, 0x3DC8BD36, 0x3DFAB273, 0x3E164083, 0x3E2F10A2] ++
  [0x3E47C5C2, 0x3E605C13, 0x3E78CFCC, 0x3E888E93, 0x3E94A031, 0x3EA09AE5, 0x3EAC7CD4, 0x3EB8442A] ++
  [0x3EC3EF15, 0x3ECF7BCA, 0x3EDAE880, 0x3EE63375, 0x3EF15AEA, 0x3EFC5D27, 0x3F039C3D, 0x3F08F59B] ++
  [0x3F0E39DA, 0x3F13682A, 0x3F187FC0, 0x3F1D7FD1, 0x3F226799, 0x3F273656, 0x3F2BEB4A, 0x3F3085BB] ++
  [0x3F3504F3, 0x3F396842, 0x3F3DAEF9, 0x3F41D870, 0x3F45E403, 0x3F49D112, 0x3F4D9F02, 0x3F514D3D] ++
  [0x3F54DB31, 0x3F584853, 0x3F5B941A, 0x3F5EBE05, 0x3F61C598, 0x3F64AA59, 0x3F676BD8, 0x3F6A09A7] ++
  [0x3F6C835E, 0x3F6ED89E, 0x3F710908, 0x3F731447, 0x3F74FA0B, 0x3F76BA07, 0x3F7853F8, 0x3F79C79D] ++
  [0x3F7B14BE, 0x3F7C3B28, 0x3F7D3AAC, 0x3F7E1324, 0x3F7EC46D, 0x3F7F4E6D, 0x3F7FB10F, 0x3F7FEC43] ++
  [0x3F800000]

/-- A word of a table. -/
def tabWord (t : List Nat) (i : Nat) : F32 := BitVec.ofNat 32 (t.getD i 0)

/-- SK[k] = sin(2πk/256), by the symmetries of the sine. -/
def tableSK (k : Nat) : F32 :=
  let k := k % 256
  let h := k % 128
  let v := tableQ.getD (min h (128 - h)) 0
  if 128 < k then BitVec.ofNat 32 (v + 0x80000000) else BitVec.ofNat 32 v

/-- CK[k] = cos(2πk/256). -/
def tableCK (k : Nat) : F32 := tableSK (k + 64)

/-! ### Elementary functions -/

/-- The product of an FP32 word and an exact non-negative value m × 2^e, rounded once. -/
def fMulExact (a : F32) (m : Nat) (e : Int) : F32 := f32Of (numMul (f32Num a) (.fin false m e))

/-- A word times 2^n, with one rounding. -/
def fScale (a : F32) (n : Int) : F32 := f32Of (numMul (f32Num a) (.fin false 1 n))

/-- exp2 of R154. f and r are exact real numbers (DEDUCED, log 14), so a product with r rounds once. -/
def fExp2 (d : F32) : F32 :=
  match f32Num d with
  | .nan => f32Nan
  | .inf s => if s then f32Zero else f32Inf false
  | .fin s m e =>
    if !s && decide (128 * (pow2frac e).2 ≤ m * (pow2frac e).1) then f32Inf false
    else if s && decide (150 * (pow2frac e).2 < m * (pow2frac e).1) then f32Zero
    else
      -- d = v / 2^k exactly
      let k : Nat := (-e).toNat
      let v : Int := (m * 2 ^ e.toNat : Nat)
      let v := if s then -v else v
      let n : Int := v / (2 ^ k : Nat)
      let f : Nat := (v - n * (2 ^ k : Nat)).toNat
      let j := 64 * f / 2 ^ k
      let r := 64 * f - j * 2 ^ k        -- over 2^(k + 6)
      let re : Int := -((k : Int) + 6)
      let p := fMulExact 0x3D635847#32 r re
      let p := fAdd p 0x3E75FDF0#32
      let p := fMulExact p r re
      let p := fAdd p 0x3F317218#32
      let p := fMulExact p r re
      let p := fAdd p f32One
      fScale (fMul (tabWord tableT j) p) n

/-- log2 of R155. -/
def fLog2 (x : F32) : F32 :=
  match f32Num x with
  | .nan => f32Nan
  | .inf s => if s then f32Nan else f32Inf false
  | .fin s m e =>
    if m = 0 then f32Inf true
    else if s then f32Nan
    else
      let l := Nat.log2 m
      let k : Int := (l : Int) + e
      -- y = m / 2^l, y - 1 = a / 2^l
      let a := m - 2 ^ l
      let j := 64 * a / 2 ^ l
      -- y - c = (64 a - j 2^l) / 2^(l + 6), c = (64 + j) / 64
      let u := 64 * a - j * 2 ^ l
      let r := f32Pack false (roundCode fmtF32 u (64 + j) (-(l : Int)))
      let p := fMul r 0x3EF6384F#32
      let p := fAdd 0xBF38AA3B#32 p
      let p := fMul r p
      let p := fAdd 0x3FB8AA3B#32 p
      let p := fMul r p
      let t := fAdd (tabWord tableG j) p
      fAdd (fOfInt k) t

def fAbs (x : F32) : F32 := BitVec.ofNat 32 (x.toNat % 0x80000000)
def fNegate (x : F32) : F32 := x ^^^ 0x80000000#32
/-- The magnitude of `a` with the sign of `x`. -/
def fCopySign (a x : F32) : F32 := if f32Neg x then fNegate (fAbs a) else fAbs a

/-- tanh of R156. -/
def fTanh (x : F32) : F32 :=
  if f32IsNan x then f32Nan
  else
    let a := fAbs x
    if !fLt a 0x41100000#32 then fCopySign f32One x
    else if fLt a 0x3D800000#32 then
      let x2 := fMul x x
      let p := fMul 0x3E088889#32 x2
      let p := fAdd p 0xBEAAAAAB#32
      let p := fMul p x2
      let p := fMul p x
      fAdd x p
    else
      let z := fExp2 (fMul a 0x4038AA3B#32)
      fCopySign (fSub f32One (fDiv f32Two (fAdd z f32One))) x

/-- sin and cos of the angle of m × 2^e turns, 0 ≤ m × 2^e < 1 (R157). -/
def fSinCosOf (m : Nat) (e : Int) : F32 × F32 :=
  let q : Nat := (-e).toNat
  let mm := m * 2 ^ e.toNat
  let k := 256 * mm / 2 ^ q
  let rr := 256 * mm - k * 2 ^ q      -- over 2^(q + 8)
  let r := fMulExact 0x40C90FDB#32 rr (-((q : Int) + 8))
  let r2 := fMul r r
  let sr := fAdd r (fMul (fMul r2 0xBE2AAAAB#32) r)
  let cr := fAdd f32One (fMul (fAdd (fMul r2 0x3D2AAAAB#32) 0xBF000000#32) r2)
  let s := fAdd (fMul (tableSK k) cr) (fMul (tableCK k) sr)
  let c := fSub (fMul (tableCK k) cr) (fMul (tableSK k) sr)
  (s, c)

/-- sin and cos of an angle in turns, 0 ≤ t < 1, given as an FP32 word. -/
def fSinCos (t : F32) : F32 × F32 :=
  match f32Num t with
  | .fin false m e => fSinCosOf m e
  | _ => (f32Nan, f32Nan)

/-- cos and sin of pair `j` of `n` rotary elements at a position (R158). -/
def ropeCosSin (theta : F32) (n j pos : Nat) : F32 × F32 :=
  let u := if j = 0 then f32Of (.fin true 0 0) else f32Pack true (roundCode fmtF32 (2 * j) n 0)
  let f := fExp2 (fMul u (fLog2 theta))
  match f32Num (fMul f 0x3E22F983#32) with
  | .fin _ m e =>
    -- pos × M × 2^E, its fractional part rounded once
    let q : Nat := (-e).toNat
    let v := pos * m * 2 ^ e.toNat
    let fr := v % 2 ^ q
    let t := f32Of (.fin false fr (-(q : Int)))
    let t := if t = f32One then f32Zero else t
    let sc := fSinCos t
    (sc.2, sc.1)
  | _ => (f32Nan, f32Nan)

/-- Rotation of one pair (R120), or its inverse (R158). -/
def rotPair (inverse : Bool) (c s a b : F32) : F32 × F32 :=
  if inverse then (fAdd (fMul a c) (fMul b s), fAdd (fMul (fNegate a) s) (fMul b c))
  else (fSub (fMul a c) (fMul b s), fAdd (fMul a s) (fMul b c))

/-- Rotation of the `n` elements from `start` of a row at a position (R120): `interleaved` is ROPE_PAIR. -/
def rotateRow (inverse interleaved : Bool) (theta : F32) (start n pos : Nat) (row : List F32) : List F32 :=
  (List.range (n / 2)).foldl (fun r j =>
    let ia := if interleaved then start + 2 * j else start + j
    let ib := if interleaved then start + 2 * j + 1 else start + j + n / 2
    let cs := ropeCosSin theta n j pos
    let ab := rotPair inverse cs.1 cs.2 (row.getD ia f32Zero) (row.getD ib f32Zero)
    (r.set ia ab.1).set ib ab.2) row

/-- ALiBi slope of query head `h` (after R120): 2 to a multiple of -1/64, rounded once to FP32. -/
def alibiSlope (h qhTotal : Nat) : F32 :=
  let np := 2 ^ Nat.log2 qhTotal
  let x := if h < np then 512 * (h + 1) / np else 256 * (2 * (h - np) + 1) / np
  -- 2^(-x/64) = 2^(-q) × t[j] with x = 64 q - j
  let q := (x + 63) / 64
  fScale (tabWord tableT (64 * q - x)) (-(q : Int))

/-! ### Narrow formats -/

/-- A 16-bit word as an exact number: BF16 or FP16. -/
def num16 (fp16 : Bool) (w : Nat) : Num :=
  let neg := bitOf w 15
  let c := w % 0x8000
  let f := if fp16 then fmtFp16 else fmtBf16
  let infc := if fp16 then 0x7C00 else 0x7F80
  if infc < c then .nan else if c = infc then .inf neg
  else let v := codeVal f c; .fin neg v.1 v.2

/-- FP32 rounded once to BF16, to nearest even (R118, R133); NaN is the canonical one. -/
def bf16Of (w : F32) : Nat :=
  match f32Num w with
  | .nan => 0x7FC0
  | .inf s => 0x7F80 + bnat s * 0x8000
  | .fin s m e =>
    let c := roundCode fmtBf16 m 1 e
    (if fmtBf16.top < c then 0x7F80 else c) + bnat s * 0x8000

/-- FP32 rounded once to FP16. -/
def fp16Of (w : F32) : Nat :=
  match f32Num w with
  | .nan => 0x7E00
  | .inf s => 0x7C00 + bnat s * 0x8000
  | .fin s m e =>
    let c := roundCode fmtFp16 m 1 e
    (if fmtFp16.top < c then 0x7C00 else c) + bnat s * 0x8000

/-- A BF16 word as FP32, exactly. -/
def f32OfBf16 (w : Nat) : F32 := f32Of (num16 false w)

/-- bf16() of an FP32 value, as an FP32 word. -/
def bf16 (w : F32) : F32 := f32OfBf16 (bf16Of w)

/-- An element of a narrow format as an exact number: E4M3, E5M2, E3M2 or E2M1. -/
def numNarrow (f : Fmt) (w : Nat) : Num :=
  let bits := if f = fmtE3m2 then 5 else if f = fmtE2m1 then 3 else 7
  let neg := bitOf w bits
  let c := w % 2 ^ bits
  if f = fmtE4m3 ∧ c = 0x7F then .nan
  else if f = fmtE5m2 ∧ c = 0x7C then .inf neg
  else if f = fmtE5m2 ∧ 0x7C < c then .nan
  else let v := codeVal f c; .fin neg v.1 v.2

end Sys2Proof.Machine
end

