-- ==== Sys2Proof/Machine/Formats.lean ====
section
/-!
DEFINITION. Storage formats (Tables 2.2 and 2.8): rows per page, conversion of rows (R149 to R152), stored elements
(R153), and exponent-coded blocks with their code tables (R161 to R167, R171).
-/

namespace Sys2Proof.Machine

open Sys2Proof

/-! ### Geometry of a format (Table 2.2) -/

def fmtCoded (f : Nat) : Bool := f == 2 || f == 3
def fmtIsMx (f : Nat) : Bool := 7 ≤ f && f ≤ 10
def fmtIsFp8 (f : Nat) : Bool := f == 4 || f == 5

/-- Row size B of an uncoded format with E elements. -/
def rowSize (f e : Nat) : Nat :=
  if f ≤ 3 then 2 * e else if f = 9 then 3 * e / 4 else if f = 10 then e / 2 else e

/-- Scale bytes of one row. -/
def rowScaleSize (f e : Nat) : Nat := if f = 6 then 4 else if fmtIsMx f then e / 32 else 0

/-- T: rows per page of an uncoded format; 0 for a coded one. -/
def rowsPerPage (f e : Nat) : Nat :=
  if fmtCoded f then 0
  else if fmtIsFp8 f then 65472 / e
  else 65536 / (rowSize f e + rowScaleSize f e)

/-- Byte offset of the scale data. -/
def scaleBase (f e : Nat) : Nat := if fmtIsFp8 f then 0xFFC0 else rowsPerPage f e * rowSize f e

/-- The element format of a narrow storage format. -/
def elemFmt (f : Nat) : Fmt :=
  if f = 4 ∨ f = 7 then fmtE4m3 else if f = 5 ∨ f = 8 then fmtE5m2 else if f = 9 then fmtE3m2 else fmtE2m1

/-- emax of an element format (R150, R152). -/
def elemEmax (f : Nat) : Int := if f = 4 ∨ f = 7 then 8 else if f = 5 ∨ f = 8 then 15 else if f = 9 then 4 else 2

/-! ### Conversion (R149 to R152) -/

/-- What a conversion counts (Table 5.7). -/
structure ConvCount where
  saturated : Nat := 0
  nonfinite : Nat := 0
  deriving DecidableEq, Repr

def ConvCount.add (a b : ConvCount) : ConvCount := ⟨a.saturated + b.saturated, a.nonfinite + b.nonfinite⟩

/-- floor(log2) of the magnitude of a finite nonzero number. -/
def numLog2 : Num → Option Int
  | .fin _ m e => if m = 0 then none else some (floorLog2 m 1 e)
  | _ => none

/-- The larger of two optional exponents. -/
def optMax : Option Int → Option Int → Option Int
  | none, b => b
  | a, none => a
  | some a, some b => some (max a b)

/-- floor(log2 a) for the largest finite magnitude a of a list; none if a = 0 or no element is finite. -/
def maxLog2 (l : List Num) : Option Int := l.foldl (fun m x => optMax m (numLog2 x)) none

def numFinite : Num → Bool
  | .fin _ _ _ => true
  | _ => false

/-- k of the page scale 2^k of an FP8 page (R150), from the elements the allocating append writes. -/
def pageScaleExp (f : Nat) (elems : List Num) : Int :=
  match maxLog2 elems with
  | none => 0
  | some l => max (-126) (min 127 (l - (elemEmax f - 2)))

/-- The FP32 word 2^k. -/
def pow2Word (k : Int) : F32 := f32Of (.fin false 1 k)

/-- A finite number divided by 2^k in an element format: its code with the sign bit, and whether it was beyond the
largest finite value. -/
def narrowCode (f : Nat) (k : Int) (neg : Bool) (m : Nat) (e : Int) : Nat × Nat :=
  let fm := elemFmt f
  let c := roundCode fm m 1 (e - k)
  let sign := if f = 9 then 32 else if f = 10 then 8 else 128
  if fm.top < c then (fm.top + bnat neg * sign, 1) else (c + bnat neg * sign, 0)

/-- One FP8 element under page scale 2^k (Table 5.2). -/
def fp8Elem (f : Nat) (k : Int) : Num → Nat × Nat
  | .nan => (if f = 4 then 0x7F else 0x7E, 0)
  | .inf s => (if f = 4 then 0x7F else 0x7C + bnat s * 128, 0)
  | .fin s m e => narrowCode f k s m e

/-- One MX block of 32 elements: its codes, its scale byte and its counts (R152). -/
def mxBlock (f : Nat) (l : List Num) : List Nat × Nat × ConvCount :=
  if l.any fun x => !numFinite x then (l.map fun _ => 0, 0xFF, ⟨0, 1⟩)
  else
    let k : Int := match maxLog2 l with
      | none => -127
      | some a => max (-127) (min 127 (a - elemEmax f))
    let cs := l.map fun x => match x with
      | .fin s m e => narrowCode f k s m e
      | _ => (0, 0)
    (cs.map (·.1), (k + 127).toNat, ⟨(cs.map (·.2)).sum, 0⟩)

/-- The bytes of element codes of an MX format (R38). -/
def packCodes (f : Nat) (cs : List Nat) : List Byte :=
  if f = 10 then
    (chunks 2 cs.length cs).map fun p => BitVec.ofNat 8 (p.getD 0 0 + 16 * p.getD 1 0)
  else if f = 9 then
    (chunks 4 cs.length cs).flatMap fun q =>
      leBytes 3 (q.getD 0 0 + 64 * q.getD 1 0 + 4096 * q.getD 2 0 + 262144 * q.getD 3 0)
  else cs.map fun c => BitVec.ofNat 8 c

/-- The BF16 scale of an INT8 row from its largest magnitude m × 2^e: a / 127 rounded toward +inf, as a
significand and an exponent (R151). -/
def int8Scale (m : Nat) (e : Int) : Nat × Int :=
  let t : Int := max (-133) (floorLog2 m 127 e - 7)
  let (pn, pd) := pow2frac (e - t)
  (ceilDiv' (m * pn) (127 * pd), t)

/-- The largest finite magnitude of a list, as m × 2^e; (0, 0) if none is positive. -/
def maxMag (l : List Num) : Nat × Int :=
  l.foldl (fun a x => match x with
    | .fin _ m e =>
      let (an, ad) := pow2frac (a.2 - e)
      if a.1 * an < m * ad then (m, e) else a
    | _ => a) (0, 0)

/-- One INT8 element under the scale q × 2^t, as a byte value (R151). -/
def int8Elem (q : Nat) (t : Int) : Num → Nat
  | .fin s m e =>
    let (pn, pd) := pow2frac (e - t)
    let v := min 127 (roundDiv (m * pn) (q * pd))
    if s && v ≠ 0 then 256 - v else v
  | _ => 0

/-- A row in stored form (R37, R38): its bytes, its scale bytes and its counts; `k` is the exponent of an FP8
page's scale. -/
def encodeRow (f : Nat) (k : Int) (row : List F32) : List Byte × List Byte × ConvCount :=
  if f = 0 ∨ f = 2 then (row.flatMap (fun w => leBytes 2 (bf16Of w)), [], {})
  else if f = 1 ∨ f = 3 then (row.flatMap (fun w => leBytes 2 (fp16Of w)), [], {})
  else
    let l := row.map f32Num
    if fmtIsFp8 f then
      let cs := l.map (fp8Elem f k)
      (cs.map (fun c => BitVec.ofNat 8 c.1), [], ⟨(cs.map (·.2)).sum, 0⟩)
    else if f = 6 then
      if l.any fun x => !numFinite x then (zeroBytes row.length, leBytes 4 f32Nan.toNat, ⟨0, 1⟩)
      else
        let a := maxMag l
        if a.1 = 0 then (zeroBytes row.length, zeroBytes 4, {})
        else
          let (q, t) := int8Scale a.1 a.2
          (l.map (fun x => BitVec.ofNat 8 (int8Elem q t x)), leBytes 4 (f32Of (.fin false q t)).toNat, {})
    else
      let bs := (chunks 32 l.length l).map (mxBlock f)
      (packCodes f (bs.flatMap (·.1)), bs.map (fun b => BitVec.ofNat 8 b.2.1),
        bs.foldl (fun a b => a.add b.2.2) {})

/-! ### Stored elements (R153) -/

/-- How the scale of a stored row enters arithmetic. -/
inductive RowScale where
  | none
  /-- one multiplication at the end of a dot product -/
  | final (w : F32)
  /-- one multiplication of each 32-element chunk sum -/
  | perChunk (ws : List F32)
  deriving DecidableEq, Repr

/-- A row as it is read: exact elements and the scale. -/
structure StoredRow where
  elems : List Num
  scale : RowScale
  deriving DecidableEq, Repr

/-- The E8M0 scale byte as an FP32 word. -/
def e8m0 (c : Nat) : F32 := if c = 0xFF then f32Nan else pow2Word ((c : Int) - 127)

/-- The element codes of MX bytes. -/
def unpackCodes (f : Nat) (bs : List Byte) : List Nat :=
  if f = 10 then bs.flatMap fun b => [b.toNat % 16, b.toNat / 16]
  else if f = 9 then
    (chunks 3 bs.length bs).flatMap fun t =>
      let v := leNat t
      [v % 64, v / 64 % 64, v / 4096 % 64, v / 262144 % 64]
  else bs.map (·.toNat)

/-- The 16-bit elements of bytes. -/
def words16 (bs : List Byte) : List Nat := (chunks 2 bs.length bs).map leNat

/-- A stored row from its bytes and its scale bytes (for FP8: the page scale's four bytes). -/
def decodeRow (f : Nat) (bs scale : List Byte) : StoredRow :=
  if f = 0 ∨ f = 2 then ⟨(words16 bs).map (num16 false), .none⟩
  else if f = 1 ∨ f = 3 then ⟨(words16 bs).map (num16 true), .none⟩
  else if fmtIsFp8 f then
    ⟨bs.map (fun b => numNarrow (elemFmt f) b.toNat), .final (BitVec.ofNat 32 (leNat scale))⟩
  else if f = 6 then
    ⟨bs.map (fun b => .fin (128 ≤ b.toNat) (if 128 ≤ b.toNat then 256 - b.toNat else b.toNat) 0),
     .final (BitVec.ofNat 32 (leNat scale / 65536 * 65536))⟩
  else ⟨(unpackCodes f bs).map (numNarrow (elemFmt f)), .perChunk (scale.map fun b => e8m0 b.toNat)⟩

/-- The scaled FP32 values of a row: element × scale, rounded once (R153). -/
def StoredRow.values (r : StoredRow) : List F32 :=
  match r.scale with
  | .none => r.elems.map f32Of
  | .final w => r.elems.map fun x => f32Of (numMul x (f32Num w))
  | .perChunk ws => r.elems.zipIdx.map fun x => f32Of (numMul x.1 (f32Num (ws.getD (x.2 / 32) f32Nan)))

/-! ### Code tables (R164, R165) -/

/-- A used symbol of a table: its number (15: escape), its exponent value, its length and its code. -/
structure Sym where
  k : Nat
  val : Nat
  len : Nat
  code : Nat
  deriving DecidableEq, Repr

def recLen (r : List Byte) (k : Nat) : Nat := fieldAt r 0x14 8 / 16 ^ k % 16
def recSym (r : List Byte) (k : Nat) : Nat := fieldAt r (4 + k) 1
/-- CLASS of a record: 0 BF16, 1 FP16. -/
def recClass (r : List Byte) : Nat := fieldAt r 1 1

/-- The used symbols in ascending (length, number). -/
def usedSyms (r : List Byte) : List (Nat × Nat) :=
  (List.range 16).flatMap fun l => ((List.range 16).filter fun k => recLen r k == l && l != 0).map fun k => (k, l)

/-- Canonical codes (R165). -/
def codesFrom : Nat → Nat → List (Nat × Nat) → List (Nat × Nat × Nat)
  | _, _, [] => []
  | code, prev, (k, l) :: rest =>
    let c := code * 2 ^ (l - prev)
    (k, l, c) :: codesFrom (c + 1) l rest

/-- The symbols of a record with their codes. -/
def tableSyms (r : List Byte) : List Sym :=
  (codesFrom 0 0 (usedSyms r)).map fun x => ⟨x.1, if x.1 = 15 then 256 else recSym r x.1, x.2.1, x.2.2⟩

/-- A record that R164 does not refuse. -/
def recordOk (r : List Byte) : Bool :=
  let used := (List.range 15).filter fun k => recLen r k != 0
  let vals := used.map (recSym r)
  r.length == 32 && fieldAt r 0 1 == 1 && recClass r ≤ 1 && vals.dedup.length == vals.length &&
  (recClass r == 0 || vals.all (· ≤ 31)) && recLen r 15 != 0 && 1 ≤ used.length &&
  ((List.range 16).map fun k => if recLen r k = 0 then 0 else 2 ^ (15 - recLen r k)).sum == 2 ^ 15 &&
  fieldAt r 2 2 == 0 && fieldAt r 0x13 1 == 0 && fieldAt r 0x1C 4 == 0

/-! ### Blocks (R161 to R163, R166, R167, R171) -/

/-- Bits of a code, most significant first. -/
def msbBits : Nat → Nat → List Bool
  | 0, _ => []
  | n + 1, v => bitOf v n :: msbBits n v

/-- Bytes of a bit stream, bit b in bit b mod 8 of byte b / 8 (R162). -/
def bitBytes (bits : List Bool) : List Byte :=
  (chunks 8 bits.length bits).map fun c => BitVec.ofNat 8 ((c.zipIdx.map fun x => bnat x.1 * 2 ^ x.2).sum)

/-- The bits of bytes, in stream order. -/
def byteBits (bs : List Byte) : List Bool := bs.flatMap fun b => (List.range 8).map fun i => bitOf b.toNat i

/-- Biased exponent, and sign with mantissa, of a 16-bit element. -/
def expOf (fp16 : Bool) (w : Nat) : Nat := if fp16 then w / 1024 % 32 else w / 128 % 256
def signMan (fp16 : Bool) (w : Nat) : Nat := if fp16 then w / 32768 * 1024 + w % 1024 else w / 32768 * 128 + w % 128
def joinElem (fp16 : Bool) (sm ex : Nat) : Nat :=
  if fp16 then sm / 1024 * 32768 + ex * 1024 + sm % 1024 else sm / 128 * 32768 + ex * 128 + sm % 128

/-- Bits of an element's exponent under a table, and whether it is an escape (R166). -/
def expBits (syms : List Sym) (ex : Nat) : List Bool × Nat :=
  match syms.find? fun y => y.val == ex with
  | some y => (msbBits y.len y.code, 0)
  | none =>
    match syms.find? fun y => y.k == 15 with
    | some y => (msbBits y.len y.code ++ msbBits 8 ex, 1)
    | none => ([], 1)

/-- Zero bytes up to a multiple of 4. -/
def pad4 (bs : List Byte) : List Byte := bs ++ zeroBytes ((4 - bs.length % 4) % 4)

/-- The block of 64 elements as stored (R161, R167). -/
def encodeBlock (fp16 : Bool) (slot gen : Nat) (record : List Byte) (ws : List Nat) : List Byte :=
  let syms := tableSyms record
  let xs := ws.map fun w => expBits syms (expOf fp16 w)
  let esc := (xs.map (·.2)).sum
  let sm := if fp16 then bitBytes (ws.flatMap fun w => (List.range 11).map fun i => bitOf (signMan true w) i)
            else ws.map fun w => BitVec.ofNat 8 (signMan false w)
  let coded := pad4 (leBytes 2 (1 + gen * 2 + slot * 8 + esc * 128) ++ sm ++ bitBytes (xs.flatMap (·.1)))
  if esc ≤ 8 ∧ coded.length ≤ 128 then coded
  else zeroBytes 2 ++ ws.flatMap (leBytes 2) ++ zeroBytes 2

/-- The symbol that the front of a bit stream spells: tried in ascending length. -/
def takeSym (syms : List Sym) (bits : List Bool) : Option (Sym × List Bool) :=
  match syms.find? fun y => (bits.take y.len) == msbBits y.len y.code with
  | some y => some (y, bits.drop y.len)
  | none => none

/-- The number that bits spell, most significant first. -/
def msbNat (bits : List Bool) : Nat := bits.foldl (fun v b => 2 * v + bnat b) 0

/-- The exponents of `n` elements, the escapes met, and the bits left; none on a bad code or literal. -/
def takeExps (fp16 : Bool) (syms : List Sym) : Nat → List Bool → Option (List Nat × Nat × List Bool)
  | 0, bits => some ([], 0, bits)
  | n + 1, bits =>
    match takeSym syms bits with
    | none => none
    | some (y, rest) =>
      if y.k = 15 then
        let lit := msbNat (rest.take 8)
        if rest.length < 8 ∨ syms.any (fun z => z.val == lit) ∨ (fp16 ∧ 31 < lit) then none
        else match takeExps fp16 syms n (rest.drop 8) with
          | none => none
          | some (es, c, b) => some (lit :: es, c + 1, b)
      else match takeExps fp16 syms n rest with
        | none => none
        | some (es, c, b) => some (y.val :: es, c, b)

/-- A block decoded from the bytes that start at it (R171): its elements and its size; none if it is corrupt.
`table` gives the record of a slot at a generation. -/
def decodeBlock (fp16 : Bool) (gen : Nat) (table : Nat → Nat → Option (List Byte)) (bs : List Byte) :
    Option (List Nat × Nat) :=
  let h := fieldAt bs 0 2
  if h % 2 = 0 then
    if h ≠ 0 ∨ bs.length < 132 then none else some (words16 ((bs.drop 2).take 128), 132)
  else
    let slot := bitsOf h 6 3
    let esc := bitsOf h 10 7
    let m := if fp16 then 88 else 64
    match table slot gen with
    | none => none
    | some record =>
      if 8 < esc ∨ 2048 ≤ h ∨ bitsOf h 2 1 ≠ gen ∨ recClass record ≠ bnat fp16 ∨ bs.length < 2 + m then none
      else
        match takeExps fp16 (tableSyms record) 64 (byteBits ((bs.drop (2 + m)).take 192)) with
        | none => none
        | some (es, c, left) =>
          let used := (min 192 (bs.length - (2 + m))) * 8 - left.length
          let size := 4 * ceilDiv' (2 + m + ceilDiv' used 8) 4
          let padBits := size * 8 - (2 + m) * 8 - used
          let sms := if fp16 then
              (chunks 11 64 (byteBits ((bs.drop 2).take 88))).map fun c => (c.zipIdx.map fun x => bnat x.1 * 2 ^ x.2).sum
            else ((bs.drop 2).take 64).map (·.toNat)
          if c ≠ esc ∨ bs.length < size ∨ (left.take padBits).any id then none
          else some (List.zipWith (joinElem fp16) sms es, size)

/-- A coded row of E / 64 blocks from the bytes that start at it: its elements and its size. -/
def decodeCodedRow (fp16 : Bool) (gen : Nat) (table : Nat → Nat → Option (List Byte)) :
    Nat → List Byte → Option (List Nat × Nat)
  | 0, _ => some ([], 0)
  | n + 1, bs =>
    match decodeBlock fp16 gen table bs with
    | none => none
    | some (ws, size) =>
      match decodeCodedRow fp16 gen table n (bs.drop size) with
      | none => none
      | some (rest, sz) => some (ws ++ rest, size + sz)

/-- A row in coded form: its blocks one after another (R40). -/
def encodeCodedRow (fp16 : Bool) (slot gen : Nat) (record : List Byte) (row : List F32) : List Byte :=
  let ws := row.map fun w => if fp16 then fp16Of w else bf16Of w
  (chunks 64 ws.length ws).flatMap (encodeBlock fp16 slot gen record)

end Sys2Proof.Machine
end

