-- ==== Sys2Proof/Machine/Cache.lean ====
section
/-!
DEFINITION. Pages and streams (chapter 2): where a page's bytes lie and how they are encrypted, where the row of a
position lies, reading a stored row, planning and writing appended rows, releasing pages, and dropping a tail.
-/

namespace Sys2Proof.Machine

open Sys2Proof

/-! ### Page bytes (R15, R59, R379) -/

/-- Where a page entry's data is, and the identity that its tweak carries. -/
structure PageLoc where
  page : Nat
  swapped : Bool
  lost : Bool
  keySlot : Nat
  seq : Nat
  lg : Nat
  tenant : Nat
  serial : Nat
  deriving DecidableEq, Repr

/-- The location of a page entry: a shared one takes it from its reference entry (R59). -/
def locOf (s : State) (d : Desc) (e : PageEntry) : PageLoc :=
  if e.shared then
    match mfind s.refs e.refIdx with
    | some r => ⟨r.page, r.swapped, r.lost, r.keySlot, r.originSeq, r.originLg, r.originTenant, r.originSerial⟩
    | none => ⟨0, false, true, 0, 0, 0, 0, 0⟩
  else ⟨e.page, e.swapped, e.lost, e.keySlot, d.seqId, d.layerGroup, d.tenant, e.serial⟩

/-- The location of a reference entry's page. -/
def locOfRef (r : RefEntry) : PageLoc :=
  ⟨r.page, r.swapped, r.lost, r.keySlot, r.originSeq, r.originLg, r.originTenant, r.originSerial⟩

/-- The tweak of data unit `j` of a page (R379). -/
def pageTweak (l : PageLoc) (j : Nat) : Nat :=
  l.seq % 2 ^ 40 + l.lg * 2 ^ 40 + l.tenant * 2 ^ 48 + l.serial * 2 ^ 64 + j * 2 ^ 96

/-- The XTS key of a location in a confidential partition; none elsewhere. -/
def pageKey (s : State) (n slot : Nat) : Option (BitVec 512) :=
  match part? s n with
  | some p => if p.conf then (p.slots.getD slot {}).key else none
  | none => none

/-- 128-byte units of a page, passed through the XTS engine. -/
def xtsUnits (enc : Bool) (key : BitVec 512) (l : PageLoc) : Nat → List (List Byte) → List Byte
  | _, [] => []
  | j, u :: us => xtsUnit enc key (pageTweak l j) u ++ xtsUnits enc key l (j + 1) us

/-- `n` plain bytes at offset `off` of a page whose stored bytes `raw` reads. -/
def plainRead (s : State) (part : Nat) (l : PageLoc) (raw : Nat → Nat → List Byte) (off n : Nat) : List Byte :=
  match pageKey s part l.keySlot with
  | none => raw off n
  | some k =>
    let j := off / 128
    let last := (off + n + 127) / 128
    ((xtsUnits false k l j (chunks 128 (last - j) (raw (128 * j) (128 * (last - j))))).drop (off - 128 * j)).take n

/-- `n` plain bytes at offset `off` of a resident page. -/
def pageRead (s : State) (part : Nat) (l : PageLoc) (off n : Nat) : List Byte :=
  plainRead s part l (fun o k => hbmRead s (pageAddr l.page + o) k) off n

/-- `n` plain bytes at offset `off` of a swapped page, as its slot holds them. -/
def slotRead (s : State) (part : Nat) (l : PageLoc) (off n : Nat) : List Byte :=
  match (part? s part).bind (·.swapArea) with
  | some a => plainRead s part l (fun o k => hostRead s (a.base + l.page * 65536 + o) k) off n
  | none => zeroBytes n

/-- Plain bytes written at offset `off` of a resident page. -/
def pageWrite (part : Nat) (l : PageLoc) (off : Nat) (bs : List Byte) (s : State) : State :=
  match pageKey s part l.keySlot with
  | none => hbmWrite (pageAddr l.page + off) bs s
  | some k =>
    if bs.isEmpty then s
    else
      let j := off / 128
      let last := (off + bs.length + 127) / 128
      let old := pageRead s part l (128 * j) (128 * (last - j))
      let new := old.take (off - 128 * j) ++ bs ++ old.drop (off - 128 * j + bs.length)
      hbmWrite (pageAddr l.page + 128 * j) (xtsUnits true k l j (chunks 128 (last - j) new)) s

/-- The slot that is ACTIVE in a partition (R382). -/
def activeSlot (p : Part) : Nat := (p.slots.findIdx fun x => x.state == .active) % 4

/-- KEY_SLOT of a page allocated now. -/
def allocSlot (s : State) (n : Nat) : Nat :=
  match part? s n with
  | some p => if p.conf then activeSlot p else 0
  | none => 0

/-! ### Code tables of a partition (R173) -/

def tableSlot (s : State) (n k : Nat) : TableSlot :=
  match part? s n with
  | some p => mget {} p.tables k
  | none => {}

/-- The resident record of a slot at a generation. -/
def tableRec (s : State) (n k gen : Nat) : Option (List Byte) :=
  let t := tableSlot s n k
  match t.newest, t.older with
  | some (g, r), o =>
    if g = gen then some r
    else match o with
      | some (g2, r2) => if g2 = gen then some r2 else none
      | none => none
  | none, _ => none

/-- The reference count of a generation of a slot (R174): pages allocated with it, in HBM from their allocation until they are
free, or swapped out; of the swapped-out pages firmware keeps the table of each slot with the slot (`swapExc`). -/
def tableRefs (s : State) (n k gen : Nat) : Nat :=
  (s.pages.countP fun x => x.2.part == n && x.2.exc == some (k, gen)) +
    (match part? s n with | some p => p.swapExc.countP fun x => x.2 == (k, gen) | none => 0)

/-! ### Measurement (R391) -/

/-- The measurement entry of Table 13.10: its KIND, the UNLOAD flag, IDENT, the time and the digest of the image. -/
def measureEntry (kind unload ident ts : Nat) (digest : List Byte) : List Byte :=
  leBytes 1 kind ++ leBytes 1 unload ++ leBytes 2 ident ++ zeroBytes 4 ++ leBytes 8 ts ++ digest

/-- The chain of a partition takes the entry of a load or an unload. -/
def measure (n kind unload ident : Nat) (image : List Byte) (s : State) : State :=
  updPart n (fun p =>
    { p with measChain := sha384 (p.measChain ++ measureEntry kind unload ident s.tb.now (sha384 image)) }) s

/-! ### Streams of a layer (R45) -/

/-- Streams of layer index `i`, ascending. -/
def layerStreams (d : Desc) (i : Nat) : List Nat :=
  (List.range d.streams.length).filter fun s => match d.streams[s]? with | some st => st.layerIdx == i | none => false

/-- Layers of a descriptor. -/
def layerCount (d : Desc) : Nat := d.streams.foldl (fun m st => max m (st.layerIdx + 1)) 0

def pagesHeld (d : Desc) : Nat := (d.streams.map fun st => st.entries.length).sum

/-- SPEC_COUNT (R212). -/
def specCount (d : Desc) : Nat :=
  match d.chrysalis with
  | some c => c.counts.foldl max 0
  | none => 0

/-- Every MDB of a descriptor but its first. -/
def chainMdbs (d : Desc) : List Nat := d.exts ++ d.streams.flatMap (·.plbs)

/-! ### Ring geometry (R54 to R56) -/

def ringPages (st : Stream) : Nat := ceilDiv' st.window st.tokPerPage + 1
def ringSpan (st : Stream) : Nat := ringPages st * st.tokPerPage

/-- Entry index and row of a position in an uncoded stream (R47, R55). -/
def placeOf (st : Stream) (p : Nat) : Nat × Nat :=
  if st.ring then
    if p < st.sinks then (0, p)
    else
      let q := (p - st.sinks) % ringSpan st
      ((if 0 < st.sinks then 1 else 0) + q / st.tokPerPage, q % st.tokPerPage)
  else (p / st.tokPerPage, p % st.tokPerPage)

/-- Rows a page entry holds, speculative ones included. -/
def entryRows (e : PageEntry) : Nat := e.ntok + e.specRows

/-- Entry index and row of a position in a coded stream (R46). -/
def codedPlace : List PageEntry → Nat → Nat → Nat × Nat
  | [], j, p => (j, p)
  | e :: es, j, p => if p < entryRows e then (j, p) else codedPlace es (j + 1) (p - entryRows e)

/-- Entry index and row of a position. -/
def placeIn (st : Stream) (p : Nat) : Nat × Nat :=
  if fmtCoded st.fmt then codedPlace st.entries 0 p else placeOf st p

/-- First position of the page of entry `j` in a non-ring stream. -/
def firstPosOf (st : Stream) (j : Nat) : Nat := ((st.entries.take j).map entryRows).sum

/-! ### Coded pages (R40) -/

def trailerOff : Nat := 0xFFC0
/-- Bytes of a row stored with every block raw (R41). -/
def rawRowSize (e : Nat) : Nat := e / 64 * 132

/-- The bytes of a coded page below its trailer. -/
def codedBytes (s : State) (n : Nat) (l : PageLoc) : List Byte := pageRead s n l 0 trailerOff

/-- Byte offset of row `t` of a coded page; none on a corrupt block. -/
def codedRowOff (fp16 : Bool) (gen : Nat) (table : Nat → Nat → Option (List Byte)) (blocks : Nat) :
    Nat → List Byte → Option Nat
  | 0, _ => some 0
  | t + 1, bs =>
    match decodeCodedRow fp16 gen table blocks bs with
    | none => none
    | some (_, sz) => (codedRowOff fp16 gen table blocks t (bs.drop sz)).map (sz + ·)

/-! ### Reading a stored row -/

/-- The bytes of a stored row at a position, with its scale bytes and its byte offset; none where it cannot be
read. -/
def rowBytes (s : State) (d : Desc) (st : Stream) (p : Nat) : Option (List Byte × List Byte) :=
  let (j, t) := placeIn st p
  match st.entries[j]? with
  | none => none
  | some e =>
    let l := locOf s d e
    if l.lost || l.swapped then none
    else if fmtCoded e.fmt then
      let bs := codedBytes s d.part l
      let table := fun k g => tableRec s d.part k g
      match codedRowOff (e.fmt == 3) e.excGen table (st.elems / 64) t bs with
      | none => none
      | some off =>
        match decodeCodedRow (e.fmt == 3) e.excGen table (st.elems / 64) (bs.drop off) with
        | none => none
        | some (_, sz) => some ((bs.drop off).take sz, [])
    else
      let b := rowSize e.fmt st.elems
      let sc := rowScaleSize e.fmt st.elems
      some (pageRead s d.part l (t * b) b,
        if fmtIsFp8 e.fmt then pageRead s d.part l trailerOff 4
        else pageRead s d.part l (scaleBase e.fmt st.elems + t * sc) sc)

/-- The stored row at a position (R153). -/
def readRow (s : State) (d : Desc) (st : Stream) (p : Nat) : Option StoredRow :=
  let (j, _) := placeIn st p
  match st.entries[j]?, rowBytes s d st p with
  | some e, some (bs, sc) =>
    if fmtCoded e.fmt then
      match decodeCodedRow (e.fmt == 3) e.excGen (fun k g => tableRec s d.part k g) (st.elems / 64) bs with
      | some (ws, _) => some (decodeRow (e.fmt - 2) (ws.flatMap (leBytes 2)) [])
      | none => none
    else some (decodeRow e.fmt bs sc)
  | _, _ => none

/-! ### Planning an append (R37, R40, R41, R47, R55, R150) -/

/-- One row to write: entry index, row in the page, byte offset in a coded page, bytes, scale bytes. -/
structure RowPut where
  entry : Nat
  row : Nat
  off : Nat
  bytes : List Byte
  scale : List Byte
  deriving DecidableEq, Repr

/-- What an append does to one stream. `scales`: the exponents of the FP8 page scales of the new pages. -/
structure StreamPlan where
  puts : List RowPut := []
  newPages : Nat := 0
  scales : List Int := []
  conv : ConvCount := {}
  gen : Nat := 0
  deriving DecidableEq, Repr

/-- The exponent of the FP8 page scale that a page already holds. -/
def storedScaleExp (s : State) (d : Desc) (e : PageEntry) : Int :=
  match f32Num (BitVec.ofNat 32 (leNat (pageRead s d.part (locOf s d e) trailerOff 4))) with
  | .fin _ m x => if m = 0 then 0 else floorLog2 m 1 x
  | _ => 0

/-- The plan of an uncoded stream for rows from position `p0`. -/
def planUncoded (s : State) (d : Desc) (st : Stream) (p0 : Nat) (rows : List (List F32)) : StreamPlan :=
  let have_ := st.entries.length
  let placed := rows.zipIdx.map fun x => (placeOf st (p0 + x.2), x.1)
  let top := placed.foldl (fun m x => max m (x.1.1 + 1)) have_
  let fp8 := fmtIsFp8 st.fmt
  let scales := (List.range (top - have_)).map fun k =>
    if fp8 then
      pageScaleExp st.fmt ((placed.filter fun x => x.1.1 == have_ + k).flatMap fun x => x.2.map f32Num)
    else 0
  let expOfPage := fun j =>
    if !fp8 then 0
    else match st.entries[j]? with
      | some e => storedScaleExp s d e
      | none => scales.getD (j - have_) 0
  let coded := placed.map fun x => (x.1, encodeRow st.fmt (expOfPage x.1.1) x.2)
  { puts := coded.map fun x => ⟨x.1.1, x.1.2, 0, x.2.1, x.2.2.1⟩
    newPages := top - have_
    scales := scales
    conv := coded.foldl (fun c x => c.add x.2.2.2) {} }

/-- Places coded rows one after another from entry `j`, row `t` and offset `off`; `gen` codes the present page,
`newGen` the new ones. -/
def planCodedRows (fp16 : Bool) (slot elems : Nat) (table : Nat → Option (List Byte)) (newGen : Nat) :
    Nat → Nat → Nat → Nat → List (List F32) → List RowPut
  | _, _, _, _, [] => []
  | j, t, off, gen, row :: rows =>
    if trailerOff < off + rawRowSize elems then
      let bs := encodeCodedRow fp16 slot newGen ((table newGen).getD []) row
      ⟨j + 1, 0, 0, bs, []⟩ :: planCodedRows fp16 slot elems table newGen (j + 1) 1 bs.length newGen rows
    else
      let bs := encodeCodedRow fp16 slot gen ((table gen).getD []) row
      ⟨j, t, off, bs, []⟩ :: planCodedRows fp16 slot elems table newGen j (t + 1) (off + bs.length) gen rows

/-- The plan of a coded stream: rows follow the last block of an unshared tail page (R41, R49). -/
def planCoded (s : State) (d : Desc) (st : Stream) (rows : List (List F32)) : StreamPlan :=
  let newGen := match (tableSlot s d.part st.excTable).newest with | some (g, _) => g | none => 0
  let have_ := st.entries.length
  let table := fun g => tableRec s d.part st.excTable g
  let puts := match st.entries.getLast? with
    | some e =>
      if e.shared then planCodedRows (st.fmt == 3) st.excTable st.elems table newGen (have_ - 1) 0 trailerOff 0 rows
      else planCodedRows (st.fmt == 3) st.excTable st.elems table newGen (have_ - 1) (entryRows e)
        (st.specEnd * 4) e.excGen rows
    | none =>
      -- the first row opens entry 0: the plan counts entries from `j + 1`
      (planCodedRows (st.fmt == 3) st.excTable st.elems table newGen 0 0 trailerOff 0 rows).map fun r =>
        { r with entry := r.entry - 1 }
  let top := puts.foldl (fun m r => max m (r.entry + 1)) have_
  { puts := puts, newPages := top - have_, scales := (List.range (top - have_)).map fun _ => 0, gen := newGen }

def planStream (s : State) (d : Desc) (st : Stream) (p0 : Nat) (rows : List (List F32)) : StreamPlan :=
  if fmtCoded st.fmt then planCoded s d st rows else planUncoded s d st p0 rows

/-- PLBs that a chain of `n` entries has (R46). -/
def plbCount (n : Nat) : Nat := ceilDiv' n 30

/-! ### Allocating and writing (R36, R48, R70, R115) -/

/-- The rotation position of page `j` of stream `i` of the descriptor at MDB `m` (R70). -/
def pageRotation (s : State) (n m i j : Nat) : Nat :=
  let k := max 1 (ownedPcs s n).length
  m % k + i + j

/-- Allocates `k` pages for stream `i` from chain index `j`, each with its entry. -/
def allocEntries (m i : Nat) (d : Desc) (exc : Option (Nat × Nat)) (fmt gen : Nat) (spec : Bool) :
    Nat → Nat → Nat → State → Option (List PageEntry × State)
  | 0, _, _, s => some ([], s)
  | k + 1, j, serial, s =>
    match allocPage d.part (pageRotation s d.part m i j) exc s with
    | none => none
    | some (p, s1) =>
      match allocEntries m i d exc fmt gen spec k (j + 1) (serial + 1) s1 with
      | none => none
      | some (es, s2) =>
        some ({ page := p, fmt := fmt, excGen := gen, keySlot := allocSlot s d.part, spec := spec,
                serial := serial } :: es, s2)

/-- Allocates what the plans of a layer's streams need: pages in stream and chain order, and PLBs (R36). The
descriptor's streams take the new entries. -/
def allocPlans (m : Nat) (spec : Bool) : List (Nat × StreamPlan) → State → Option State
  | [], s => some s
  | (i, pl) :: rest, s =>
    match desc? s m with
    | none => none
    | some d =>
      match d.streams[i]? with
      | none => none
      | some st =>
        let exc := if fmtCoded st.fmt then some (st.excTable, pl.gen) else none
        match allocEntries m i d exc st.fmt pl.gen (spec && !st.ring) pl.newPages st.entries.length d.serialNext s with
        | none => none
        | some (es, s1) =>
          let need := plbCount (st.entries.length + pl.newPages) - st.plbs.length
          match allocChainMdbs d.part m need s1 with
          | none => none
          | some (ms, s2) =>
            let s3 := updDesc m (fun d => { d with serialNext := d.serialNext + pl.newPages }) s2
            allocPlans m spec rest
              (updStream m i (fun st => { st with entries := st.entries ++ es, plbs := st.plbs ++ ms }) s3)

/-- Writes the FP8 page scales of the new pages from entry `j` on (R150). -/
def putScales (d : Desc) (st : Stream) : Nat → List Int → State → State
  | _, [], s => s
  | j, k :: ks, s =>
    let s1 := match st.entries[j]? with
      | some e => pageWrite d.part (locOf s d e) trailerOff (leBytes 4 (pow2Word k).toNat) s
      | none => s
    putScales d st (j + 1) ks s1

/-- Writes planned rows into their pages. -/
def putRows (d : Desc) (st : Stream) : List RowPut → State → State
  | [], s => s
  | r :: rs, s =>
    let s1 := match st.entries[r.entry]? with
      | none => s
      | some e =>
        let l := locOf s d e
        if fmtCoded e.fmt then pageWrite d.part l r.off r.bytes s
        else
          let s2 := pageWrite d.part l (r.row * rowSize e.fmt st.elems) r.bytes s
          if r.scale.isEmpty then s2
          else pageWrite d.part l (scaleBase e.fmt st.elems + r.row * r.scale.length) r.scale s2
    putRows d st rs s1

/-- The entry after rows were written into it: NTOK of committed rows, or the speculative rows beyond it; a ring
page once written has NTOK = T (R55). -/
def entryAfter (st : Stream) (spec : Bool) (puts : List RowPut) (j : Nat) (e : PageEntry) : PageEntry :=
  let mine := puts.filter fun r => r.entry == j
  if mine.isEmpty then e
  else
    let top := mine.foldl (fun m r => max m (r.row + 1)) 0
    if st.ring then
      if 0 < st.sinks ∧ j = 0 then (if spec then e else { e with ntok := max e.ntok top })
      else { e with ntok := st.tokPerPage }
    else if spec then { e with specRows := max (entryRows e) top - e.ntok }
    else { e with ntok := max e.ntok top, specRows := 0 }

/-- End offset / 4 of the last block after coded rows were written. -/
def specEndAfter (st : Stream) (puts : List RowPut) : Nat :=
  match puts.getLast? with
  | some r => (r.off + r.bytes.length) / 4
  | none => st.specEnd

/-- TAIL and NBLK of the coded pages that committed rows reached (R40): the end of each page's last row. -/
def putTrailers (d : Desc) (st : Stream) (puts : List RowPut) (s : State) : State :=
  st.entries.zipIdx.foldl (fun s x =>
    match (puts.filter fun r => r.entry == x.2).getLast? with
    | none => s
    | some r =>
      pageWrite d.part (locOf s d x.1) trailerOff
        (leBytes 2 ((r.off + r.bytes.length) / 4) ++ leBytes 2 (x.1.ntok * (st.elems / 64))) s) s

/-- Writes the planned rows of one stream from position `p0` and updates its entries (R115, R216). -/
def writePlan (m i p0 count : Nat) (spec : Bool) (oldLen : Nat) (pl : StreamPlan) (s : State) : State :=
  match desc? s m with
  | none => s
  | some d =>
    match d.streams[i]? with
    | none => s
    | some st =>
      let s1 := if fmtIsFp8 st.fmt then putScales d st oldLen pl.scales s else s
      let s2 := putRows d st pl.puts s1
      let entries := st.entries.zipIdx.map fun x => entryAfter st spec pl.puts x.2 x.1
      let st' :=
        { st with
          entries := entries
          tokens := if spec then st.tokens else p0 + count
          ringHigh := if st.ring then max st.ringHigh (p0 + count) else st.ringHigh
          specEnd := if fmtCoded st.fmt then specEndAfter st pl.puts else st.specEnd }
      let s3 := updStream m i (fun _ => st') s2
      if fmtCoded st.fmt && !spec then putTrailers d st' pl.puts s3 else s3

/-- Adds what a conversion counted (Table 5.7). -/
def countConv (n : Nat) (c : ConvCount) (s : State) : State :=
  updPart n (fun p => { p with convSat := sat32 (p.convSat + c.saturated),
                               convNonfinite := sat32 (p.convNonfinite + c.nonfinite) }) s

/-! ### Releasing pages, references and swap slots (R51, R60, R355) -/

/-- A swap slot of a partition is freed; a staged copy that names it is discarded (R228, R359). -/
def freeSwapSlot (n i : Nat) (s : State) : State :=
  updPart n (fun p => { p with swapExc := mdel p.swapExc i, swapKeys := mdel p.swapKeys i, swapArea := p.swapArea.map fun a => { a with used := a.used.filter (· != i) } }) s

/-- A staged copy is discarded: its page is released and counted (R228). -/
def discardStaged (page : Nat) (s : State) : State :=
  match mfind s.staging page with
  | none => s
  | some r =>
    let s1 := updPart r.part (fun p => { p with stageDiscarded := sat32 (p.stageDiscarded + 1) })
      { s with staging := mdel s.staging page }
    releasePage page s1

/-- Discards every staged copy of a set. -/
def discardStagedWhere (f : Staging → Bool) (s : State) : State :=
  (s.staging.filter fun x => f x.2).foldl (fun s x => discardStaged x.1 s) s

/-- A swap slot is released with its staged copies. -/
def releaseSwapSlot (n i : Nat) (s : State) : State :=
  freeSwapSlot n i (discardStagedWhere (fun r => r.part == n && r.slot == i) s)

/-- What a page entry or reference entry holds is released: a page, a swap slot, or nothing if it is lost. -/
def releaseLoc (n : Nat) (l : PageLoc) (s : State) : State :=
  if l.lost then s else if l.swapped then releaseSwapSlot n l.page s else releasePage l.page s

/-- One reference of a shared page is taken away; at none left the page and the entry are freed (R60). -/
def unref (n idx : Nat) (s : State) : State :=
  match mfind s.refs idx with
  | none => s
  | some r =>
    if r.refs ≤ 1 then releaseLoc n (locOfRef r) { s with refs := mdel s.refs idx }
    else { s with refs := mset s.refs idx { r with refs := r.refs - 1 } }

/-- A page entry is released. -/
def releaseEntry (d : Desc) (e : PageEntry) (s : State) : State :=
  if e.shared then unref d.part e.refIdx s else releaseLoc d.part (locOf s d e) s

/-! ### Sharing (R60, R61) -/

/-- The page of an entry becomes shared, or takes one more reference; none where R61 asks for a copy. The
descriptor's entry is updated and the reference index answered. The entry of a page that lies in host memory is taken from the
pseudo-channel of the descriptor's MDB on (DESIGN CHOICE, log 86). -/
def shareEntry (m i j : Nat) (s : State) : Option (Nat × State) :=
  match desc? s m with
  | none => none
  | some d =>
    match d.streams[i]? with
    | none => none
    | some st =>
      match st.entries[j]? with
      | none => none
      | some e =>
        if e.shared then
          match mfind s.refs e.refIdx with
          | none => none
          | some r =>
            if 0xFFFFFF ≤ r.refs then none
            else some (e.refIdx, { s with refs := mset s.refs e.refIdx { r with refs := r.refs + 1 } })
        else
          match refSlotFor s d.part (if e.swapped then m / pcMdbs else pagePc e.page) with
          | none => none
          | some k =>
            let r : RefEntry :=
              { page := e.page, swapped := e.swapped, lost := e.lost, keySlot := e.keySlot, refs := 2,
                originSeq := d.seqId, originLg := d.layerGroup, originTenant := d.tenant,
                originSerial := e.serial, fmt := e.fmt, excGen := e.excGen, ntok := e.ntok,
                excSlot := st.excTable }
            some (k, updEntry m i j (fun e => { e with shared := true, refIdx := k })
              { s with refs := mset s.refs k r })

/-! ### Lost data (R44) -/

/-- Event 0x0109 for the recorded range of a descriptor: the page where one of the HBM held the data, else the
descriptor's pseudo-channel and page 0 (log 64). -/
def logLost (m : Nat) (page : Option Nat) (s : State) : State :=
  match desc? s m with
  | none => s
  | some d =>
    let g := match page with | some p => pagePc p | none => m / pcMdbs
    logEvent 0x0109 (0x10 + g / 64) (some d.part) g [page.getD 0, d.lostFirst, d.lostEnd] s

/-- Records the lost range [a, b) of a descriptor. -/
def recordLost (m a b : Nat) (page : Option Nat) (s : State) : State :=
  logLost m page (updDesc m (fun d =>
    if d.loss then { d with lostFirst := min d.lostFirst a, lostEnd := max d.lostEnd b }
    else { d with loss := true, lostFirst := a, lostEnd := b }) s)

/-- The smallest range that covers the positions of the rows of entry `j` of a stream, for a ring the positions of
its window that lie in that page; none if it holds none. -/
def entryRange (st : Stream) (j : Nat) : Option (Nat × Nat) :=
  if st.ring then
    let lo := max st.sinks (st.tokens - st.window)
    let held := (List.range (min st.sinks st.tokens)) ++ (List.range (st.tokens - lo)).map (lo + ·)
    let mine := held.filter fun p => (placeOf st p).1 == j
    match mine with
    | [] => none
    | p :: ps => some (p, ps.foldl max p + 1)
  else
    match st.entries[j]? with
    | none => none
    | some e => if e.ntok = 0 then none else some (firstPosOf st j, firstPosOf st j + e.ntok)

/-- The HBM page that a place names, if it names one. -/
def residentPage (l : PageLoc) : Option Nat := if l.swapped || l.lost then none else some l.page

/-- The page of a place whose data is lost is released. -/
def releaseLost (l : PageLoc) (s : State) : State := match residentPage l with | some p => releasePage p s | none => s

/-- The prefix keys that name a reference entry whose page is lost are deleted, each with its reference (R60, R96). -/
def dropKeysOf (idx : Nat) (s : State) : State :=
  match ownerOf s (idx / pcRefs) with
  | none => s
  | some n =>
    (s.dir.entries.filter fun x =>
      keyIsPrefix x.2.key && dataRef x.2.data.toNat == idx && mget 64 s.dir.segOwn (x.1 / segSize) == n).foldl
        (fun s x => unref n idx (dirRemove n x.1 s)) s

/-- A shared page's data is lost: its reference entry is set LOST, its prefix key goes, and every descriptor that refers to it records
the positions (R44, R59). -/
def loseRef (idx : Nat) (s : State) : State :=
  match mfind s.refs idx with
  | none => s
  | some r =>
    let page := residentPage (locOfRef r)
    let s1 := releaseLost (locOfRef r) { s with refs := mset s.refs idx { r with lost := true, swapped := false } }
    s1.descs.foldl (fun s x =>
      x.2.streams.zipIdx.foldl (fun s y =>
        y.1.entries.zipIdx.foldl (fun s z =>
          if z.1.shared && z.1.refIdx == idx then
            match entryRange y.1 z.2 with
            | some (a, b) => recordLost x.1 a b page s
            | none => s
          else s) s) s) (dropKeysOf idx s1)

/-- A page entry's data is lost: the entry is set LOST and its positions recorded, and its page is released. A shared entry
passes the loss to its reference entry (R59). -/
def loseEntry (m i j : Nat) (s : State) : State :=
  match desc? s m with
  | none => s
  | some d =>
    match d.streams[i]? with
    | none => s
    | some st =>
      match st.entries[j]? with
      | none => s
      | some e =>
        if e.shared then loseRef e.refIdx (updEntry m i j (fun e => { e with fetching := false }) s)
        else
          let l := locOf s d e
          let s1 := releaseLost l (updEntry m i j (fun e => { e with lost := true, swapped := false, fetching := false }) s)
          match entryRange st j with
          | some (a, b) => recordLost m a b (residentPage l) s1
          | none => s1

/-! ### Dropping and settling a chrysalis tail (R222 to R224) -/

/-- The entries of a non-ring stream once its committed count is `tok`: each page's NTOK is its committed rows, and
a page that holds none and was speculative goes. Answers the entries kept and those released. -/
def settleEntries : Nat → Nat → List PageEntry → List PageEntry × List PageEntry
  | _, _, [] => ([], [])
  | tok, first, e :: es =>
    let rows := entryRows e
    let c := min rows (tok - first)
    let (keep, gone) := settleEntries tok (first + rows) es
    if e.spec && c == 0 then (keep, e :: gone)
    else ({ e with ntok := c, specRows := 0, spec := e.spec && c == 0 } :: keep, gone)

/-- Rows of an uncoded tail with its speculative rows counted in its entries. -/
def withSpecRows (st : Stream) (high : Nat) : List PageEntry :=
  if fmtCoded st.fmt then st.entries
  else st.entries.zipIdx.map fun x =>
    { x.1 with specRows := min st.tokPerPage (high - x.2 * st.tokPerPage) - x.1.ntok }

/-- TAIL of a coded page that the node does not write, as an offset: that of its trailer, in HBM or in its swap slot, or the end
of the page where the page is lost (R40, R217). -/
def storedTail (s : State) (n : Nat) (l : PageLoc) : Nat :=
  if l.lost then trailerOff
  else fieldAt (if l.swapped then slotRead s n l trailerOff 2 else pageRead s n l trailerOff 2) 0 2 * 4

/-- TAIL and NBLK of the coded pages whose committed rows changed, and of the last one, end after their last
committed row; answers the end of the last page's blocks. -/
def settleTrailers (s : State) (d : Desc) (st : Stream) (keep : List PageEntry) (t : State) : Nat × State :=
  keep.zipIdx.foldl (fun (a : Nat × State) x =>
    let l := locOf s d x.1
    let old := match st.entries[x.2]? with | some e => e.ntok | none => 0
    if x.1.shared || l.swapped || l.lost then (storedTail s d.part l, a.2)
    else if x.1.ntok = old ∧ x.2 + 1 ≠ keep.length then a
    else
      let off := (codedRowOff (x.1.fmt == 3) x.1.excGen (fun k g => tableRec s d.part k g) (st.elems / 64) x.1.ntok
        (codedBytes s d.part l)).getD 0
      (off, pageWrite d.part l trailerOff (leBytes 2 (off / 4) ++ leBytes 2 (x.1.ntok * (st.elems / 64))) a.2)) (0, t)

/-- A stream settled at `tok` committed tokens, with speculative rows up to position `high`. -/
def settleStream (m i tok high : Nat) (s : State) : State :=
  match desc? s m with
  | none => s
  | some d =>
    match d.streams[i]? with
    | none => s
    | some st =>
      if st.ring then
        updStream m i (fun st =>
          { st with
            tokens := tok
            entries := if 0 < st.sinks then st.entries.zipIdx.map (fun x =>
              if x.2 = 0 then { x.1 with ntok := min st.sinks tok } else x.1) else st.entries }) s
      else
        let (keep, gone) := settleEntries tok 0 (withSpecRows st high)
        let s1 := gone.foldl (fun s e => releaseEntry d e s) s
        if fmtCoded st.fmt then
          let (end_, s2) := settleTrailers s d st keep s1
          updStream m i (fun st => { st with tokens := tok, entries := keep, specEnd := end_ / 4 }) s2
        else updStream m i (fun st => { st with tokens := tok, entries := keep }) s1

/-- Settles every stream of a descriptor at base + n tokens, and ends the tail. -/
def settleTail (m n : Nat) (s : State) : State :=
  match desc? s m with
  | none => s
  | some d =>
    match d.chrysalis with
    | none => s
    | some c =>
      let s1 := (List.range d.streams.length).foldl (fun s i =>
        match d.streams[i]? with
        | some st => settleStream m i (c.base + n) (c.base + c.counts.getD st.layerIdx 0) s
        | none => s) s
      updDesc m (fun d => { d with chrysalis := none, specTag := 0, specDeadline := 0 }) s1

/-- Drops a tail (R223). -/
def dropTail (m : Nat) (s : State) : State := settleTail m 0 s

/-- A replication step that ends in a change of the descriptor. -/
def changes (m : Nat) (w : ReplWait) : Bool :=
  match w.next with
  | .append k _ _ _ => k == m
  | .commit k _ => k == m
  | .answer => false
  | .closed _ _ => false

/-- An accepted SPEC_COMMIT of the descriptor waits for its replication step (R222). -/
def commitPending (s : State) (m : Nat) : Bool :=
  s.fab.replWaits.any fun w => match w.next with | .commit k _ => k == m | _ => false

/-- A SPEC_COMMIT of the descriptor's tail that arrived before the deadline is held: at its arrival the tail was open (R222). -/
def commitHeld (s : State) (d : Desc) : Bool :=
  s.fab.heldAppends.any fun x => x.op == 6 && decide (x.req.arrival < d.specDeadline) && x.req.tenant == d.tenant &&
    fieldAt x.req.body 0 5 == d.seqId && fieldAt x.req.body 8 1 == d.layerGroup && fieldAt x.req.body 0x10 8 == d.specTag

/-- The tail counts as dropped for a request that arrives at its deadline or later (R224); its discard waits while an accepted
commit of it runs, or one that arrived in time is held (R222). -/
def expireTail (m arrival : Nat) (s : State) : State :=
  match desc? s m with
  | none => s
  | some d =>
    match d.chrysalis with
    | none => s
    | some _ =>
      if d.specDeadline ≤ arrival ∧ !commitPending s m ∧ !commitHeld s d then
        updPart d.part (fun p => { p with specExpired := sat32 (p.specExpired + 1) }) (dropTail m s)
      else s

/-- A tail dropped for a cause of R224, with its count and event. -/
def forceDrop (m cause : Nat) (s : State) : State :=
  match desc? s m with
  | none => s
  | some d =>
    match d.chrysalis with
    | none => s
    | some _ =>
      let s1 := updPart d.part (fun p => { p with specForced := sat32 (p.specForced + 1) }) (dropTail m s)
      logEvent 0x0601 srcCt (some d.part) 0 [d.seqId, d.layerGroup, cause] s1

/-- A tail ends without a request (R224): one past its deadline counts as expired, any other as forced. An accepted commit of it
completes and ends the tail itself (R222, log 31). -/
def endTail (m cause : Nat) (s : State) : State :=
  if commitPending s m then s else forceDrop m cause (expireTail m s.tb.now s)

end Sys2Proof.Machine
end

