-- ==== Sys2Proof/Machine/Image.lean ====
section
/-!
DEFINITION. Descriptors, stream entries, page entries and page-list blocks as the bytes of their MDBs (Tables 2.4
to 2.6, R42, R43, R46), and back; and the bytes of one page as another node or an image takes it.
-/

namespace Sys2Proof.Machine

open Sys2Proof

def nullMdb : Nat := 0xFFFFFF

/-- A page entry (Table 2.6); PAGE of a swapped one is its slot, of a lost one 0. -/
def entryBytes (e : PageEntry) : List Byte :=
  leBytes 16 (e.page % 2 ^ 24 + putBits e.fmt 24 + putBits e.excGen 28 + putBits e.keySlot 30 + putBits e.repl 32 +
    putBits (bnat e.spec) 34 + putBits (bnat e.shared) 35 + putBits (bnat e.lost) 36 + putBits (bnat e.swapped) 37 +
    putBits e.refIdx 38 + putBits e.ntok 64 + putBits e.serial 80)

/-- A page entry read from its 16 bytes. -/
def entryOf (bs : List Byte) : PageEntry :=
  let w := leNat (sliceBytes bs 0 16)
  { page := bitsOf w 23 0, fmt := bitsOf w 27 24, excGen := bitsOf w 29 28, keySlot := bitsOf w 31 30,
    repl := bitsOf w 33 32, spec := bitOf w 34, shared := bitOf w 35, lost := bitOf w 36, swapped := bitOf w 37,
    refIdx := bitsOf w 59 38, ntok := bitsOf w 74 64, serial := bitsOf w 111 80 }

/-- PAGE of an entry is a page number: 0x00D2_0000 and above are reserved encodings wherever one stands (R16). -/
def entryPageOk (bs : List Byte) : Bool := decide ((entryOf bs).page < 768 * pcPages)

/-- A page entry as a message or an image carries it: PAGE, SHARED, REFIDX, KEY_SLOT, SWAPPED and REPL are 0
(R401, R414). -/
def entryPlain (e : PageEntry) (serial ntok : Nat) (lost : Bool) : List Byte :=
  entryBytes { e with page := 0, keySlot := 0, repl := 0, spec := false, shared := false, lost := lost,
                      swapped := false, refIdx := 0, ntok := ntok, serial := serial }

def kindCode : Kind → Nat
  | .keys => 0
  | .values => 1
  | .latent => 2

def kindOf (c : Nat) : Kind := if c = 0 then .keys else if c = 1 then .values else .latent

/-- A stream entry (Table 2.5). -/
def streamBytes (st : Stream) : List Byte :=
  leBytes 4 (st.plbs.head?.getD nullMdb) ++ leBytes 4 (st.plbs.getLast?.getD nullMdb) ++ leBytes 4 st.tokens ++
  leBytes 4 st.entries.length ++ leBytes 1 st.layer ++ leBytes 1 st.kvhead ++
  leBytes 1 (kindCode st.kind + putBits (bnat st.ring) 2 + putBits (bnat st.publish) 3 + putBits (bnat st.ropeStored) 4) ++
  leBytes 1 (st.fmt + putBits st.excTable 4) ++ leBytes 2 st.elems ++ leBytes 2 st.ropeElems ++
  leBytes 2 st.tokPerPage ++ leBytes 1 st.sinks ++ leBytes 1 0 ++
  leBytes 4 (if st.ring then st.window else if fmtCoded st.fmt then st.specEnd else 0)

/-- A stream read from its entry, with no pages; `idx` is its layer index within the group. -/
def streamOf (idx : Nat) (bs : List Byte) : Stream :=
  let flags := fieldAt bs 0x12 1
  let ring := bitOf flags 2
  let fmt := fieldAt bs 0x13 1 % 16
  let last := fieldAt bs 0x1C 4
  { kind := kindOf (flags % 4), layer := fieldAt bs 0x10 1, layerIdx := idx, kvhead := fieldAt bs 0x11 1, ring := ring,
    publish := bitOf flags 3, ropeStored := bitOf flags 4, fmt := fmt, excTable := fieldAt bs 0x13 1 / 16,
    elems := fieldAt bs 0x14 2, ropeElems := fieldAt bs 0x16 2, tokPerPage := fieldAt bs 0x18 2,
    sinks := fieldAt bs 0x1A 1, window := if ring then last % 2 ^ 21 else 0, tokens := fieldAt bs 8 4,
    specEnd := if ring then 0 else last % 2 ^ 14, ringHigh := if ring then fieldAt bs 8 4 else 0 }

/-- Extension MDBs that `n` streams need (R43). -/
def extCount (n : Nat) : Nat := if n ≤ 12 then 0 else ceilDiv' (n - 12) 15

/-- The stream entries of extension `k`. -/
def extStreams (d : Desc) (k : Nat) : List Stream := (d.streams.drop (12 + 15 * k)).take 15

/-- The descriptor MDB (Table 2.4). -/
def descBytes (d : Desc) : List Byte :=
  let swapped := d.streams.any fun st => st.entries.any fun e => e.swapped
  let head := leBytes 1 1 ++
    leBytes 1 (1 + putBits (bnat d.conf) 1 + putBits (bnat d.replica) 2 + putBits (bnat swapped) 3 + putBits (bnat d.loss) 4) ++
    leBytes 2 d.tenant ++ leBytes 1 d.layerGroup ++ leBytes 1 d.part ++ leBytes 2 d.streams.length ++
    leBytes 8 d.seqId ++ leBytes 4 d.serialNext ++ leBytes 4 (d.exts.head?.getD nullMdb) ++ leBytes 8 d.specTag ++
    leBytes 8 (specCount d) ++ leBytes 8 d.specDeadline ++ leBytes 4 d.lostFirst ++ leBytes 4 d.lostEnd ++
    leBytes 8 d.created ++ leBytes 8 d.lastUse ++ leBytes 4 (pagesHeld d)
  let head := head ++ zeroBytes (128 - head.length)
  let body := (d.streams.take 12).flatMap streamBytes
  head ++ body ++ zeroBytes (384 - body.length)

/-- Extension MDB `k`: the link to the next one and up to 15 stream entries. -/
def extBytes (d : Desc) (k : Nat) : List Byte :=
  let body := (extStreams d k).flatMap streamBytes
  leBytes 32 (d.exts.getD (k + 1) nullMdb) ++ body ++ zeroBytes (480 - body.length)

/-- The descriptor MDB and its extensions. -/
def descMdbs (d : Desc) : List Byte :=
  descBytes d ++ (List.range (extCount d.streams.length)).flatMap (extBytes d)

/-- PLB `k` of stream `i` of the descriptor at MDB `m` (R46). -/
def plbBytes (m i : Nat) (st : Stream) (k : Nat) : List Byte :=
  let es := (st.entries.drop (30 * k)).take 30
  let first := if st.ring then 0 else ((st.entries.take (30 * k)).map (·.ntok)).sum
  let prev := if k = 0 then nullMdb else st.plbs.getD (k - 1) nullMdb
  let head := leBytes 4 (st.plbs.getD (k + 1) nullMdb) ++ leBytes 4 prev ++ leBytes 4 first ++ leBytes 2 es.length ++
    leBytes 2 i ++ leBytes 4 m
  let body := es.flatMap entryBytes
  head ++ zeroBytes (32 - head.length) ++ body ++ zeroBytes (480 - body.length)

/-- Every PLB of a descriptor, stream by stream in chain order. -/
def allPlbs (m : Nat) (d : Desc) : List Byte :=
  d.streams.zipIdx.flatMap fun x => (List.range x.1.plbs.length).flatMap (plbBytes m x.2 x.1)

/-- The layer index of stream `i` (R45). -/
def layerIdxOf (latent : Bool) (heads i : Nat) : Nat := if latent then i else i / (2 * heads)

/-- The stream entries of a descriptor's MDBs. -/
def streamsOf (bs : List Byte) : List Stream :=
  let n := fieldAt bs 6 2 % 4096
  let raw := (List.range n).map fun i =>
    if i < 12 then sliceBytes bs (128 + 32 * i) 32
    else sliceBytes bs (512 + 512 * ((i - 12) / 15) + 32 + 32 * ((i - 12) % 15)) 32
  let latent := fieldAt (raw.headD []) 0x12 1 % 4 == 2
  let heads := raw.foldl (fun m r => max m (fieldAt r 0x11 1 + 1)) 1
  raw.zipIdx.map fun x => streamOf (layerIdxOf latent heads x.2) x.1

/-- A descriptor read from its MDBs, with no pages. -/
def descOf (bs : List Byte) : Desc :=
  let flags := fieldAt bs 1 1
  { tenant := fieldAt bs 2 2, layerGroup := fieldAt bs 4 1, part := fieldAt bs 5 1 % 64, seqId := fieldAt bs 8 8 % 2 ^ 40,
    conf := bitOf flags 1, replica := bitOf flags 2, loss := bitOf flags 4, lostFirst := fieldAt bs 0x30 4,
    lostEnd := fieldAt bs 0x34 4, serialNext := fieldAt bs 0x10 4, created := fieldAt bs 0x38 8,
    lastUse := fieldAt bs 0x40 8, streams := streamsOf bs }

/-- The page entries of `k` PLBs of one stream. -/
def plbEntries : Nat → List Byte → List PageEntry
  | 0, _ => []
  | k + 1, bs =>
    ((List.range (min 30 (fieldAt bs 0xC 2))).map fun j => entryOf (sliceBytes bs (32 + 16 * j) 16)) ++
      plbEntries k (bs.drop 512)

/-- Gives each stream the entries of its PLBs, taken in chain order. PAGES of the stream entry is its count. -/
def fillStreams : List (Stream × Nat) → List Byte → List Stream
  | [], _ => []
  | (st, pages) :: rest, bs =>
    let k := plbCount pages
    { st with entries := plbEntries k bs } :: fillStreams rest (bs.drop (512 * k))

/-- A descriptor read from an evicted image: its MDBs, then its PLBs. -/
def descOfImage (bs : List Byte) : Desc :=
  let d := descOf bs
  let n := d.streams.length
  let pages := (List.range n).map fun i =>
    if i < 12 then fieldAt bs (128 + 32 * i + 12) 4
    else fieldAt bs (512 + 512 * ((i - 12) / 15) + 32 + 32 * ((i - 12) % 15) + 12) 4
  { d with streams := fillStreams (d.streams.zip pages) (bs.drop (512 * (1 + extCount n))) }

/-! ### The bytes of one page as sent or saved (R401, R414) -/

/-- The 65,536 stored bytes of a location in plaintext, from the page or from bytes read of its swap slot. -/
def plainOf (s : State) (part : Nat) (l : PageLoc) (raw : List Byte) : List Byte :=
  match pageKey s part l.keySlot with
  | none => raw
  | some k => xtsUnits false k l 0 (chunks 128 512 raw)

/-- Zeroes `n` bytes at offset `off`. -/
def zeroAt (bs : List Byte) (off n : Nat) : List Byte := bs.take off ++ zeroBytes (min n (bs.length - off)) ++ bs.drop (off + n)

/-- Rows of a page of an uncoded stream that hold no committed position below `tok`. -/
def deadRows (st : Stream) (tok j ntok : Nat) : List Nat :=
  if st.ring && !(decide (0 < st.sinks) && j == 0) then
    let written := (List.range (st.ringHigh - max tok st.sinks)).map (tok + ·)
    ((written.filter fun p => (placeOf st p).1 == j).map fun p => (placeOf st p).2) ++
      (if st.sinks + ringSpan st ≤ tok then [] else
        (List.range st.tokPerPage).filter fun r =>
          let q := ((j - (if 0 < st.sinks then 1 else 0)) * st.tokPerPage) + r
          decide (tok ≤ st.sinks + q))
  else (List.range (st.tokPerPage - ntok)).map (ntok + ·)

/-- The plain bytes of a page with rows at and beyond the snapshot as zero; a coded page ends at its row `ntok`. -/
def pageImage (s : State) (d : Desc) (st : Stream) (j : Nat) (e : PageEntry) (tok ntok : Nat) (plain : List Byte) :
    List Byte :=
  if fmtCoded e.fmt then
    let off := (codedRowOff (e.fmt == 3) e.excGen (fun k g => tableRec s d.part k g) (st.elems / 64) ntok
      (plain.take trailerOff)).getD 0
    plain.take off ++ zeroBytes (trailerOff - off) ++ leBytes 2 (off / 4) ++ leBytes 2 (ntok * (st.elems / 64)) ++
      zeroBytes 60
  else
    let b := rowSize e.fmt st.elems
    let sc := rowScaleSize e.fmt st.elems
    let base := scaleBase e.fmt st.elems
    (deadRows st tok j ntok).foldl (fun bs r =>
      let bs1 := zeroAt bs (r * b) b
      if sc = 0 then bs1 else zeroAt bs1 (base + r * sc) sc) plain

/-- The serial that a page entry's data carries: of a shared page, that of its origin. -/
def serialOf (s : State) (d : Desc) (e : PageEntry) : Nat := (locOf s d e).serial

end Sys2Proof.Machine
end

