-- ==== Sys2Proof/Machine/Swap.lean ====
section
/-!
DEFINITION. Host memory as the node's second tier (R226 to R228, R297, R298, R355 to R364): swap slots and map
entries, moving pages out and in, staged copies, faults, and the evicted-key table.
-/

namespace Sys2Proof.Machine

open Sys2Proof

/-! ### Slots and map entries (R355, R356) -/

/-- The `k` lowest numbers from `n` on that are not in a list, below `top`. -/
def gapsFrom : Nat → Nat → Nat → Nat → List Nat → List Nat
  | 0, _, _, _, _ => []
  | fuel + 1, k, n, top, used =>
    if k = 0 ∨ top ≤ n then []
    else if used.contains n then gapsFrom fuel k (n + 1) top used
    else n :: gapsFrom fuel (k - 1) (n + 1) top used

/-- The lowest free slots of an area, `k` of them or fewer. -/
def freeSlots (a : SwapArea) (k : Nat) : List Nat := gapsFrom (k + a.used.length) k 0 a.slots a.used

/-- The first of `k` free slots with consecutive indices. -/
def consecutiveFrom : Nat → Nat → Nat → SwapArea → Option Nat
  | 0, _, _, _ => none
  | fuel + 1, n, k, a =>
    if a.slots < n + k then none
    else match (List.range k).find? (fun i => a.used.contains (n + i)) with
      | none => some n
      | some i => consecutiveFrom fuel (n + i + 1) k a

def slotAddr (a : SwapArea) (i : Nat) : Nat := a.base + i * 65536
def mapAddr (a : SwapArea) (i : Nat) : Nat := a.base + a.slots * 65536 + 64 * i

/-- Bytes 0x00 to 0x1F of a map entry (Table 12.8). -/
def mapHead (image : Bool) (fmt gen slot part serial : Nat) (l : PageLoc) (outTs : Nat) : List Byte :=
  leBytes 1 (1 + putBits (bnat image) 1) ++ leBytes 1 (fmt + putBits gen 4 + putBits slot 6) ++ leBytes 2 part ++
  leBytes 4 serial ++ leBytes 8 (l.seq % 2 ^ 40 + putBits l.lg 40 + putBits l.tenant 48) ++ leBytes 8 outTs ++ zeroBytes 8

/-- The nonce of a slot (R356). -/
def slotNonce (i outTs : Nat) : List Byte := leBytes 4 i ++ leBytes 8 outTs

/-- CHECK over the slot bytes and the head of the map entry (R356). -/
def checkWord (s : State) (n i outTs : Nat) (covered : List Byte) : List Byte :=
  match part? s n with
  | some p =>
    if p.conf then
      match p.swapKey with
      | some k => gcmTag k (slotNonce i outTs) covered []
      | none => zeroBytes 16
    else leBytes 16 (crc32c covered)
  | none => zeroBytes 16

/-- HOST_BYTES of a partition's charging record (R323). -/
def chargeHost (n bytes : Nat) (s : State) : State :=
  chargeAt n s.tb.now (fun c => { c with hostBytes := sat64 (c.hostBytes + bytes) }) s

def setUsed (n : Nat) (f : List Nat → List Nat) (s : State) : State :=
  updPart n (fun p => { p with swapArea := p.swapArea.map fun a => { a with used := f a.used } }) s

/-- USED of a map entry is cleared and the slot freed (R359 step 5). -/
def freeSlotUsed (n i : Nat) (s : State) : State :=
  match (part? s n).bind (·.swapArea) with
  | none => s
  | some a => releaseSwapSlot n i (if hostUsable s then hostWrite (mapAddr a i) (zeroBytes 1) s else s)

/-! ### Moving one page (R358, R359) -/

/-- A page entry, or its reference entry, takes a new place (R59). -/
def setPlace (m i j page : Nat) (swapped : Bool) (e : PageEntry) (s : State) : State :=
  if e.shared then
    match mfind s.refs e.refIdx with
    | some r => { s with refs := mset s.refs e.refIdx { r with page := page, swapped := swapped } }
    | none => s
  else updEntry m i j (fun e => { e with page := page, swapped := swapped }) s

/-- The generation of a coded page's table, for its page record (R174). -/
def excOf (s : State) (st : Stream) (e : PageEntry) : Option (Nat × Nat) :=
  if !fmtCoded e.fmt then none
  else if e.shared then (mfind s.refs e.refIdx).map fun r => (r.excSlot, r.excGen)
  else some (st.excTable, e.excGen)

/-- A coded page's table reference goes with its copy into a swap slot (R174). -/
def noteSwapExc (n slot : Nat) (exc : Option (Nat × Nat)) (s : State) : State :=
  match exc with
  | some x => updPart n (fun p => { p with swapExc := mset p.swapExc slot x }) s
  | none => s

/-- The key slot of a confidential partition's page goes with its copy into a swap slot (R382). -/
def noteSwapKey (n slot key : Nat) (s : State) : State :=
  updPart n (fun p => if p.conf then { p with swapKeys := mset p.swapKeys slot key } else p) s

/-- An HBM page takes the table reference of the copy read into it. -/
def notePageExc (p : Nat) (exc : Option (Nat × Nat)) (s : State) : State :=
  match mfind s.pages p with
  | some r => { s with pages := mset s.pages p { r with exc := exc } }
  | none => s

/-- An HBM page is left for a copy elsewhere: its table reference goes with the copy. -/
def leavePage (p : Nat) (s : State) : State :=
  notePageExc p none (releasePage p s)

/-- One page goes out to a slot (R358 steps 2 and 3). -/
def swapOutOne (m i j slot : Nat) (s : State) : State :=
  match desc? s m with
  | none => s
  | some d =>
    match d.streams[i]?, (part? s d.part).bind (·.swapArea) with
    | some st, some a =>
      match st.entries[j]? with
      | none => s
      | some e =>
        let l := locOf s d e
        let raw := hbmRead s (pageAddr l.page) pageSize
        let head := mapHead false e.fmt e.excGen l.keySlot d.part l.serial l s.tb.now
        let entry := head ++ checkWord s d.part slot s.tb.now (raw ++ head) ++ zeroBytes 16
        let s0 := noteSwapKey d.part slot l.keySlot (noteSwapExc d.part slot (excOf s st e) s)
        let s1 := setUsed d.part (slot :: ·) (hostWrite (mapAddr a slot) entry (hostWrite (slotAddr a slot) raw s0))
        let s2 := chargeHost d.part (65536 + 64) (chargeReads d.part pageSize (leavePage l.page (setPlace m i j slot true e s1)))
        updPart d.part (fun p => { p with swapOuts := sat32 (p.swapOuts + 1) }) s2
    | _, _ => s

/-- Pages of one descriptor go out, in order, to as many slots. -/
def swapOutAll (m : Nat) : List (Nat × Nat) → List Nat → State → State
  | (i, j) :: ps, k :: ks, s => swapOutAll m ps ks (swapOutOne m i j k s)
  | _, _, s => s

/-- The bytes of a swap slot that pass the checks of R359 step 2, and the state after reading them; no bytes where
the slot cannot be read or a check fails. -/
def readSlotOf (n fmt gen : Nat) (l : PageLoc) (s : State) : Option (List Byte) × State :=
  match (part? s n).bind (·.swapArea) with
  | none => (none, s)
  | some a =>
    if !hostUsable s then (none, s)
    else
      let raw := hostRead s (slotAddr a l.page) 65536
      let entry := hostRead s (mapAddr a l.page) 64
      let s1 := chargeHost n (65536 + 64) (hostCountRead (65536 + 64) s)
      let outTs := fieldAt entry 0x10 8
      let want := mapHead false fmt gen l.keySlot n l.serial l outTs
      if entry.take 0x20 != want then (none, s1)
      else if sliceBytes entry 0x20 16 = checkWord s n l.page outTs (raw ++ entry.take 0x20) then (some raw, s1)
      else (none, { s1 with host := { s1.host with checkFail := sat32 (s1.host.checkFail + 1) } })

/-- The slot of a page entry's page. -/
def readSlot (d : Desc) (l : PageLoc) (e : PageEntry) (s : State) : Option (List Byte) × State :=
  readSlotOf d.part e.fmt e.excGen l s

/-- A swapped page's data is lost: its entry or reference entry is set LOST and its slot freed (R359). -/
def loseSwapped (m i j : Nat) (d : Desc) (e : PageEntry) (s : State) : State :=
  let l := locOf s d e
  let s1 := if e.shared then loseRef e.refIdx s else loseEntry m i j s
  freeSlotUsed d.part l.page s1

/-- One swapped page comes back into HBM page `p` (R359 steps 2 to 5); whether it did. -/
def swapInOne (m i j p : Nat) (s : State) : Bool × State :=
  match desc? s m with
  | none => (false, releasePage p s)
  | some d =>
    match (d.streams[i]?).bind (·.entries[j]?) with
    | none => (false, releasePage p s)
    | some e =>
      let l := locOf s d e
      if !l.swapped || l.lost then (false, releasePage p s)
      else
        match readSlot d l e s with
        | (none, s1) => (false, loseSwapped m i j d e (releasePage p s1))
        | (some raw, s1) =>
          let exc := (d.streams[i]?).bind fun st => excOf s st e
          let s2 := setPlace m i j p false e (notePageExc p exc (hbmWrite (pageAddr p) raw s1))
          let s3 := freeSlotUsed d.part l.page s2
          (true, updPart d.part (fun q => { q with swapIns := sat32 (q.swapIns + 1) }) s3)

/-- HBM pages for a set of swapped pages, each placed under R70; none where there are too few. A coded page's table reference stays
with its slot until the copy is in place. -/
def allocForSwap (m : Nat) : List (Nat × Nat) → State → Option (List (Nat × Nat × Nat) × State)
  | [], s => some ([], s)
  | (i, j) :: rest, s =>
    match desc? s m with
    | none => none
    | some d =>
      match allocPage d.part (pageRotation s d.part m i j) none s with
      | none => none
      | some (p, s1) =>
        match allocForSwap m rest s1 with
        | none => none
        | some (ps, s2) => some ((i, j, p) :: ps, s2)

/-! ### Staging (R226 to R228) -/

def stagedCount (s : State) (n : Nat) : Nat := s.staging.countP fun x => x.2.part == n
def stageMax (s : State) (n : Nat) : Nat := bitsOf (regWord s (0x01805000 + n * 0x20)) 47 32
def stageTtlNs (s : State) (n : Nat) : Nat := max 1 (bitsOf (regWord s (0x01805000 + n * 0x20)) 63 48) * 1000
def lowWm (p : Part) : Nat := p.lowWm
/-- HIGH_WM in force: LOW_WM for both where it is larger (R69). -/
def highWm (p : Part) : Nat := max p.lowWm p.highWm

/-- FREE is compared with LOW_WM once a request has made its allocations; what that sets off begins when the request has completed
(R69). -/
def noteFreeOf (r : Req) (n : Nat) (s : State) : State :=
  match part? s n with
  | none => s
  | some p =>
    if 0 < p.lowWm ∧ partFree s n < p.lowWm ∧ (r.origin, n) ∉ s.fab.freeDue then
      { s with fab := { s.fab with freeDue := s.fab.freeDue ++ [(r.origin, n)] } }
    else s

/-- A swapped page of partition `n` is read back as a staged copy for stream `i` of descriptor `m` (R226, R359 steps 2 and 3), unless
R228 forbids it; whether its staging started. `lose`: what becomes of it where its slot cannot be read. -/
def stageLoc (n m i rot : Nat) (refIdx : Option Nat) (l : PageLoc) (fmt gen : Nat) (lose : State → State) (s : State) :
    Bool × State :=
  match part? s n with
  | none => (false, s)
  | some pt =>
    if !l.swapped || l.lost then (false, s)
    else if s.staging.any (fun x => x.2.part == n && x.2.slot == l.page) then (false, s)
    else if stageMax s n ≤ stagedCount s n ∨ partFree s n ≤ lowWm pt then (false, s)
    else
      match allocPage n rot none s with
      | none => (false, s)
      | some (p, s1) =>
        match readSlotOf n fmt gen l s1 with
        | (none, s2) => (true, lose (releasePage p s2))
        | (some raw, s2) =>
          let r : Staging :=
            { mdb := m, stream := i, serial := l.serial, refIdx := refIdx, slot := l.page, epoch := s.epochs.current,
              at_ := s.tb.now, part := n }
          let s3 := hbmWrite (pageAddr p) raw s2
          (true, { s3 with staging := mset s3.staging p r, pages := mset s3.pages p { use := .staged, part := n } })

/-- A swapped page of a descriptor is staged (R226); whether its staging started. -/
def stageOne (m i j : Nat) (s : State) : Bool × State :=
  match (desc? s m).bind fun d => (d.streams[i]?).bind fun st => (st.entries[j]?).map fun e => (d, e) with
  | none => (false, s)
  | some (d, e) =>
    if e.spec then (false, s)
    else stageLoc d.part m i (pageRotation s d.part m i j) (if e.shared then some e.refIdx else none) (locOf s d e) e.fmt e.excGen
      (loseSwapped m i j d e) s

/-- STAGE_PAGE: read-ahead stages one of the pages that a fault allows (R226). -/
def execStagePage (m i j : Nat) (s : State) : Host.Outcome State Fault Refusal :=
  if !serving s || !s.fab.ahead.contains (m, i, j) then done s s
  else
    let s1 := { s with fab := { s.fab with ahead := s.fab.ahead.filter (· != (m, i, j)) } }
    done s (stageOne m i j s1).2

/-- STAGE_TTL_EXPIRE: a copy that stays unconfirmed for STAGE_TTL is discarded (R228). -/
def execStageTtlExpire (page : Nat) (s : State) : Host.Outcome State Fault Refusal :=
  if !serving s then done s s
  else match mfind s.staging page with
  | none => done s s
  | some r => if r.at_ + stageTtlNs s r.part ≤ s.tb.now then done s (discardStaged page s) else done s s

/-- A request that needs a swapped page of partition `n` meets a staged copy of it: the copy is confirmed for descriptor `m` (R227), or
discarded. `exc`: the table generation that its page record names; `place`: the entry takes the HBM page. -/
def confirmLoc (epoch n m : Nat) (refIdx : Option Nat) (l : PageLoc) (exc : Option (Nat × Nat)) (place : Nat → State → State)
    (s : State) : State :=
  if !l.swapped || l.lost then s
  else match s.staging.find? (fun x => x.2.part == n && x.2.slot == l.page) with
    | none => s
    | some (p, r) =>
      if epoch = s.epochs.current ∧ r.mdb = m ∧ r.serial = l.serial ∧ r.epoch = s.epochs.current ∧ r.refIdx = refIdx then
        freeSlotUsed n l.page (place p
          { s with staging := mdel s.staging p, pages := mset s.pages p { use := .inUse, part := n, exc := exc } })
      else discardStaged p s

/-- A request that needs a swapped page of a descriptor meets a staged copy of it (R227). -/
def confirmStaged (epoch m i j : Nat) (s : State) : State :=
  match (desc? s m).bind fun d => (d.streams[i]?).bind fun st => (st.entries[j]?).map fun e => (d, st, e) with
  | none => s
  | some (d, st, e) =>
    confirmLoc epoch d.part m (if e.shared then some e.refIdx else none) (locOf s d e) (excOf s st e)
      (fun p => setPlace m i j p false e) s

/-! ### Faults (R297, R298) -/

/-- RETRY_NS: the node's estimate, a whole microsecond from 1,000 to 10,000,000 ns (log 6). -/
def retryNs (s : State) : Nat × State :=
  let t := freeTick s
  (min 10000000 (max 1000 (ceilDiv' (Config.retryEstimate t.1) 1000 * 1000)), t.2)

/-- Answers NOT_RESIDENT_RETRY. -/
def answerRetry (r : Req) (op : Nat) (s : State) : State :=
  let t := retryNs s
  respond r op stNotResident t.1 (refusedBody op stNotResident) t.2

/-- The home die of a request's connection. -/
def homeOf (s : State) (r : Req) : Nat :=
  match r.origin with
  | .fabric c _ _ => match conn? s c with | some x => x.home | none => 0
  | .ring _ _ _ => 0

/-- The connection of a request asks for stall mode, and the request may take it. -/
def mayStall (s : State) (r : Req) : Bool :=
  match r.origin with
  | .fabric c _ _ =>
    match conn? s c with
    | some x => !r.lc && !x.resend && decide ((s.fab.stalled.filter fun y => y.home == x.home).length < 1024) &&
        decide (s.tb.now < r.arrival + 50000)
    | none => false
  | .ring _ _ _ => false

/-- A request waits for a swap-in of descriptor `m`, in stall or re-send mode; `seen`: what it has read of the descriptor. -/
def stallOrRetry (r : Req) (op m : Nat) (seen : Option Seen) (s : State) : State :=
  if mayStall s r then
    let h := homeOf s r
    updNetDie h (fun x => { x with stalls := sat32 (x.stalls + 1) })
      { s with fab := { s.fab with stalled := s.fab.stalled ++ [⟨r, op, m, h, seen⟩] } }
  else answerRetry r op s

/-- The next swapped pages of the streams of a fault, up to 64 (R226). -/
def readAhead (d : Desc) (missing : List (Nat × Nat)) : List (Nat × Nat) :=
  ((missing.map (·.1)).dedup.flatMap fun i =>
    match d.streams[i]? with
    | none => []
    | some st =>
      let last := (missing.filter fun x => x.1 == i).foldl (fun m x => max m x.2) 0
      (List.range (st.entries.length - (last + 1))).map fun k => (i, last + 1 + k)).take 64

/-- A fault: the swap-in of the missing pages starts at once, POOL_FULL where it finds too few pages. -/
def fault (r : Req) (op m : Nat) (missing : List (Nat × Nat)) (seen : Option Seen) (s : State) : State :=
  match desc? s m with
  | none => s
  | some d =>
    let old := (s.fab.demand.filter fun x => x.mdb == m).flatMap fun x => x.pages.map fun p => (p.1, p.2.1)
    let new := missing.filter fun x => !old.contains x
    match allocForSwap m new s with
    | none => refuse r op stPoolFull s
    | some (ps, s1) =>
      let s2 :=
        { s1 with fab :=
          { s1.fab with
            demand := if new.isEmpty then s1.fab.demand else s1.fab.demand ++ [⟨m, ps⟩]
            ahead := (s1.fab.ahead.filter fun x => x.1 != m) ++ (readAhead d missing).map (fun x => (m, x.1, x.2)) } }
      stallOrRetry r op m seen (noteFreeOf r d.part s2)

/-- The swap-in of one demand runs to its end. -/
def runDemand (x : Demand) (s : State) : State :=
  x.pages.foldl (fun s y => (swapInOne x.mdb y.1 y.2.1 y.2.2 s).2) s

/-- Every swap-in under way of a descriptor ends (a second movement of its pages waits for the first, R360). -/
def finishDemands (m : Nat) (s : State) : State :=
  (s.fab.demand.filter fun x => x.mdb == m).foldl (fun s x => runDemand x s)
    { s with fab := { s.fab with demand := s.fab.demand.filter fun x => x.mdb != m } }

/-! ### The evicted-key table (R363) -/

def bucketAddr (a : EvictArea) (b : Nat) : Nat := a.base + 64 * b
def homeBucket (a : EvictArea) (key : BitVec 96) : Nat := crc32c (leBytes 12 key.toNat) % a.buckets

/-- Probes up to `k` buckets from bucket `b` for a key, stopping at an empty one. -/
def probeKey (s : State) (a : EvictArea) (key : BitVec 96) : Nat → Nat → Option (Nat × List Byte)
  | 0, _ => none
  | k + 1, b =>
    let e := hostRead s (bucketAddr a (b % a.buckets)) 64
    let st := fieldAt e 12 1
    if st = 0 then none
    else if st = 1 ∧ fieldAt e 0 12 = key.toNat then some (b % a.buckets, e)
    else probeKey s a key k (b + 1)

/-- The first empty or deleted bucket among `k` from bucket `b`. -/
def probeFree (s : State) (a : EvictArea) : Nat → Nat → Option Nat
  | 0, _ => none
  | k + 1, b =>
    if fieldAt (hostRead s (bucketAddr a (b % a.buckets)) 64) 12 1 = 1 then probeFree s a k (b + 1)
    else some (b % a.buckets)

/-- The evicted entry of a key. -/
def evictedKey (s : State) (n : Nat) (key : BitVec 96) : Option (Nat × List Byte) :=
  match (part? s n).bind (·.evictArea) with
  | some a => if a.keys = 0 ∨ !hostUsable s then none else probeKey s a key 16 (homeBucket a key)
  | none => none

/-- The partition has evicted keys that the node can no longer reach (R366). -/
def evictedLost (s : State) (n : Nat) : Bool :=
  match (part? s n).bind (·.evictArea) with
  | some a => decide (0 < a.keys) && s.host.viral
  | none => false

/-- The plain image of an evicted descriptor, none where its check fails. -/
def readImage (n : Nat) (e : List Byte) (s : State) : Option (List Byte) × State :=
  match part? s n with
  | none => (none, s)
  | some p =>
    match p.swapArea with
    | none => (none, s)
    | some a =>
      let slot := fieldAt e 16 3
      let len := fieldAt e 22 2 * 512
      let raw := hostRead s (slotAddr a slot) len
      let outTs := fieldAt (hostRead s (mapAddr a slot) 64) 0x10 8
      let s1 := chargeHost n (len + 128) (hostCountRead (len + 128) s)
      let bad := (none, { s1 with host := { s1.host with checkFail := sat32 (s1.host.checkFail + 1) } })
      if p.conf then
        match p.swapKey with
        | none => (none, s1)
        | some k =>
          if sliceBytes e 32 16 = gcmTag k (slotNonce slot outTs) (e.take 32) raw then
            (some (gcmCrypt k (slotNonce slot outTs) raw), s1)
          else bad
      else if sliceBytes e 32 16 = leBytes 16 (crc32c (raw ++ e.take 32)) then (some raw, s1) else bad

/-- An evicted key leaves the table, with the slots of its image. -/
def removeEvicted (n b : Nat) (e : List Byte) (s : State) : State :=
  match (part? s n).bind (·.evictArea) with
  | none => s
  | some a =>
    let s1 := hostWrite (bucketAddr a b + 12) [2#8] s
    let s2 := updPart n (fun p => { p with evictArea := p.evictArea.map fun a => { a with keys := a.keys - 1 } }) s1
    (List.range (fieldAt e 20 2)).foldl (fun s i => freeSlotUsed n (fieldAt e 16 3 + i) s) s2

/-- MDBs of a descriptor: its own, its extensions and its PLBs. -/
def mdbCount (d : Desc) : Nat :=
  1 + extCount d.streams.length + (d.streams.map fun st => plbCount st.entries.length).sum

/-- New MDBs for a descriptor, and the descriptor in place, as yet without a key; none where MDBs are lacking. -/
def placeBlocks (n : Nat) (d : Desc) (s : State) : Option (Nat × State) :=
  match allocDescMdb n s with
  | none => none
  | some (m, s1) =>
    match allocChainMdbs n m (extCount d.streams.length) s1 with
    | none => none
    | some (xs, s2) =>
      let step := fun (acc : Option (List Stream × State)) (st : Stream) =>
        match acc with
        | none => none
        | some (sts, s) =>
          match allocChainMdbs n m (plbCount st.entries.length) s with
          | none => none
          | some (ps, s') => some (sts ++ [{ st with plbs := ps }], s')
      match d.streams.foldl step (some ([], s2)) with
      | none => none
      | some (sts, s3) => some (m, { s3 with descs := mset s3.descs m { d with exts := xs, streams := sts } })

/-- New MDBs for a descriptor, the descriptor in place and its key inserted. Too few entries or MDBs answer with the status. -/
def placeDesc (n : Nat) (key : BitVec 96) (lc : Bool) (d : Desc) (s : State) : Except Nat (Nat × State) :=
  if dirFree s n = 0 then .error stDirectoryFull
  else match placeBlocks n d s with
  | none => .error stPoolFull
  | some (m, s1) =>
    match dirInsert n key 8 (seqData m lc) s1 with
    | none => .error stDirectoryFull
    | some (_, s2) => .ok (m, s2)

/-- What becomes of a key miss (R102). -/
inductive MissEnd where
  /-- no evicted key: NOT_PERMITTED, or the status of a restore that failed -/
  | status (st : Nat)
  /-- the descriptor is back at this MDB and the request faults -/
  | restored (mdb : Nat)
  deriving DecidableEq, Repr

/-- A miss of a sequence key: the descriptor is restored from the evicted-key table, pages left swapped out. -/
def restoreEvicted (n : Nat) (key : BitVec 96) (s : State) : MissEnd × State :=
  if evictedLost s n then (.status stDataLost, s)
  else match evictedKey s n key with
  | none => (.status stNotPermitted, s)
  | some (b, e) =>
    match readImage n e s with
    | (none, s1) => (.status stDataLost, removeEvicted n b e s1)
    | (some img, s1) =>
      match placeDesc n key false (descOfImage img) (countOp n s1) with
      | .error st => (.status st, s1)
      | .ok (m, s2) =>
        (.restored m, removeEvicted n b e (updDesc m (fun d => { d with repl := { unread := true } }) s2))

/-- SEQ_CLOSE of an evicted sequence: its entry goes and its swapped pages are freed without a restore (R102). -/
def closeEvicted (n : Nat) (key : BitVec 96) (s : State) : State :=
  match evictedKey s n key with
  | none => s
  | some (b, e) =>
    match readImage n e s with
    | (none, s1) => removeEvicted n b e s1
    | (some img, s1) =>
      let d := descOfImage img
      let s2 := d.streams.foldl (fun s st => st.entries.foldl (fun s en => releaseEntry d en s) s) s1
      removeEvicted n b e s2

/-! ### Requests in flight on a descriptor -/

/-- The sequences that a request names. -/
def namedSeqs (op : Nat) (b : List Byte) : List Nat :=
  if op = 0x12 then [fieldAt b 0 5, fieldAt b 8 5]
  else if op = 0x22 then (List.range (fieldAt b 2 2)).map fun j => fieldAt b (16 + 16 * j) 5
  else if op = 0x23 ∨ op = 0x30 then []
  else [fieldAt b 0 5]

/-- A request of the descriptor's tenant names its sequence. -/
def namesDesc (d : Desc) (op tenant : Nat) (b : List Byte) : Bool := tenant == d.tenant && (namedSeqs op b).contains d.seqId

/-- A request that names the descriptor's sequence waits: held, stalled, for directory quota, in an ingress queue, in a ring, or
for the transfer of its checkpoint. -/
def requestWaits (s : State) (d : Desc) : Bool :=
  s.fab.heldAppends.any (fun x => namesDesc d x.op x.req.tenant x.req.body) ||
  s.fab.stalled.any (fun x => namesDesc d x.op x.req.tenant x.req.body) ||
  s.dir.waitReqs.any (fun x => namesDesc d x.op x.req.tenant x.req.body) ||
  s.fab.ingress.any (fun x => namesDesc d x.2.2.1 x.2.2.2.2.tenant x.2.2.2.2.body) ||
  s.fab.conns.any (fun x => x.2.tx.any fun y => match y.why with
    | .checkpoint r _ => namesDesc d 0x22 r.tenant r.body
    | _ => false) ||
  s.host.rings.any (fun x => x.1 / 8 == d.part && x.2.fetched.any fun f =>
    f.code == 0x10 && namesDesc d (f.arg0 % 256) d.tenant (f.input.getD []))

/-- A request, replication step or swap-in that names the descriptor is in flight (R101, R361). -/
def inFlight (s : State) (m : Nat) : Bool :=
  s.fab.clones.any (fun w => w.srcs.contains m || w.news.any fun x => x.1 == m) || s.sched.runs.any (fun x => x.2.mdbs.contains m) || s.fab.stalled.any (fun x => x.mdb == m) ||
  s.fab.demand.any (fun x => x.mdb == m) || s.fab.replWaits.any (fun x => x.places.contains m || changes m x) ||
  (match desc? s m with | some d => requestWaits s d | none => false)

/-- An accumulator set of the descriptor is open. -/
def hasSet (s : State) (m : Nat) : Bool := s.accSets.any fun a => a.mdb == m

/-- A page holds accumulators (R140). -/
def pageHasAcc (s : State) (p : Nat) : Bool := s.accSets.any fun a => a.pages.any fun x => x.1 == p

/-! ### Prefix reclaim and pre-emption (R69, R96, R361, R362) -/

/-- Released pages of a partition that are not yet free (R69). -/
def comingFree (s : State) (n : Nat) : Nat :=
  s.pages.countP fun x => x.2.part == n && (x.2.use == .held || x.2.use == .zeroing)

/-- FREE and the pages on their way to it. -/
def projected (s : State) (n : Nat) : Nat := partFree s n + comingFree s n

/-- A prefix key is removed with its reference (R60). -/
def dropPrefixKey (n a idx : Nat) (s : State) : State := unref n idx (dirRemove n a s)

/-- Prefix keys whose page has no other reference are deleted in ascending address until HIGH_WM (R96). -/
def reclaimPrefixes (n high : Nat) (s : State) : State :=
  s.dir.entries.foldl (fun s x =>
    if mget 64 s.dir.segOwn (x.1 / segSize) != n || !keyIsPrefix x.2.key || decide (high ≤ projected s n) then s
    else match mfind s.refs (dataRef x.2.data.toNat) with
      | some r => if r.refs = 1 then dropPrefixKey n x.1 (dataRef x.2.data.toNat) s else s
      | none => s) s

/-- The directory's LC bit of a descriptor. -/
def descLc (s : State) (m : Nat) (d : Desc) : Bool :=
  match dirSearch s d.part (seqKey d.tenant d.seqId d.layerGroup) with
  | some (_, e) => dataLc e.data.toNat && dataMdb e.data.toNat == m
  | none => false

/-- Pages of a descriptor that pre-emption moves: resident, not shared. Those of an open tail go with it. -/
def ownPages (s : State) (m : Nat) : List (Nat × Nat) :=
  match desc? s m with
  | none => []
  | some d => d.streams.zipIdx.flatMap fun x => (x.1.entries.zipIdx.filter fun y =>
      !y.1.shared && !y.1.swapped && !y.1.lost && !y.1.spec && !pageHasAcc s y.1.page).map fun y => (x.2, y.2)

/-- Slots that taking a descriptor needs: every resident page that is not shared, those of an open tail included. -/
def slotNeed (s : State) (m : Nat) : Nat :=
  match desc? s m with
  | none => 0
  | some d => (d.streams.map fun st => st.entries.countP fun e => !e.shared && !e.swapped && !e.lost).sum

/-- Candidates for pre-emption in their order (R361); a retry starts from the candidates left, those that still
hold a page. -/
def preemptOrder (s : State) (n : Nat) (retry : Bool) : List Nat :=
  let ok := s.descs.filter fun x =>
    x.2.part == n && !x.2.failed && !descLc s x.1 x.2 && !inFlight s x.1 && !hasSet s x.1 &&
      (!retry || decide (0 < slotNeed s x.1))
  let le := fun (a b : Nat × Desc) => decide (a.2.lastUse < b.2.lastUse) || (a.2.lastUse == b.2.lastUse && decide (a.1 ≤ b.1))
  (sortBy le (ok.filter fun x => !x.2.replica) ++ sortBy le (ok.filter fun x => x.2.replica)).map (·.1)

/-- Why a pass of pre-emption stopped. -/
inductive PassEnd where
  | reached
  | noCandidate
  | starved
  deriving DecidableEq, Repr

/-- Takes candidates while the projected sum is below HIGH_WM (R362); whether any was taken. -/
def takeCandidates (n high : Nat) : List Nat → Bool → State → (PassEnd × Bool) × State
  | [], took, s => ((if high ≤ projected s n then .reached else .noCandidate, took), s)
  | m :: ms, took, s =>
    if high ≤ projected s n then ((.reached, took), s)
    else
      let need := slotNeed s m
      let slots := match (part? s n).bind (·.swapArea) with
        | none => []
        | some a => if hostUsable s then freeSlots a need else []
      if slots.length < need then ((.starved, took), s)
      else
        let s1 := endTail m 0 s
        let s2 := swapOutAll m (ownPages s1 m) slots s1
        takeCandidates n high ms true (updPart n (fun p => { p with preempted := sat32 (p.preempted + 1) }) s2)

/-- Where a pass or a try leaves the partition (R362). -/
def settlePass (n : Nat) (e : PassEnd) (took : Bool) (s : State) : State :=
  match part? s n with
  | none => s
  | some p =>
    match e with
    | .starved =>
      let entry := !p.starved || took
      let s1 := updPart n (fun p =>
        { p with
          preempt := true
          starved := true
          passDue := false
          starvations := if entry then sat32 (p.starvations + 1) else p.starvations }) s
      if entry then logEvent 0x0604 srcCt (some n) 0 [] s1 else s1
    | _ => updPart n (fun p => { p with preempt := false, starved := false, passDue := false }) s

/-- One pass in the order of R361: staged copies, prefix keys, then descriptors; `retry`: a starved partition starts from the
candidates left (R362). -/
def preemptPass (n : Nat) (p : Part) (retry : Bool) (s : State) : State :=
  let high := highWm p
  let s1 := s.staging.foldl (fun s x =>
    if x.2.part = n ∧ projected s n < high then discardStaged x.1 s else s) s
  let s2 := reclaimPrefixes n high s1
  let (e, s3) := takeCandidates n high (preemptOrder s2 n retry) false s2
  settlePass n e.1 e.2 s3

/-- PREEMPTION_PASS: a request has left FREE below LOW_WM (R69, R361); in a starved partition, a further try. -/
def execPreemptionPass (n : Nat) (s : State) : Host.Outcome State Fault Refusal :=
  if !serving s then done s s
  else match part? s n with
  | none => done s s
  | some p =>
    if !p.passDue || p.lowWm = 0 then done s s
    else if lowWm p ≤ partFree s n then done s (updPart n (fun p => { p with passDue := false }) s)
    else done s (preemptPass n p p.starved s)

/-- PREEMPT_RETRY: a starved partition tries again (R362). Pre-emption has ended where FREE has reached HIGH_WM, and
no try is made while FREE is not below LOW_WM. -/
def execPreemptRetry (n : Nat) (s : State) : Host.Outcome State Fault Refusal :=
  if !serving s then done s s
  else match part? s n with
  | none => done s s
  | some p =>
    if !p.starved then done s s
    else if highWm p ≤ partFree s n then done s (settlePass n .reached false s)
    else if lowWm p ≤ partFree s n then done s s
    else done s (preemptPass n p true s)

/-- A request's allocations are made: FREE is compared with LOW_WM (R69). -/
def noteFree (n : Nat) (s : State) : State :=
  match part? s n with
  | none => s
  | some p =>
    if 0 < p.lowWm ∧ partFree s n < p.lowWm then updPart n (fun p => { p with passDue := true }) s else s

/-! ### Eviction (R101, R363) -/

/-- The layer-group keys of a sequence: descriptor MDBs with their directory addresses. -/
def keysOfSeq (s : State) (n tenant seq : Nat) : List (Nat × Nat) :=
  (s.dir.entries.filter fun x =>
    mget 64 s.dir.segOwn (x.1 / segSize) == n && keyIsSeq x.2.key && keyTenant x.2.key == tenant && keySeqId x.2.key == seq).map
      fun x => (dataMdb x.2.data.toNat, x.1)

/-- A sequence may be evicted (R101). -/
def evictable (s : State) (keys : List (Nat × Nat)) : Bool :=
  keys.all fun k => match desc? s k.1 with
    | some d => !descLc s k.1 d && !d.replica && !d.failed && d.chrysalis.isNone && !inFlight s k.1 && !hasSet s k.1
    | none => false

/-- Writes one evicted descriptor: its pages to slots, its MDBs to an image, its bucket, then its key and MDBs go.
None where slots or probes are lacking. -/
def evictOne (n m addr : Nat) (s : State) : Option State :=
  match desc? s m, part? s n with
  | some d, some p =>
    match p.swapArea, p.evictArea with
    | some _, some t =>
      let key := seqKey d.tenant d.seqId d.layerGroup
      let pages := ownPages s m
      match p.swapArea with
      | none => none
      | some a =>
        let slots := freeSlots a pages.length
        if slots.length < pages.length then none
        else
          let s1 := swapOutAll m pages slots s
          match desc? s1 m, (part? s1 n).bind (·.swapArea), probeFree s1 t 16 (homeBucket t key) with
          | some d1, some a1, some b =>
            let plain := descMdbs d1 ++ allPlbs m d1
            let nmdb := plain.length / 512
            let nslot := ceilDiv' nmdb 128
            match consecutiveFrom (a1.used.length + 1) 0 nslot a1 with
            | none => none
            | some first =>
              let ts := s1.tb.now
              let head := leBytes 12 key.toNat ++ leBytes 4 1 ++ leBytes 4 first ++ leBytes 2 nslot ++ leBytes 2 nmdb ++
                leBytes 8 d1.lastUse
              let img := match p.conf, p.swapKey with
                | true, some k => gcmCrypt k (slotNonce first ts) plain
                | _, _ => plain
              let check := match p.conf, p.swapKey with
                | true, some k => gcmTag k (slotNonce first ts) head img
                | _, _ => leBytes 16 (crc32c (img ++ head))
              let l : PageLoc := ⟨0, false, false, 0, d1.seqId, d1.layerGroup, d1.tenant, 0⟩
              let s2 := (List.range nslot).foldl (fun s i =>
                let mh := mapHead true 0 0 0 n 0 l ts
                let chunk := sliceBytes img (65536 * i) 65536
                hostWrite (mapAddr a1 (first + i)) (mh ++ checkWord s n (first + i) ts (chunk ++ mh) ++ zeroBytes 16)
                  (setUsed n ((first + i) :: ·) s)) (hostWrite (slotAddr a1 first) img s1)
              let s3 := hostWrite (bucketAddr t b) (head ++ check ++ zeroBytes 16) s2
              let s4 := updPart n (fun p => { p with evictArea := p.evictArea.map fun a => { a with keys := a.keys + 1 } })
                (chargeHost n (img.length + 64 * nslot + 64) s3)
              let s5 := discardStagedWhere (fun r => r.mdb == m) s4
              some (freeMdbs (m :: chainMdbs d1) { dirRemove n addr s5 with descs := mdel s5.descs m })
          | _, _, none =>
            -- no bucket among the 16: the sequence is skipped, and only the pages have moved
            none
          | _, _, _ => none
    | _, _ => none
  | _, _ => none

/-- Every key of a sequence goes to the table, or none does. -/
def evictSeq (n : Nat) : List (Nat × Nat) → State → Option State
  | [], s => some s
  | (m, a) :: rest, s =>
    match evictOne n m a s with
    | none => none
    | some s1 => evictSeq n rest s1

/-- A bucket is free for every key of a sequence. -/
def bucketsFor (s : State) (n : Nat) (keys : List (Nat × Nat)) : Bool :=
  match (part? s n).bind (·.evictArea) with
  | none => false
  | some t => keys.all fun k => match desc? s k.1 with
    | some d => (probeFree s t 16 (homeBucket t (seqKey d.tenant d.seqId d.layerGroup))).isSome
    | none => false

/-- The sequences of a partition in the order in which R101 takes them, each with its keys. -/
def evictionOrder (s : State) (n : Nat) : List (List (Nat × Nat)) :=
  let mine := s.descs.filter fun x => x.2.part == n
  let ids := (mine.map fun x => (x.2.tenant, x.2.seqId)).dedup
  let seqs := (ids.map fun k => keysOfSeq s n k.1 k.2).filter fun ks => !ks.isEmpty && evictable s ks
  let age : List (Nat × Nat) → Nat := fun ks => ks.foldl (fun m k => match desc? s k.1 with
    | some d => min m d.lastUse
    | none => m) (2 ^ 64)
  let addr : List (Nat × Nat) → Nat := fun ks => ks.foldl (fun m k => min m k.2) (2 ^ 23)
  sortBy (fun a b => decide (age a < age b) || (age a == age b && decide (addr a ≤ addr b))) seqs

/-- Evicts sequences until the free entries reach ENTRY_HIGH; a sequence whose deletes the quota does not allow waits, with those
behind it, for a later window (R97; log 70). -/
def evictUntil (n high : Nat) : List (List (Nat × Nat)) → State → State
  | [], s => s
  | ks :: rest, s =>
    if high ≤ dirFree s n then s
    else if !delsAllowed s n (ks.map (·.2)) then s
    else if !bucketsFor s n ks then
      evictUntil n high rest (updPart n (fun p => { p with probeFull := sat32 (p.probeFull + 1) }) s)
    else match evictSeq n ks s with
      | none => evictUntil n high rest s
      | some s1 => evictUntil n high rest s1

/-- EVICTION: firmware evicts sequences of a partition below ENTRY_LOW (R101). -/
def execEviction (n : Nat) (s : State) : Host.Outcome State Fault Refusal :=
  let w := regWord s (0x00403000 + n * 0x10)
  let low := bitsOf w 22 0
  let high := max low (bitsOf w 54 32)
  if !serving s || !bitOf w 63 || (part? s n).isNone || !hostUsable s || decide (low ≤ dirFree s n) then done s s
  else done s (evictUntil n high (evictionOrder s n) s)

end Sys2Proof.Machine
end

