-- ==== Sys2Proof/Machine/Request.lean ====
section
/-!
DEFINITION. What every request of Table 4.1 meets before its own rules: teardown, drain and moves (R317, R321, R386),
the capacity floor (R427), the search of its sequence key (R86, R102), and the bodies of its refusals.
-/

namespace Sys2Proof.Machine

open Sys2Proof

/-- ID_CAPACITY.POOL_PAGES: pages of the pseudo-channels in service that are not retired (R420, R421). -/
def poolPages (s : State) : Nat :=
  let out := s.health.pcs.filter fun x => x.2.state == .retired
  768 * pcPages - out.length * pcPages -
    s.pages.countP fun x => x.2.use == .retired && !(out.any fun y => y.1 == pagePc x.1)

/-- A request that only reads its sequence (R317). -/
def readsOnly (op : Nat) : Bool := op = 1 ∨ op = 2 ∨ op = 3 ∨ op = 0x13 ∨ op = 0x22

/-- What the moves of the epoch in force say of a sequence that a request names (R317). -/
def moveStatus (s : State) (r : Req) (op seq : Nat) : Option Nat :=
  match s.epochs.moves.find? fun m => m.tenant == r.tenant && m.seqId == seq with
  | none => none
  | some m =>
    let here := r.epoch == s.epochs.current
    if m.movedIn then (if here then none else some stStaleMap)
    else if here then some stNotPermitted
    else if readsOnly op then none else some stStaleMap

/-- What the drain state of a leaving node says (R321). -/
def drainStatus (s : State) (p : Part) (r : Req) (op : Nat) (names : List Nat) : Option Nat :=
  if p.drain = 2 then some stStaleMap
  else if p.drain = 1 then
    if r.epoch = s.epochs.current then some stNotPermitted
    else if names.isEmpty || readsOnly op then none else some stStaleMap
  else none

/-- The SPEC flag is wrong for the opcode (R213); an ATT_DECODE decides it with its SPEC_TAG. -/
def specWrong (op : Nat) (spec : Bool) : Bool :=
  let only := op == 5 || op == 6 || op == 7
  (only && !spec) || (spec && !only && op != 1)

/-- The checks made before a request's own: the status that ends it, with STATUS_ARG. A confidential partition whose keys are
erased answers every request DATA_LOST (R394). -/
def gate (s : State) (n : Nat) (r : Req) (op : Nat) (names : List Nat) : Option (Nat × Nat) :=
  match part? s n with
  | none => some (stNotPermitted, 0)
  | some p =>
    if p.state = .teardown then some (stNotPermitted, 0)
    else if p.conf && s.cocoon.erased then some (stDataLost, 0)
    else if specWrong op r.spec then some (stFormat, 0)
    else match drainStatus s p r op names with
      | some st => some (st, 0)
      | none =>
        match names.filterMap (moveStatus s r op) with
        | st :: _ => some (st, 0)
        | [] =>
          if (op = 0x10 ∨ op = 0x12 ∨ op = 0x23) ∧ s.health.belowFloor then some (stBelowFloor, poolPages s)
          else if !names.isEmpty && (ownedPcs s n).isEmpty then some (stDataLost, 0)
          else none

/-- The body of a refusal whose key search has found descriptor `m`: SPEC_COMMIT and SPEC_ABORT give its TOKENS (R221). -/
def bodyAt (s : State) (op st m : Nat) : List Byte :=
  if op = 6 ∨ op = 7 then specBody st (match desc? s m with | some d => minTokens d | none => 0) 0
  else refusedBody op st

/-- Answers a status to a request whose key search has found descriptor `m`. -/
def answerAt (r : Req) (op m st arg : Nat) (s : State) : State := respond r op st arg (bodyAt s op st m) s

/-- The body of DATA_LOST with the recorded range, where the request's body defines one (R112, R357). -/
def lostBody (op a b : Nat) : List Byte :=
  if op = 0x01 ∨ op = 0x02 ∨ op = 0x03 then leBytes 16 stDataLost ++ leBytes 4 a ++ leBytes 4 b ++ zeroBytes 8
  else if op = 0x20 ∨ op = 0x21 then leBytes 8 stDataLost ++ leBytes 4 a ++ leBytes 4 b
  else refusedBody op stDataLost

/-- Answers DATA_LOST for a descriptor. -/
def answerLost (r : Req) (op m : Nat) (s : State) : State :=
  match desc? s m with
  | some d =>
    if op = 6 ∨ op = 7 then answerAt r op m stDataLost 0 s
    else respond r op stDataLost 0 (lostBody op d.lostFirst d.lostEnd) s
  | none => answer r op stDataLost 0 s

/-- The replica holds the descriptor (R406). -/
def replicaHolds (d : Desc) : Bool := d.repl.state == .sync && d.repl.node.isSome

/-- SEQ_UNAVAILABLE with the replica, or DATA_LOST where none holds it (Table 14.4). -/
def answerUnavailable (r : Req) (op m : Nat) (s : State) : State :=
  match desc? s m with
  | some d => if replicaHolds d then answerAt r op m stSeqUnavailable (d.repl.node.getD 0) s else answerLost r op m s
  | none => answer r op stDataLost 0 s

/-- What the search of a sequence key gives a request. -/
inductive Named where
  /-- the request is answered, or waits -/
  | ended (s : State)
  | found (mdb : Nat) (lc : Bool) (s : State)

/-- One search of a sequence key for a request (Table 3.6), with the outcomes of R86, R102, R404, R406 and R408. The
descriptor's LAST_USE is set and an expired tail dropped. -/
def nameSeq (r : Req) (op n seq lg : Nat) (s : State) : Named :=
  let key := seqKey r.tenant seq lg
  match findKey n key s with
  | (.broken, s1) => .ended (answer r op stDataLost 0 s1)
  | (.miss, s1) =>
    match restoreEvicted n key s1 with
    | (.status st, s2) => .ended (answer r op st 0 s2)
    | (.restored m, s2) =>
      .ended (stallOrRetry r op m none { s2 with fab := { s2.fab with demand := s2.fab.demand ++ [⟨m, []⟩] } })
  | (.hit m _ lc, s1) =>
    match desc? s1 m with
    | none => .ended (answer r op stDataLost 0 s1)
    | some d =>
      if d.replica then .ended (answerAt r op m stStaleMap 0 s1)
      else
        let s2 := updDesc m (fun d => { d with lastUse := s1.tb.now }) s1
        if d.declaredLost then .ended (answerLost r op m s2)
        else if d.failed then .ended (answerUnavailable r op m s2)
        else .found m lc (expireTail m r.arrival s2)

/-- Layer groups of a list of bytes are distinct. -/
def distinct (l : List Nat) : Bool := l.dedup.length == l.length

/-- Entries of some positions of a stream, each once: index in the chain. -/
def entriesOf (st : Stream) (ps : List Nat) : List Nat := (ps.map fun p => (placeIn st p).1).dedup

/-- The failed parts of a range that R406 leaves to PAGE_FETCH, and those already lost. -/
def entryState (s : State) (d : Desc) (e : PageEntry) : Bool × Bool := (e.fetching, (locOf s d e).lost)

end Sys2Proof.Machine
end

