-- ==== Sys2Proof/Machine/Commit.lean ====
section
/-!
DEFINITION. The commit point of an append and the publishing of closed pages (R62, R96, R115, R116), and the exponent tables
that coded data names (R173, R176, R177).
-/

namespace Sys2Proof.Machine

open Sys2Proof

/-! ### Publishing (R62, R96, R116) -/

/-- A closed page is published under a hash: insert-if-absent of its prefix key with PRI 4; without a free entry, with
the key there already, or where R61 prevents sharing, it stays unpublished. -/
def publishPage (m i j hash : Nat) (s : State) : State :=
  match desc? s m with
  | none => s
  | some d =>
    let key := prefixKey d.tenant hash
    let s := countOp d.part s
    if (dirSearch s d.part key).isSome || (lowestFreeAddr s d.part).isNone then s
    else match shareEntry m i j s with
      | none => s
      | some (k, s1) =>
        match dirInsert d.part key 4 k s1 with
        | some (_, s2) => s2
        | none => unref d.part k s1

/-- The pages of a layer's published streams that close in an append of positions [p0, p0 + count), with their hashes.
`old` gives the chain lengths before the append; the descriptor already holds its rows as uncommitted ones. -/
def closingPages (d : Desc) (old : List (Nat × Nat)) (p0 count : Nat) (hashes : List (Nat × Nat × Nat)) :
    List (Nat × Nat × Nat) :=
  hashes.filterMap fun h =>
    match d.streams[h.1]?, old.find? (fun x => x.1 == h.1) with
    | some st, some (_, len) =>
      if !st.publish then none
      else
        let js := (List.range st.entries.length).filter fun j =>
          let last := firstPosOf st j + (match st.entries[j]? with | some e => entryRows e | none => 0)
          last == h.2.1 &&
            (if fmtCoded st.fmt then decide (len ≤ j + 1) && decide (j + 1 < st.entries.length)
             else decide (p0 < last) && decide (last ≤ p0 + count) &&
               (match st.entries[j]? with | some e => entryRows e == st.tokPerPage | none => false))
        js.head?.map fun j => (h.1, j, h.2.2)
    | _, _ => none

/-- The commit point of a KV_APPEND: every stream of the layer takes its new TOKENS, and closed pages are published. -/
def commitAppend (m layer tokens : Nat) (pubs : List (Nat × Nat × Nat)) (s : State) : State :=
  match desc? s m with
  | none => s
  | some d =>
    let s1 := (layerStreams d layer).foldl (fun s i => settleStream m i tokens tokens s) s
    pubs.foldl (fun s x => publishPage m x.1 x.2.1 x.2.2 s) s1

/-! ### Tables (R176, R177) -/

/-- The newest table of a slot fits a coded format. -/
def tableFits (s : State) (n fmt slot : Nat) : Bool :=
  match (tableSlot s n slot).newest with
  | some (_, r) => recClass r == (if fmt = 3 then 1 else 0)
  | none => false

/-- The partition holds this record at this slot and generation (R177). -/
def sameTable (s : State) (n slot gen : Nat) (record : List Byte) : Bool := tableRec s n slot gen == some record

/-- The record that a page of a coded stream carries. -/
def pageTable (s : State) (d : Desc) (st : Stream) (e : PageEntry) : List Byte :=
  match excOf s st e with
  | some (k, g) => (tableRec s d.part k g).getD (zeroBytes 32)
  | none => []

end Sys2Proof.Machine
end

