-- ==== Sys2Proof/Machine/Conns.lean ====
section
/-!
DEFINITION. Connections (R278 to R284, R364): IDs, the three tiers of connection records, opening and closing, and the
quarantine.
-/

namespace Sys2Proof.Machine

open Sys2Proof

/-- A port runs in an Ethernet mode (Table 9.1). -/
def portEth (s : State) (p : Nat) : Bool := portMode s p == 1 || portMode s p == 2

/-! ### The tiers of connection records (R283, R284) -/

/-- Ones in the 64 bits of a way map. -/
def popcount (w : Nat) : Nat := (List.range 64).countP fun i => bitOf w i

/-- WAYS of a partition (VPORT_PCONN). -/
def waysOf (s : State) (n : Nat) : Nat := match part? s n with | some p => popcount p.wayMap | none => 0

/-- Records of a partition in one set of a die's on-chip cache. -/
def inSet (n home set : Nat) (x : Nat × Conn) : Bool :=
  x.2.part == n && x.2.home == home && x.1 % 256 == set && x.2.tier == .chip

/-- A message of the connection is open (R284). -/
def hasOpenMessage (c : Conn) : Bool := c.slots.any fun x => !x.2.done

def tierCount (s : State) (t : Tier) : Nat := s.fab.conns.countP fun x => x.2.tier == t

/-- Records that the backing tier holds (R283). -/
def backingMax : Nat := 3145728

/-- The least recently used of some connections, ties to the lowest ID. -/
def lruConn (l : List (Nat × Conn)) : Option Nat :=
  (l.foldl (fun (b : Option (Nat × Nat)) x => match b with
    | none => some (x.1, x.2.used)
    | some y => if x.2.used < y.2 then some (x.1, x.2.used) else b) none).map (·.1)

/-- The lowest slot of the spill area that holds no record. -/
def freeSpill (a : SpillArea) : Option Nat := (gapsFrom (1 + a.used.length) 1 0 a.records a.used).head?

/-- A slot of the spill area (R364): the record under AES-256-GCM, the nonce, the tag, zeros. What the 128 record bytes
hold is the node's own (free bytes, log 23). -/
def spillImage (s : State) (i : Nat) (a : SpillArea) : List Byte :=
  let nonce := leBytes 4 i ++ leBytes 8 a.writes
  let key := s.cocoon.spillKey.getD 0#256
  let body := gcmCrypt key nonce ((List.range 128).map fun k => Config.indeterminate (128 * a.writes + k))
  body ++ nonce ++ gcmTag key nonce [] body ++ zeroBytes 100

/-- A record of the backing tier goes to the host tier; none where no slot or no host is there. -/
def spillOne (cid : Nat) (s : State) : Option State :=
  match conn? s cid, s.host.spill with
  | some c, some a =>
    if !hostUsable s then none
    else match freeSpill a with
      | none => none
      | some i =>
        let s1 := hostWrite (a.base + 256 * i) (spillImage s i a)
          { s with host := { s.host with spill := some { a with used := i :: a.used, writes := a.writes + 1 } } }
        some (chargeHost c.part 256 (setConn cid { c with tier := .host, hostSlot := i } s1))
  | _, _ => none

/-- The backing tier has room for one more record, its least recently used one going to the host if need be. -/
def backingRoom (s : State) : Option State :=
  if tierCount s .backing < backingMax then some s
  else match lruConn (s.fab.conns.filter fun x => x.2.tier == .backing) with
    | some v => spillOne v s
    | none => none

/-- The on-chip cache has a way for a record: a free way of the partition, or one whose record goes (R284). -/
def chipRoom (n home set : Nat) (s : State) : Option State :=
  let mine := s.fab.conns.filter (inSet n home set)
  if mine.length < waysOf s n then some s
  else match lruConn (mine.filter fun x => !x.2.lc && !hasOpenMessage x.2) with
    | none => none
    | some v => (backingRoom s).map (updConn v fun c => { c with tier := .backing })

/-- A record leaves the host tier: its slot is free. -/
def leaveHostTier (c : Conn) (s : State) : State :=
  if c.tier = .host then
    { s with host := { s.host with spill := s.host.spill.map fun a => { a with used := a.used.filter (· != c.hostSlot) } } }
  else s

/-- The record of a connection comes on chip; none while its set has no way to give. -/
def fetchRecord (cid : Nat) (s : State) : Option State :=
  match conn? s cid with
  | none => some s
  | some c =>
    if c.tier = .chip then some s
    else match chipRoom c.part c.home (cid % 256) s with
      | none => none
      | some s1 =>
        let s2 := if c.tier = .host then chargeHost c.part 256 (hostCountRead 256 (leaveHostTier c s1)) else s1
        some (updConn cid (fun c => { c with tier := .chip, used := s.tb.now }) s2)

/-! ### Opening (R278 to R281) -/

/-- The die with the fewest open connections of the partition (R280). -/
def homeFor (s : State) (n : Nat) : Nat :=
  ([1, 2, 3].foldl (fun (b : Nat × Nat) d =>
    let k := s.fab.conns.countP fun x => x.2.part == n && x.2.home == d
    if k < b.2 then (d, k) else b) (0, s.fab.conns.countP fun x => x.2.part == n && x.2.home == 0)).1

/-- An LC connection with this ID would find a way with no pinned entry (R281). -/
def lcRoom (s : State) (n home cid : Nat) : Bool :=
  (s.fab.conns.filter fun x => inSet n home (cid % 256) x && x.2.lc).length < waysOf s n

/-- The lowest ID from `i` that R281 lets the node assign. -/
def idFrom (s : State) (n home : Nat) (lc : Bool) : Nat → Nat → Option Nat
  | 0, _ => none
  | fuel + 1, i =>
    if 16777216 ≤ i then none
    else if (conn? s i).isNone && !(s.fab.quarantine.any fun q => q.conn == i) && (!lc || lcRoom s n home i) then some i
    else idFrom s n home lc fuel (i + 1)

def newId (s : State) (n home : Nat) (lc : Bool) : Option Nat :=
  idFrom s n home lc 16777216 0

/-- Records of the three tiers together (R283). -/
def recordRoom (s : State) : Nat :=
  65536 + backingMax + (match s.host.spill with | some a => a.records | none => 0)

/-- Connections of a partition that are open. -/
def partConns (s : State) (n : Nat) : Nat := s.fab.conns.countP fun x => x.2.part == n

/-- The ID and home die of a new connection; none gives CONN_LIMIT (R279 outcome 4, R281, R283). -/
def placeConn (s : State) (n : Nat) (lc : Bool) : Option (Nat × Nat) :=
  let quota := match part? s n with | some p => p.connQuota | none => 0
  if 16777216 ≤ s.fab.conns.length ∨ quota ≤ partConns s n ∨ recordRoom s ≤ s.fab.conns.length then none
  else
    let home := homeFor s n
    (newId s n home lc).map fun i => (i, home)

/-- A new record takes its place: on chip where its set gives a way, else in the backing tier, else in the host tier. -/
def settleRecord (cid : Nat) (c : Conn) (s : State) : State :=
  match chipRoom c.part c.home (cid % 256) s with
  | some s1 => setConn cid { c with tier := .chip } s1
  | none =>
    match backingRoom s with
    | some s1 => setConn cid { c with tier := .backing } s1
    | none => setConn cid { c with tier := .backing } s

/-- The versions of Table 9.2, best first, with their bits. -/
def versionList : List (Nat × Nat × Nat) := [(34, 2, 2), (33, 2, 1), (32, 2, 0), (19, 1, 3)]

/-- VPORT_VERSION. -/
def versionSet : Nat := 0x0000000700080000

/-- The highest version in both offers (R264). -/
def commonVersion (offer : Nat) : Option (Nat × Nat) :=
  (versionList.find? fun v => bitOf offer v.1).map fun v => (v.2.1, v.2.2)

/-- A 32-bit value of the cocoon's DRBG (Table 9.8). -/
def draw32 (s : State) : Nat × State := let t := draw s; (t.1.toNat % 2 ^ 32, t.2)

/-- A single-packet message outside every window: CONN_ACCEPT or CONN_CLOSED (R278, R282). -/
def sendControl (port dst conn tenant typ : Nat) (ver : Nat × Nat) (body : List Byte) (part own : Option Nat)
    (key : Option (BitVec 256)) (s : State) : State :=
  enqueue port 1
    { hdr :=
        { verMajor := ver.1, verMinor := ver.2, typ := typ, length := body.length - 1, final := true, spec := false,
          lc := false, route := 0, tenant := tenant, epoch := s.epochs.current, src := nodeId s, dst := dst, hcrc := 0,
          ingressTs := 0, mseq := 0, word := 0, offset := body.length, conn := conn }
      payload := body, at_ := s.tb.now, second := secondPort s dst, own := own, part := part, key := key, msg := s.fab.nextMsg }
    { s with fab := { s.fab with nextMsg := s.fab.nextMsg + 1 } }

/-- The CONN_ACCEPT of an open connection (Table 9.8). -/
def acceptBody (c : Conn) (cid : Nat) : List Byte :=
  [0#8] ++ leBytes 1 (c.verMajor * 16 + c.verMinor) ++ leBytes 1 c.home ++ [0#8] ++ leBytes 4 cid ++
    leBytes 4 c.txStart ++ zeroBytes 4

/-- A CONN_ACCEPT that refuses: every field but STATUS is zero. -/
def acceptRefused (st : Nat) : List Byte := leBytes 16 st

/-- The active frond table gives the partition a slot. -/
def hasFronds (s : State) (n : Nat) : Bool :=
  s.fronds.activeValid && match (if s.fronds.activeBank = 0 then s.fronds.bank0 else s.fronds.bank1) with
    | some f => f.entries.any fun e => e.part == n
    | none => false

/-- Outcomes 1 to 3 of R279 for a CONN_OPEN body: a refusal, or the partition and the version. -/
def openOutcome (s : State) (port : Nat) (h : NativeHdr) (body : List Byte) : Except Nat (Nat × Nat × Nat) :=
  let flags := fieldAt body 0x10 1
  if body.length ≠ 24 ∨ !h.final ∨ h.offset ≠ 24 ∨ h.conn ≠ 0 ∨ h.mseq ≠ 0 ∨ fieldAt body 0xB 1 ≠ 0 ∨ 8 ≤ flags ∨
      !allZero (sliceBytes body 0x11 7) then .error stFormat
  else match partOfTenant s h.tenant with
    | none => .error stNotPermitted
    | some n =>
      let lc := bitOf flags 1
      let protect := bitOf flags 2
      let secret := match part? s n with | some p => p.connSecret.isSome | none => false
      if (lc && portEth s port) || (lc && !hasFronds s n) || (!protect && isConf s n) || (protect && portEth s port) ||
          (protect && !secret) then .error stNotPermitted
      else match commonVersion (fieldAt body 0 8) with
        | none => .error stFormat
        | some v => .ok (n, v.1, v.2)

/-- The record of a connection that this node accepts, from the CONN_OPEN's header and body (R278 to R280). -/
def acceptedConn (s : State) (port : Nat) (h : NativeHdr) (body : List Byte) (n major minor home tx : Nat) : Conn :=
  let flags := fieldAt body 0x10 1
  let start := fieldAt body 0xC 4
  { peer := h.src, tenant := h.tenant, part := n, peerConn := fieldAt body 8 3, verMajor := major, verMinor := minor,
    home := home, lc := bitOf flags 1, resend := bitOf flags 0, protect := bitOf flags 2, eth := portEth s port,
    port := port, openerStart := start, base := start, txStart := tx, txNext := tx, used := s.tb.now,
    master := if bitOf flags 2 then (part? s n).bind (·.connSecret) else none }

/-- CONN_OPEN after check 5: the acceptor's answer (R279), or the answer of the connection already open again. -/
def takeOpen (port : Nat) (h : NativeHdr) (body : List Byte) (s : State) : State :=
  let opener := fieldAt body 8 3
  let start := fieldAt body 0xC 4
  let again := s.fab.conns.find? fun x =>
    !x.2.own && x.2.peer == h.src && x.2.peerConn == opener && x.2.openerStart == start
  let refuseWith := fun (st : Nat) =>
    sendControl port h.src opener h.tenant 0xE1 (2, 2) (acceptRefused st) (partOfTenant s h.tenant) none none s
  match again with
  | some (cid, c) =>
    sendControl port h.src opener h.tenant 0xE1 (c.verMajor, c.verMinor) (acceptBody c cid) (some c.part) (some cid) none s
  | none =>
    match openOutcome s port h body with
    | .error st => refuseWith st
    | .ok (n, major, minor) =>
      match placeConn s n (bitOf (fieldAt body 0x10 1) 1) with
      | none => refuseWith stConnLimit
      | some (cid, home) =>
        let (tx, s1) := draw32 s
        let c := acceptedConn s port h body n major minor home tx
        sendControl port h.src opener h.tenant 0xE1 (major, minor) (acceptBody c cid) (some n) (some cid) none
          (settleRecord cid c s1)

/-! ### The node as opener (R278) -/

/-- The port by which the node reaches another one: that of its neighbour entry, else the lowest native port in
service. -/
def portTo (s : State) (node : Nat) : Option Nat :=
  match s.fab.neighbours.find? (fun x => x.1 == node) with
  | some x => some x.2.1
  | none => (List.range 8).find? fun p => portMode s p == 0 && (portOf s p).upA

/-- The node sends CONN_OPEN toward another node for a partition; its ID, or none where no ID or port is there. -/
def openTo (n node : Nat) (s : State) : Option (Nat × State) :=
  match part? s n, portTo s node, placeConn s n false with
  | some p, some port, some (cid, home) =>
    let (tx, s1) := draw32 s
    let protect := p.conf
    let body := leBytes 8 versionSet ++ leBytes 4 cid ++ leBytes 4 tx ++ leBytes 1 (1 + bnat protect * 4) ++ zeroBytes 7
    let m : TxMsg := ⟨0, 0xE0, 0, s.tb.now, 0, body, .opening, s.epochs.current, true⟩
    let c : Conn :=
      { peer := node, tenant := p.tenant, part := n, peerConn := 0, home := home, resend := true, protect := protect,
        eth := portEth s port, port := port, txStart := tx, txNext := tx, tx := [m], used := s.tb.now, opening := true,
        own := true }
    some (cid, transmitTx cid m false (settleRecord cid c s1))
  | _, _, _ => none

/-! ### Closing (R282) -/

/-- Open messages of a connection are discarded: window slots, requests that wait for their intake, stalled and held
requests (R282). -/
def discardMessages (cid : Nat) (c : Conn) (s : State) : State :=
  let mine : Req → Bool := fun r => match r.origin with | .fabric k _ _ => k == cid | _ => false
  let s1 := c.slots.foldl (fun s x => releaseSlotMem x.2 s) s
  let s2 := (s1.fab.ingress.filter fun x => mine x.2.2.2.2).foldl (fun s x => leaveIngress x.2.2.2.2 s) s1
  let due := s2.fab.freeDue.filter fun x => match x.1 with | .fabric k _ _ => k == cid | _ => false
  let s3 := (s2.fab.bodies.filter fun x => x.1 == cid).foldl (fun s x => releaseBody x.1 x.2.1 s)
    (due.foldl (fun s x => freeNoted x.1 s) s2)
  { s3 with fab :=
    { s3.fab with
      stalled := s3.fab.stalled.filter fun x => !mine x.req
      heldAppends := s3.fab.heldAppends.filter fun x => !mine x.req
      inboxDue := s3.fab.inboxDue.filter fun x => x.1 != cid } }

/-- The keys under which CONN_CLOSE comes and CONN_CLOSED leaves on a protected connection (R282, R285). -/
def closeKeys (s : State) (cid : Nat) (c : Conn) : Option (BitVec 256 × BitVec 256) :=
  let h := { connHdr s c 0xE2 with conn := cid }
  match rxKey s cid c h, txKey s cid c 0xE3 0 with
  | some a, some b => some (a, b)
  | _, _ => none

/-- A connection's state is freed in every tier and its ID goes to quarantine until `2 × (PLT + SKEW)` from now. -/
def freeConn (cid : Nat) (s : State) : State :=
  match conn? s cid with
  | none => s
  | some c =>
    let s1 := leaveHostTier c (discardMessages cid c s)
    { s1 with fab :=
      { s1.fab with
        conns := mdel s1.fab.conns cid
        quarantine := s1.fab.quarantine ++
          [⟨cid, c.peer, c.tenant, c.peerConn, s.tb.now + 2 * (pltNs s + skewNs s), c.part, c.verMajor, c.verMinor, closeKeys s cid c⟩] } }

/-- QUARANTINE_END: a closed ID may be assigned again (R282). -/
def execQuarantineEnd (cid : Nat) (s : State) : Host.Outcome State Fault Refusal :=
  if !serving s then done s s
  else done s { s with fab := { s.fab with
    quarantine := s.fab.quarantine.filter fun q => q.conn != cid || decide (s.tb.now < q.until_) } }

end Sys2Proof.Machine
end

