-- ==== Sys2Proof/Machine/Traffic.lean ====
section
/-!
DEFINITION. Policing, shaping, the choice of the next packet to send, and queue telemetry (chapter 11).
-/

namespace Sys2Proof.Machine

open Sys2Proof

/-! ### Policers (R330 to R333) -/

/-- The policer of a packet on a port (R330). -/
def policerIndex (s : State) (port : Nat) (h : NativeHdr) : Nat :=
  if 0xE0 ≤ h.typ ∧ h.typ ≤ 0xE3 then 129 * port + 128
  else match partOfTenant s h.tenant with
    | some n => 129 * port + 2 * n + bnat h.lc
    | none => 129 * port + 128

/-- Check 3 of Table 9.5: whether the packet conforms, with the policer's new tokens and counters (R332,
R333). -/
def police (port at_ : Nat) (h : NativeHdr) (s : State) : Bool × State :=
  let i := policerIndex s port h
  let b := bucketAt true (at_ / 1000) (policerOf s i)
  let l := policedLen h
  if !b.en || decide (l ≤ b.tokens) then
    (true, setPolicer i { b with tokens := if b.en then b.tokens - l else b.tokens,
                                 passBytes := sat64 (b.passBytes + l), passPkts := sat32 (b.passPkts + 1) } s)
  else
    (false, setPolicer i { b with dropPkts := sat32 (b.dropPkts + 1), dropBytes := sat64 (b.dropBytes + l) } s)

/-- POLICER_REFILL: the policers of an interval's start take their refills (R332). -/
def execPolicerRefill (s : State) : Host.Outcome State Fault Refusal :=
  if !serving s then done s s
  else done s { s with fab := { s.fab with
    policers := s.fab.policers.map fun x => (x.1, refillTo (s.tb.now / 1000) x.2) } }

/-- SHAPER_REFILL: the shapers take their refills (R336), and head packets that now conform stop waiting. -/
def execShaperRefill (s : State) : Host.Outcome State Fault Refusal :=
  if !serving s then done s s
  else
    let s1 : State := { s with fab := { s.fab with
      shapers := s.fab.shapers.map fun x => (x.1, refillTo (s.tb.now / 1000) x.2) } }
    done s (s1.fab.shapers.foldl (fun s x => noteWait (x.1 / 64) (x.1 % 64) s) s1)

/-- TC_CHANGE_APPLY: every completed change whose boundary has come takes effect (R337). -/
def execTcChangeApply (s : State) : Host.Outcome State Fault Refusal :=
  if !serving s then done s s
  else
    let k := s.tb.now / 1000
    done s { s with fab := { s.fab with
      policers := s.fab.policers.map fun x => (x.1, bucketAt true k x.2)
      shapers := s.fab.shapers.map fun x => (x.1, bucketAt false k x.2) } }

/-- A change of a unit completes now (R337): of several in one interval the last is applied. -/
def changeBucket (policer : Bool) (rate burst : Nat) (en tokInit : Bool) (now : Nat) (b : Bucket) : Bucket :=
  { bucketAt policer (now / 1000) b with change := some (rate, burst, en, tokInit, now) }

/-- The partition a policer serves; none for the control policer. -/
def policerPart (i : Nat) : Option Nat := if i % 129 = 128 then none else some (i % 129 / 2)

/-- TC_SET (Table 11.2): ARG0 UNIT, EN and TOK_INIT, ARG1 INDEX, ARG2 RATE, ARG3 BURST; from OPERATOR only
(Table 13.3). -/
def execTcSet (c : MgmtCmd) (s : State) : Host.Outcome State Fault Refusal :=
  let shaper := bitOf c.arg0 0
  let en := bitOf c.arg0 1
  let tok := bitOf c.arg0 2
  let known := match (if shaper then some (c.arg1 % 64) else policerPart c.arg1) with
    | some n => (part? s n).isSome
    | none => true
  mgmtCmd c (c.role == .operator) s
    (if 8 ≤ c.arg0 ∨ c.input ≠ [] ∨ (if shaper then 512 else 1032) ≤ c.arg1 ∨ 262144 ≤ c.arg2 ∨ 16777216 ≤ c.arg3 ∨
        (tok ∧ !shaper) then mgmtAnswer c stFormat 0 [] s
     else if !known then mgmtAnswer c stNotPermitted 0 [] s
     else if shaper then
       mgmtAnswer c stOk 0 [] (setShaper c.arg1 (changeBucket false c.arg2 c.arg3 en tok s.tb.now (shaperOf s c.arg1)) s)
     else mgmtAnswer c stOk 0 [] (setPolicer c.arg1 (changeBucket true c.arg2 c.arg3 en tok s.tb.now (policerOf s c.arg1)) s))

/-! ### Queue telemetry (R338 to R340) -/

def sampleNs (s : State) : Nat := min 1000 (max 1 (bitsOf (regWord s 0x018B0000) 10 1)) * 1000

/-- One record of the interval that ends, and the counts of the next one. -/
def sampleQueue (tStart : Nat) (en : Bool) (q : QTel) : QTel :=
  let r : QRec := ⟨tStart, q.depthStart, q.depthMax, q.arrBytes, q.depBytes, q.arrUnits, q.depUnits, q.delayMax⟩
  let next := { q with depthStart := q.depth, depthMax := q.depth, arrBytes := 0, depBytes := 0, arrUnits := 0,
                       depUnits := 0, delayMax := 0 }
  if en then
    { next with
      recs := mset q.recs q.head r
      head := (q.head + 1) % 32
      wrapped := q.wrapped || q.head == 31
      overwrites := if q.wrapped then sat32 (q.overwrites + 1) else q.overwrites }
  else next

/-- The numbers of all 784 sampled queues. -/
def allQueues : List Nat := List.range 784

/-- QUEUE_SAMPLE: the sampling interval that ends now is recorded for every queue (R339); with EN = 0 no record
is written (R340). -/
def execQueueSample (s : State) : Host.Outcome State Fault Refusal :=
  if !serving s then done s s
  else
    let p := sampleNs s
    let tStart := s.tb.now / p * p - p
    let en := bitOf (regWord s 0x018B0000) 0
    done s { s with fab := { s.fab with
      telemetry := allQueues.foldl (fun m g => mset m g (sampleQueue tStart en (mget {} m g))) s.fab.telemetry } }

/-! ### Choosing and sending a packet (R334 to R336) -/

/-- Bytes per nanosecond of a port at its present lanes (Table 1.5, R262). -/
def portRate (s : State) (port : Nat) : Nat :=
  if portMode s port = 2 then 100
  else if (portOf s port).lanes = 0xFF then 200 else 100

/-- The link of a packet is up: the port's first or, in mode 0b10, its second Ethernet port. -/
def linkUp (s : State) (port : Nat) (p : OutPkt) : Bool :=
  if portMode s port = 2 && p.second then (portOf s port).upB else (portOf s port).upA

/-- The node locked to the fabric's time runs its active frond table (R306). -/
def frondTable (s : State) : Option FrondTable :=
  if s.tb.locked && s.fronds.activeValid then
    if s.fronds.activeBank = 0 then s.fronds.bank0 else s.fronds.bank1
  else none

/-- The position of time `t` in a table's period, in ns, and the period's number. -/
def periodPos (f : FrondTable) (t : Nat) : Nat := (t - f.start) % (f.period * 100)
def periodNo (f : FrondTable) (t : Nat) : Nat := (t - f.start) / (f.period * 100)

/-- A run of an entry contains time `t` (R310). -/
def inRun (f : FrondTable) (e : FrondEntry) (t : Nat) : Bool :=
  decide (f.start ≤ t) && decide (e.first * 100 ≤ periodPos f t) && decide (periodPos f t < (e.first + e.len) * 100)

/-- The frond that owns a port's slot at time `t`. -/
def portOwner (s : State) (port t : Nat) : Option Nat :=
  match frondTable s with
  | none => none
  | some f => (f.entries.find? fun e => e.kind == 1 && e.index == port && inRun f e t).map (·.frond)

/-- Time from `t` to the start of the next owned slot of a port; none if it owns none. -/
def nextPortSlot (s : State) (port t : Nat) : Option Nat :=
  match frondTable s with
  | none => none
  | some f =>
    let pos := periodPos f t
    let starts := (f.entries.filter fun e => e.kind == 1 && e.index == port).flatMap fun e =>
      (List.range e.len).map fun i => (e.first + i) * 100
    let waits := starts.map fun x => if pos < x then x - pos else x + f.period * 100 - pos
    if f.start ≤ t then waits.foldl (fun m x => match m with | none => some x | some y => some (min x y)) none
    else none

/-- A packet of steps 2 to 4 ends before the next owned slot of the port begins (R335). -/
def fitsBeforeSlot (s : State) (port : Nat) (p : OutPkt) : Bool :=
  match nextPortSlot s port s.tb.now with
  | none => true
  | some w => decide (ceilDiv' (policedLen p.hdr + (if p.key.isSome then 16 else 0)) (portRate s port) ≤ w)

/-- The transmit association of an Ethernet port: the one installed last (log 22). -/
def txSak (s : State) (port eth : Nat) : Option (Nat × BitVec 256 × Nat × Nat × Nat) :=
  (s.fab.saks.find? fun x => x.1.1 == port && x.1.2.1 == eth && x.1.2.2.2 == false).map fun x => (x.1.2.2.1, x.2)

/-- The next-hop MAC of an Ethernet port and the neighbour's address are known, and a key protects the frame
(R276, R277); a native port needs none of it. -/
def canFrame (s : State) (port : Nat) (p : OutPkt) : Bool :=
  if portMode s port = 0 then true
  else
    let eth := if p.second then 1 else 0
    let hop := if p.second then (portOf s port).nextHopB else (portOf s port).nextHopA
    hop.isSome && (txSak s port eth).isSome && s.fab.neighbours.any fun x => x.1 == p.hdr.dst

/-- A packet may start now outside owned slots. -/
def mayStart (s : State) (port : Nat) (p : OutPkt) : Bool :=
  linkUp s port p && canFrame s port p && fitsBeforeSlot s port p

/-- The head packet of BE queue `2 + n` conforms to its shaper (R336). -/
def beConforms (s : State) (port n : Nat) (p : OutPkt) : Bool :=
  let b := bucketAt false (s.tb.now / 1000) (shaperOf s (64 * port + n))
  !b.en || decide (policedLen p.hdr ≤ b.tokens)

/-- The BE partitions in round-robin order after the one last served. -/
def beOrder (last : Nat) : List Nat := rotate (List.range 64) (last + 1)

/-- The queue and the place of the packet that the port sends next (R335). -/
def choosePacket (s : State) (port : Nat) : Option (Nat × Nat) :=
  let q0 := egressOf s (egressKey port 0)
  let owned := match portOwner s port s.tb.now with
    | none => none
    | some f =>
      let i := q0.findIdx fun p => p.frond == some f && linkUp s port p && canFrame s port p
      if i < q0.length then some (0, i) else none
  let headOk := fun (j : Nat) => match egressOf s (egressKey port j) with
    | p :: _ => mayStart s port p
    | [] => false
  match owned with
  | some x => some x
  | none =>
    if headOk 0 then some (0, 0)
    else if headOk 1 then some (1, 0)
    else firstSome (fun n => match egressOf s (egressKey port (2 + n)) with
      | p :: _ => if mayStart s port p && beConforms s port n p then some (2 + n, 0) else none
      | [] => none) (beOrder (portOf s port).lastBe)

/-- Places that became free in an egress queue are taken by waiting packets (R334). -/
def unblock (k : Nat) (s : State) : State :=
  match s.fab.blocked.find? (fun x => x.1 == k) with
  | none => s
  | some x =>
    if 256 ≤ (egressOf s k).length then s
    else enqueue (k / 66) (k % 66) x.2 { s with fab := { s.fab with blocked := s.fab.blocked.erase x } }

/-- Two queued packets belong to one message that has not been sent before. -/
def sameMessage (a b : OutPkt) : Bool := a.msg == b.msg && !a.stamped && !b.stamped

/-- The first transmission of a message stamps all its packets and the sender's record (R266, R288). -/
def stampMessage (p : OutPkt) (s : State) : State :=
  if p.stamped then s
  else
    let ts := s.tb.now % 2 ^ 32
    let mark := fun (q : OutPkt) =>
      if sameMessage p q then { q with stamped := true, hdr := { q.hdr with ingressTs := ts } } else q
    let s1 := { s with fab := { s.fab with
      egress := s.fab.egress.map (fun x => (x.1, x.2.map mark))
      blocked := s.fab.blocked.map fun x => (x.1, mark x.2) } }
    match p.own with
    | none => s1
    | some cid =>
      if p.hdr.typ < 128 ∨ p.hdr.typ = 0xE0 ∨ p.hdr.typ = 0xE2 then
        updConn cid (fun c => { c with tx := c.tx.map fun m =>
          if m.mseq = p.hdr.mseq ∧ decide (128 ≤ m.typ) = decide (128 ≤ p.hdr.typ) then { m with ingressTs := ts, lastTx := s.tb.now } else m }) s1
      else s1

/-- The one's complement sum of RFC 1071 over bytes, as 16-bit words in network order. -/
def onesSum : Nat → List Byte → Nat
  | acc, a :: b :: rest => onesSum (acc + a.toNat * 256 + b.toNat) rest
  | acc, [a] => acc + a.toNat * 256
  | acc, [] => acc

/-- A sum of 16-bit words with its carries folded in. -/
def foldCarry (n : Nat) : Nat := let k := n % 65536 + n / 65536; k % 65536 + k / 65536

/-- The UDP checksum over IPv6 (RFC 8200): pseudo-header, UDP header with the checksum as zero, data; a result of zero is sent as all
ones. -/
def udpChecksum (src dst sport dport : Nat) (data : List Byte) : Nat :=
  let len := 8 + data.length
  let words := beBytes 16 src ++ beBytes 16 dst ++ beBytes 4 len ++ beBytes 4 17 ++ beBytes 2 sport ++ beBytes 2 dport ++
    beBytes 2 len ++ zeroBytes 2 ++ data
  let c := 65535 - foldCarry (onesSum 0 words)
  if c = 0 then 65535 else c

/-- The IPv6 packet of a frame with the header bytes and payload as they leave (Table 9.6). -/
def ipv6Packet (e : EthOut) (data : List Byte) : List Byte :=
  beBytes 4 (6 * 2 ^ 28 + e.trafficClass * 2 ^ 20 + e.flowLabel) ++ beBytes 2 (8 + data.length) ++ beBytes 1 e.nextHeader ++
    beBytes 1 e.hopLimit ++ beBytes 16 e.srcAddr ++ beBytes 16 e.dstAddr ++ beBytes 2 e.srcPort ++ beBytes 2 e.dstPort ++
    beBytes 2 (8 + data.length) ++ beBytes 2 e.udpChecksum ++ data

/-- The associated data of the frame: both addresses, the EtherType and the SecTAG, as IEEE 802.1AE orders them (PRESUMED, log 82). -/
def macsecAad (e : EthOut) : List Byte :=
  beBytes 6 e.dstMac ++ beBytes 6 e.srcMac ++ beBytes 2 e.etherType ++
    beBytes 1 (bnat e.sc * 0x20 + bnat e.enc * 8 + bnat e.chg * 4 + e.association) ++ beBytes 1 e.shortLen ++
    beBytes 4 (e.pn % 2 ^ 32) ++ beBytes 8 e.sci

/-- The nonce of GCM-AES-256-XPN: SSCI and packet number under the salt (IEEE 802.1AEbw; PRESUMED, log 82). -/
def xpnNonce (salt ssci pn : Nat) : List Byte := xorBytes (leBytes 12 salt) (beBytes 4 ssci ++ beBytes 8 pn)

/-- The outer frame of a packet in Ethernet mode (Table 9.6); `data`: the Vanges header and payload. -/
def ethOut (s : State) (port : Nat) (p : OutPkt) (data : List Byte) : Option EthOut :=
  let eth := bnat p.second
  let base := 0x01000000 + port / 2 * 0x100000 + port % 2 * 0x100
  match txSak s port eth, s.fab.neighbours.find? (fun x => x.1 == p.hdr.dst) with
  | some (an, key, salt, ssci, _), some nb =>
    let srcMac := regWord s (base + (if p.second then 0x28 else 0x20))
    let srcAddr := regWord s (base + (if p.second then 0x40 else 0x30)) +
      regWord s (base + (if p.second then 0x48 else 0x38)) * 2 ^ 64
    let srcPort := 0xC000 + p.hdr.route * 4096 + p.hdr.conn % 4096
    let dstPort := bitsOf (regWord s 0x01000850) 15 0
    let e : EthOut :=
      { dstMac := ((if p.second then (portOf s port).nextHopB else (portOf s port).nextHopA).getD 0)
        srcMac := srcMac
        association := an
        pn := mget 0 s.fab.txPn (2 * port + eth) + 1
        sci := srcMac * 65536 + 1
        trafficClass := bitsOf (regWord s 0x01000850) 21 16 * 4
        flowLabel := p.hdr.route * 2 ^ 18 + p.hdr.conn % 2 ^ 18
        srcAddr := srcAddr
        dstAddr := nb.2.2.2
        srcPort := srcPort
        dstPort := dstPort
        udpChecksum := udpChecksum srcAddr nb.2.2.2 srcPort dstPort data }
    let iv := xpnNonce salt ssci e.pn
    let secure := gcmCrypt key iv (beBytes 2 e.innerType ++ ipv6Packet e data)
    some { e with secure := secure, icv := gcmTag key iv (macsecAad e) secure }
  | _, _ => none

/-- A packet leaves: its header check, its encryption and tag, the port's counters, telemetry, tokens and
charges. -/
def transmit (port j : Nat) (p : OutPkt) (s : State) : State :=
  let h0 := if p.stamped then p.hdr else { p.hdr with ingressTs := s.tb.now % 2 ^ 32 }
  let h := { h0 with hcrc := hcrcOf h0 }
  let body := match p.key with | some k => gcmCrypt k (gcmNonce h) p.payload | none => p.payload
  let tag := match p.key with | some k => gcmTag k (gcmNonce h) (headerBytes0 h) body | none => []
  let eth := if portMode s port = 0 then none else ethOut s port p (headerBytesWith h h.hcrc ++ body)
  let s1 := updTel (egressTel port j) (qDepart (policedLen h) (s.tb.now - p.at_)) (stampMessage p s)
  let s2 := updPort port (fun x =>
    { x with
      txPkts := sat64 (x.txPkts + 1)
      lastBe := if 2 ≤ j then j - 2 else x.lastBe
      wire := some (j, h, body, tag)
      wireEth := eth }) s1
  let s3 := match eth with
    | some e => { s2 with fab := { s2.fab with txPn := mset s2.fab.txPn (2 * port + bnat p.second) e.pn } }
    | none => s2
  let s4 := match p.part with
    | some n => chargeAt n s.tb.now (fun c => { c with txBytes := sat64 (c.txBytes + p.payload.length) }) s3
    | none => s3
  if 2 ≤ j then
    let i := 64 * port + (j - 2)
    let b := bucketAt false (s.tb.now / 1000) (shaperOf s4 i)
    noteWait port (j - 2) (setShaper i
      { b with tokens := if b.en then b.tokens - policedLen h else b.tokens,
               sentBytes := sat64 (b.sentBytes + policedLen h) } s4)
  else s4

/-- The PLT of a packet's message has run out since its first transmission: no copy of it may be sent any more (R288). -/
def deadPacket (s : State) (p : OutPkt) : Bool :=
  p.stamped && decide (pltNs s ≤ (s.tb.now + 2 ^ 32 - p.hdr.ingressTs) % 2 ^ 32)

/-- Packets that may not be sent any more leave egress queue `j` of a port, and waiting packets take their places; telemetry counts
them as departures (DESIGN CHOICE, log 87). -/
def dropDead (port j : Nat) (s : State) : State :=
  let k := egressKey port j
  let dead := (egressOf s k).filter (deadPacket s)
  if dead.isEmpty then s
  else dead.foldl (fun s p => unblock k (updTel (egressTel port j) (qDepart (policedLen p.hdr) (s.tb.now - p.at_)) s))
    (setEgress k ((egressOf s k).filter fun p => !deadPacket s p) s)

/-- No packet of a port that may not be sent any more is left, queued or waiting. -/
def dropDeadPackets (port : Nat) (s : State) : State :=
  (List.range 66).foldl (fun s j => dropDead port j s)
    { s with fab := { s.fab with blocked := s.fab.blocked.filter fun x => x.1 / 66 != port || !deadPacket s x.2 } }

/-- PORT_TRANSMIT: at a packet boundary the port chooses its next packet and sends it; with none that qualifies
it idles (R335). -/
def execPortTransmit (port : Nat) (s : State) : Host.Outcome State Fault Refusal :=
  if !serving s || portMode s port = 3 then done s s
  else
    let t := dropDeadPackets port s
    match choosePacket t port with
    | none => done s t
    | some (j, i) =>
      let k := egressKey port j
      let q := egressOf t k
      match q[i]? with
      | none => done s t
      | some p => done s (unblock k (transmit port j p (setEgress k (q.eraseIdx i) t)))

end Sys2Proof.Machine
end

