-- ==== Sys2Proof/Machine/Ingress.lean ====
section
/-!
DEFINITION. The receiving side of the fabric (R265 to R274, R286 to R296, R311, R316): the ingress checks, the window and
the reassembly of messages, writes of remote memory, and the start of a completed request.
-/

namespace Sys2Proof.Machine

open Sys2Proof

/-! ### Buffers (R292 to R296) -/

def bufOf (s : State) (i : Nat) : Buf := mget {} s.fab.bufs i
def setBuf (i : Nat) (b : Buf) (s : State) : State := { s with fab := { s.fab with bufs := mset s.fab.bufs i b } }

def bufIndex (h : NativeHdr) : Nat := h.word % 2 ^ 24
def bufGen (h : NativeHdr) : Nat := h.word / 2 ^ 24
def rmaType (t : Nat) : Bool := t == 0x40 || t == 0x41 || t == 0x42
def rmaWriteType (t : Nat) : Bool := t == 0x40 || t == 0x42

/-- What the buffer word of an RMA packet fails with (R294): the status and its STATUS_ARG. `need` is the least TOTAL
that the packet shows. -/
def bufferCheck (s : State) (n typ index gen need : Nat) : Option (Nat × Nat) :=
  if 1048576 ≤ index then some (stFormat, 0)
  else
    let b := bufOf s index
    let permitted := if rmaWriteType typ then b.write else b.read
    if b.state ≠ .valid ∨ b.part ≠ n ∨ !permitted ∨ b.length < need then some (stNotPermitted, 0)
    else if b.gen.getD 0 ≠ gen then some (stStaleBuffer, b.gen.getD 0)
    else none

/-- The least TOTAL that a packet of an RMA write shows. -/
def shownTotal (h : NativeHdr) : Nat :=
  if h.typ = 0x41 then 0 else if h.final then h.offset else 2048 * (h.offset / 2048 + 1) + 1

/-- `n` bytes at offset `off` of a region backed by pages. -/
def backedRead (s : State) (pages : List Nat) (off n : Nat) : List Byte :=
  let first := off / pageSize
  let last := (off + n + pageSize - 1) / pageSize
  (((List.range (last - first)).flatMap fun i =>
    match pages[first + i]? with
    | some p => hbmRead s (pageAddr p) pageSize
    | none => zeroBytes pageSize).drop (off - first * pageSize)).take n

/-- Bytes written at offset `off` of a region backed by pages, piece by piece. -/
def backedWrite (pages : List Nat) : Nat → Nat → List Byte → State → State
  | 0, _, _, s => s
  | fuel + 1, off, bs, s =>
    if bs.isEmpty then s
    else
      let room := pageSize - off % pageSize
      let s1 := match backedAddr pages off with
        | some a => hbmWrite a (bs.take room) s
        | none => s
      backedWrite pages fuel (off + room) (bs.drop room) s1

/-- Bytes of an RMA write enter the buffer; the node issues no request to a host that it cannot reach (log 24). -/
def bufferWrite (index off : Nat) (bs : List Byte) (s : State) : State :=
  let b := bufOf s index
  if b.hbm then backedWrite b.pages (bs.length / pageSize + 2) off bs s
  else if hostUsable s then chargeHost b.part bs.length (hostWrite (b.base + off) bs s)
  else s

/-- Bytes of a buffer; those of a host that cannot be reached are free values (log 24). -/
def bufferRead (index off n : Nat) (s : State) : List Byte × State :=
  let b := bufOf s index
  if b.hbm then (backedRead s b.pages off n, chargeReads b.part n s)
  else if hostUsable s then (hostRead s (b.base + off) n, chargeHost b.part n (hostCountRead n s))
  else
    let t := freeTick s
    ((List.range n).map fun i => Config.indeterminate (2 ^ 40 * t.1 + i), t.2)

/-- RMA_WRITE: a cell that is not the last one enters the buffer when it arrives (R287). -/
def storeCell (h : NativeHdr) (payload : List Byte) (s : State) : State :=
  bufferWrite (bufIndex h) (h.offset / 2048 * 2048) payload s

/-! ### Checks 1 to 5 of Table 9.5 -/

/-- TYPE is no reserved value of 0x80 or above (R268). -/
def knownType (t : Nat) : Bool :=
  t < 0x80 || (0x81 ≤ t && t ≤ 0x87) || (0x90 ≤ t && t ≤ 0x93) || (0xA0 ≤ t && t ≤ 0xA3) || t == 0xB0 || t == 0xC1 ||
    t == 0xC2 || (0xE0 ≤ t && t ≤ 0xE3)

/-- A packet of a protected connection carries a GCM tag (R285); CONN_OPEN and CONN_ACCEPT carry none. That of a connection which
is no longer open, or was never there, comes to check 6 with it. -/
def tagged (s : State) (h : NativeHdr) : Bool :=
  h.typ ≠ 0xE0 && h.typ ≠ 0xE1 && match conn? s h.conn with
    | some c => c.protect
    | none => true

/-- Check 1: the link's own checks and, in Ethernet mode, MACsec, UDP and the frame rules of R276. -/
def linkCheck (s : State) (port : Nat) (p : Packet) : Bool :=
  p.linkGood && (portMode s port == 0 || match p.eth with
    | none => false
    | some e =>
      let base := 0x01000000 + port / 2 * 0x100000 + port % 2 * 0x100
      let mac := regWord s (base + (if e.portB then 0x28 else 0x20))
      e.macsecGood && !e.extensionOrFragment && e.udpChecksumGood &&
        e.udpPort == bitsOf (regWord s 0x01000850) 15 0 && e.dstMac == mac &&
        s.fab.saks.any fun x => x.1.1 == port && x.1.2.1 == bnat e.portB && x.1.2.2.2)

/-- The die on which checks 5 onward run (R274). -/
def homeDie (s : State) (port : Nat) (h : NativeHdr) : Nat :=
  if h.typ = 0xE0 then port / 2
  else match conn? s h.conn with
    | some c => c.home
    | none => port / 2

/-- Age of a packet (R288). -/
def ageOf (at_ : Nat) (h : NativeHdr) : Nat := (at_ % 2 ^ 32 + 2 ^ 32 - h.ingressTs) % 2 ^ 32
def alive (s : State) (at_ : Nat) (h : NativeHdr) : Bool :=
  ageOf at_ h < pltNs s + skewNs s || 2 ^ 32 - skewNs s ≤ ageOf at_ h

def dropHcrc (d : Nat) (s : State) : State := updNetDie d (fun x => { x with hcrc := sat32 (x.hcrc + 1) }) s
def dropUnknown (d : Nat) (s : State) : State := updNetDie d (fun x => { x with unknown := sat32 (x.unknown + 1) }) s
def dropLifetime (d : Nat) (s : State) : State := updNetDie d (fun x => { x with lifetime := sat32 (x.lifetime + 1) }) s
def dropAuth (d : Nat) (s : State) : State := updNetDie d (fun x => { x with auth := sat32 (x.auth + 1) }) s
def countWindow (d : Nat) (s : State) : State := updNetDie d (fun x => { x with window := sat32 (x.window + 1) }) s
def dropNores (d : Nat) (s : State) : State := updNetDie d (fun x => { x with nores := sat32 (x.nores + 1) }) s

/-- Checks 1 to 5: whether the packet passes, and the state with its counters. -/
def frontChecks (port at_ : Nat) (p : Packet) (s : State) : Bool × State :=
  let die := port / 2
  let h := p.hdr
  let s0 := updPort port (fun x => { x with rxPkts := sat64 (x.rxPkts + 1) }) (touch at_ s)
  if !linkCheck s0 port p then (false, dropHcrc die s0)
  else if h.hcrc ≠ hcrcOf h ∨ p.payload.length ≠ h.length + 1 ∨ (p.tag ≠ [] ∧ !tagged s0 h) then (false, dropHcrc die s0)
  else match police port at_ h s0 with
    | (false, s1) => (false, s1)
    | (true, s1) =>
      if h.dst ≠ nodeId s ∨ !knownType h.typ then (false, dropUnknown die s1)
      else if !alive s at_ h then (false, dropLifetime (homeDie s port h) s1)
      else (true, s1)

/-! ### Checks 6 and 7 -/

/-- What checks 6 and 7 make of a packet. -/
inductive ConnCheck where
  | stop (s : State)
  /-- the plain payload -/
  | pass (payload : List Byte) (s : State)

/-- Check 7: the tag of a protected connection (R285), and the plain payload. -/
def authCheck (cid : Nat) (c : Conn) (p : Packet) (s : State) : ConnCheck :=
  let h := p.hdr
  if !c.protect ∨ h.typ = 0xE1 then .pass p.payload s
  else match rxKey s cid c h with
    | none => .pass p.payload s
    | some k =>
      if p.tag = gcmTag k (gcmNonce h) (headerBytes0 h) p.payload then .pass (gcmCrypt k (gcmNonce h) p.payload) s
      else .stop (dropAuth c.home s)

/-- The connection that check 6 finds for a packet. -/
def checkSix (s : State) (port : Nat) (h : NativeHdr) : Option Conn :=
  match conn? s h.conn with
  | none => none
  | some c =>
    if c.peer = h.src ∧ c.tenant = h.tenant ∧ c.eth = portEth s port ∧ c.opening = (h.typ == 0xE1) then some c else none

/-- Checks 6 and 7 for a packet other than CONN_OPEN; a packet whose record is not on chip waits for it (R284). -/
def connChecks (port at_ : Nat) (p : Packet) (s : State) : ConnCheck :=
  let h := p.hdr
  match conn? s h.conn with
  | none => .stop (dropUnknown (port / 2) s)
  | some c0 =>
    if c0.tier ≠ .chip then
      if 1024 ≤ (netDie s c0.home).missQueue.length then .stop (dropNores c0.home s)
      else .stop (updNetDie c0.home (fun x => { x with missQueue := x.missQueue ++ [(port, at_, p)] }) s)
    else match checkSix s port h with
      | none => .stop (dropUnknown c0.home s)
      | some c =>
        match authCheck h.conn c p s with
        | .stop s1 => .stop s1
        | .pass body s1 =>
          .pass body (updConn h.conn (fun c => { c with used := s.tb.now })
            (chargeAt c.part at_ (fun x => { x with rxBytes := sat64 (x.rxBytes + body.length) }) s1))

/-! ### Check 8 and check 11 -/

/-- A reserved encoding of a request header under the connection's version (R106, R213, R265, R268, Table 9.2). -/
def requestType (t : Nat) : Bool :=
  (1 ≤ t && t ≤ 7) || (0x10 ≤ t && t ≤ 0x13) || (0x20 ≤ t && t ≤ 0x23) || t == 0x30 || rmaType t
def specOnly (t : Nat) : Bool := t == 5 || t == 6 || t == 7
def reservedHeader (c : Conn) (h : NativeHdr) : Bool :=
  let v13 := c.verMajor == 1
  let below21 := c.verMajor < 2 || (c.verMajor == 2 && c.verMinor == 0)
  !requestType h.typ || (below21 && h.route != 0) || (v13 && (h.spec || specOnly h.typ || h.typ == 0x13))
def badSpec (h : NativeHdr) : Bool := (specOnly h.typ && !h.spec) || (h.spec && !specOnly h.typ && h.typ != 1)

/-- Epoch `a` is newer than `b` (R315). -/
def newerEpoch (a b : Nat) : Bool :=
  let d := (a + 65536 - b) % 65536
  0 < d && d < 32768

/-- What Table 10.4 says of a request's epoch. -/
inductive EpochOutcome where
  | accepted
  | held
  | stale
  deriving DecidableEq, Repr

def epochRule (s : State) (e arrival : Nat) : EpochOutcome :=
  let g := s.epochs
  if !g.mapped then .stale
  else if e = g.current then .accepted
  else if e = g.previous ∧ g.graceStart ≤ arrival ∧ arrival < g.graceEnd.getD 0 then .accepted
  else if newerEpoch e g.current then .held
  else .stale

/-- Slots of a die's connections that wait for a newer epoch. -/
def heldOn (s : State) (die : Nat) : Nat :=
  ((s.fab.conns.filter fun x => x.2.home == die).map fun x => x.2.slots.countP fun y => y.2.waiting).sum

/-- Check 11 at the packet that opens a message: the status it fails with, or whether the message is held. -/
def openingCheck (s : State) (port : Nat) (c : Conn) (h : NativeHdr) (arrival : Nat) : Except Nat Bool :=
  if reservedHeader c h then .error stFormat
  else if h.lc && (!c.lc || portMode s port != 0) then .error stNotPermitted
  else if badSpec h then .error stFormat
  else match epochRule s h.epoch arrival with
    | .accepted => .ok false
    | .stale => .error stStaleMap
    | .held => if 1024 ≤ heldOn s c.home then .error stNotPermitted else .ok true

/-! ### Reassembly (R269 to R273) -/

/-- Every header field that the packets of a message share agrees (R270). -/
def sameHeader (a b : NativeHdr) : Bool :=
  a.verMajor == b.verMajor && a.verMinor == b.verMinor && a.tenant == b.tenant && a.epoch == b.epoch && a.src == b.src &&
    a.dst == b.dst && a.ingressTs == b.ingressTs && a.mseq == b.mseq && a.conn == b.conn && a.lc == b.lc &&
    a.spec == b.spec && a.word == b.word && (if rmaWriteType a.typ then rmaWriteType b.typ else a.typ == b.typ)

/-- The cell of a packet and those already received keep R269 to R271; `total` is what is then known of TOTAL. -/
def shapeOk (sl : Slot) (h : NativeHdr) (len : Nat) (total : Option Nat) : Bool :=
  let ks := (sl.cells.map (·.1)).filter fun k => match sl.total with | some t => k + 1 != cellCount t | none => true
  let ks := if h.final then ks else cellIndex h :: ks
  (h.typ != 0x40 || !h.final) && (h.typ != 0x42 || h.final) &&
  (if h.final then 1 ≤ h.offset && (match sl.total with | some t => t == h.offset | none => true) &&
      len + 2048 * (cellCount h.offset - 1) == h.offset
    else h.offset % 2048 == 0 && len == 2048) &&
  (rmaWriteType h.typ || (if h.final then h.offset ≤ 2 ^ 33 else h.offset + 2048 < 2 ^ 33)) &&
  (match total with | some t => ks.all fun k => k + 1 < cellCount t | none => true)

/-- Cells of a slot that lie in the reassembly store of the home die. -/
def storeCells (sl : Slot) : Nat :=
  if sl.done then 0
  else if sl.large || rmaWriteType sl.first.typ then
    (match sl.total with | some t => bnat (sl.cells.any fun x => x.1 + 1 == cellCount t) | none => 0)
  else sl.cells.length

/-- Cells used in a die's store. -/
def storeUsed (s : State) (die : Nat) : Nat :=
  ((s.fab.conns.filter fun x => x.2.home == die).map fun x => (x.2.slots.map fun y => storeCells y.2).sum).sum

/-- Takes the pages of the 64 KiB ranges that are touched and have none yet. -/
def takeBodyPages (n : Nat) : List Nat → List (Nat × Nat) → State → Option (List (Nat × Nat) × State)
  | [], ps, s => some (ps, s)
  | j :: js, ps, s =>
    if ps.any (fun x => x.1 == j) then takeBodyPages n js ps s
    else match allocPage n j none s with
      | none => none
      | some (p, s1) => takeBodyPages n js (ps ++ [(j, p)]) s1

/-- What storing a cell needs (R273): the slot with its pages and MDBs, or a full store, or POOL_FULL. -/
inductive Room where
  | ok (sl : Slot) (s : State)
  | storeFull
  | poolFull

def makeRoom (c : Conn) (sl : Slot) (h : NativeHdr) (total : Option Nat) (s : State) : Room :=
  let write := rmaWriteType h.typ
  let old := (sl.cells.map (·.1)).filter fun k => match sl.total with | some t => k + 1 != cellCount t | none => true
  let ks := if h.final then old else old ++ [cellIndex h]
  let size := max (total.getD 0) (ks.foldl (fun m k => max m ((k + 1) * 2048 + 1)) 0)
  let big := !write && decide (16384 < size)
  let sl1 := { sl with large := sl.large || big }
  let used := storeUsed s c.home - storeCells sl + storeCells sl1
  if (h.final || !(big || write)) && decide (8192 ≤ used) then .storeFull
  else if !big then .ok sl1 s
  else match takeBodyPages c.part (ks.map fun k => k * 2048 / 65536) sl1.pages s with
    | none => .poolFull
    | some (ps, s1) =>
      -- one bit per cell, the FINAL one included
      let covered := (sl.cells.map (·.1)) ++ [cellIndex h]
      let need := if 65536 < size then ((covered.map fun k => k / 4096).dedup).length - sl1.mdbs.length else 0
      match allocOtherMdbs c.part need s1 with
      | none => .poolFull
      | some (ms, s2) => .ok { sl1 with pages := ps, mdbs := sl1.mdbs ++ ms } s2

/-- Every cell of a slot has arrived. -/
def slotComplete (sl : Slot) : Bool := match sl.total with | some t => sl.cells.length == cellCount t | none => false

/-- The body of a complete slot. -/
def slotBody (sl : Slot) : List Byte := sl.cells.flatMap (·.2)

/-! ### LC admission (R311) -/

/-- The start of a run of an entry in the occurrence of period `k` (R310). -/
def runStart (f : FrondTable) (adm e : FrondEntry) (k : Nat) : Nat :=
  f.start + ((if adm.first ≤ e.first then k else k + 1) * f.period + e.first) * 100

/-- The admission windows of a connection that contain time `a` and are not taken, by frond number. -/
def admissionOf (s : State) (cid a : Nat) : Option (FrondTable × FrondEntry × Nat) :=
  match frondTable s with
  | none => none
  | some f =>
    let k := periodNo f a
    let ok := f.entries.filter fun e =>
      e.kind == 2 && e.conn == cid && inRun f e a && !(s.fronds.taken.any fun t => t.1 == e.frond && t.2.1 == k)
    (ok.foldl (fun (b : Option FrondEntry) e => match b with
      | none => some e
      | some x => if e.frond < x.frond then some e else b) none).map fun e => (f, e, k)

/-- Admits an LC request that completes now: the frond and period it owns (R311). -/
def frondAdmit (s : State) (cid a : Nat) : Option (Nat × Nat) :=
  match admissionOf s cid a with
  | none => none
  | some (f, adm, k) =>
    let late := f.entries.any fun e => e.kind == 0 && e.frond == adm.frond && decide (runStart f adm e k ≤ s.tb.now)
    if late then none else some (adm.frond, k)

/-! ### Completion (R286) -/

def ingressCount (s : State) (die n : Nat) : Nat := s.fab.ingress.countP fun x => x.1 == die && x.2.1 == n

/-- A request's operation is charged at its arrival (R323). -/
def chargeOp (n typ arrival : Nat) (s : State) : State :=
  chargeAt n arrival (fun c =>
    if typ = 1 ∨ typ = 2 ∨ typ = 3 ∨ typ = 0x30 then { c with attOps := sat64 (c.attOps + 1) }
    else { c with otherOps := sat64 (c.otherOps + 1) }) s

/-- The slot of a request that starts: done, with status 0xFE while it executes (R290); pages of a large body stay until
the response. -/
def startSlot (cid mseq : Nat) (sl : Slot) (s : State) : State :=
  let sl' := { sl with done := true, status := 0xFE, cells := [], pages := [], mdbs := [], waiting := false }
  updConn cid (fun c => { c with slots := mset c.slots mseq sl' })
    { s with fab :=
      { s.fab with
        bodies := if sl.pages.isEmpty && sl.mdbs.isEmpty then s.fab.bodies
                  else s.fab.bodies ++ [(cid, mseq, sl.pages.map (·.2), sl.mdbs)] } }

/-- A completed request other than an RMA write enters its ingress queue (R338), an LC one only if a frond takes it. -/
def startRequest (cid mseq : Nat) (c : Conn) (sl : Slot) (s : State) : State :=
  let h := sl.first
  let r : Req := ⟨.fabric cid mseq sl.port, h.tenant, h.epoch, h.lc, h.spec, sl.arrival, slotBody sl⟩
  let s1 := chargeOp c.part h.typ sl.arrival s
  let enter := fun (s : State) =>
    let s2 := startSlot cid mseq sl s
    noteFreeOf r c.part (updTel (ingressTel c.home c.part) (qArrive r.body.length)
      { s2 with fab := { s2.fab with ingress := s2.fab.ingress ++ [(c.home, c.part, h.typ, sl.arrival, r)] } })
  if !h.lc then enter s1
  else match frondAdmit s cid sl.arrival with
    | some (f, k) => enter { s1 with fronds := { s1.fronds with taken := s1.fronds.taken ++ [(f, k, cid, mseq)] } }
    | none =>
      failSlot cid mseq sl.port h stScheduleFault 0 r.body
        { s1 with fronds := { s1.fronds with refused := sat32 (s1.fronds.refused + 1) } }

/-- The buffer is one that firmware registered for messages between nodes (R400). -/
def isInbox (b : Buf) : Bool := b.firmware && b.write

/-- An RMA write whose cells are all here (R286, R287, R294, R295): the buffer is checked again, the last cell written,
the completion recorded and the answer sent; a message into an inbox is answered when it is applied. -/
def finishRma (cid mseq : Nat) (c : Conn) (sl : Slot) (s : State) : State :=
  let h := sl.first
  let i := bufIndex h
  let total := sl.total.getD 0
  let b := bufOf s i
  let s1 := chargeOp c.part 0x42 sl.arrival s
  let drain := match part? s c.part with
    | some p => if isInbox b then none else drainStatus s p ⟨.fabric cid mseq sl.port, h.tenant, h.epoch, h.lc, h.spec, sl.arrival, []⟩ 0x42 []
    | none => none
  match drain with
  | some st => failSlot cid mseq sl.port h st 0 [] s1
  | none =>
    match bufferCheck s c.part 0x42 i (bufGen h) total with
    | some (st, arg) => failSlot cid mseq sl.port h st arg [] s1
    | none =>
      let last := (sl.cells.find? fun x => x.1 + 1 == cellCount total).map (·.2)
      let s2 := bufferWrite i (2048 * (cellCount total - 1)) (last.getD []) s1
      let s3 := startSlot cid mseq sl s2
      if isInbox b then { s3 with fab := { s3.fab with inboxDue := s3.fab.inboxDue ++ [(cid, mseq, i, total)] } }
      else
        let s4 := if b.hbm then s3 else rmaCompletion c.part i (bufGen h) total s3
        respondPkt cid mseq sl.port 0x42 h.lc 0 (statusBody stOk) (finishSlot cid mseq stOk s4)

/-- A message with all its cells completes, unless it is held for an epoch or its ingress queue is full. -/
def tryComplete (cid mseq : Nat) (s : State) : State :=
  match conn? s cid with
  | none => s
  | some c =>
    match mfind c.slots mseq with
    | none => s
    | some sl =>
      if sl.done || sl.waiting || !slotComplete sl then s
      else if rmaWriteType sl.first.typ then finishRma cid mseq c sl s
      else if 4096 ≤ ingressCount s c.home c.part then s
      else startRequest cid mseq c sl s

/-- A place became free in an ingress queue: the oldest complete message that waits for it starts (R338). -/
def admitWaiting (die n : Nat) (s : State) : State :=
  let ready := (s.fab.conns.filter fun x => x.2.home == die && x.2.part == n).flatMap fun x =>
    (x.2.slots.filter fun y => !y.2.done && !y.2.waiting && slotComplete y.2).map fun y => (y.2.arrival, x.1, y.1)
  match ready.foldl (fun (b : Option (Nat × Nat × Nat)) x => match b with
    | none => some x
    | some y => if x.1 < y.1 then some x else b) none with
  | some (_, cid, mseq) => tryComplete cid mseq s
  | none => s

/-- The intake of a request: it leaves its ingress queue, whose free place is taken (R338); an LC request counts as
admitted (R311). -/
def takeRequest (r : Req) (s : State) : State :=
  let s1 := leaveIngress r s
  let s2 := if r.lc then { s1 with fronds := { s1.fronds with admitted := sat32 (s1.fronds.admitted + 1) } } else s1
  match r.origin with
  | .fabric cid _ _ =>
    match conn? s cid with
    | some c => admitWaiting c.home c.part s2
    | none => s2
  | .ring _ _ _ => s2

/-! ### The window (R286, R290) -/

/-- A packet behind the window or of a done slot: a duplicate, or one that failed check 8 or 9 (Table 9.5, R294). -/
def lateArrival (cid : Nat) (c : Conn) (port : Nat) (h : NativeHdr) (payload : List Byte) (pre : Option (Nat × Nat))
    (arg : Nat) (s : State) : State :=
  match pre with
  | some (st, a) =>
    let s1 := if st = stStaleBuffer then s else dropUnknown c.home s
    if h.final then respondPkt cid h.mseq port h.typ h.lc a (refusalBody s1 c.part h.tenant h.typ st payload) s1 else s1
  | none =>
    let s1 := countWindow c.home s
    if h.final then respondPkt cid h.mseq port h.typ h.lc arg (refusalBody s1 c.part h.tenant h.typ stDupAcked payload) s1 else s1

/-- A cell of an open slot is received (R286): stored, and the message completed if it was the last one missing. What R270 lists
fails the message, a copy of a received cell included (log 71). -/
def receiveCell (cid : Nat) (c : Conn) (sl : Slot) (h : NativeHdr) (payload : List Byte) (s : State) : State :=
  let k := cellIndex h
  let fail := fun (st : Nat) (s : State) => failSlot cid h.mseq sl.port sl.first st 0 payload s
  let total := if h.final then some h.offset else sl.total
  if !shapeOk sl h payload.length total then fail stFormat s
  else if sl.cells.any (fun x => x.1 == k) then countWindow c.home s
  else match makeRoom c sl h total s with
    | .storeFull => dropNores c.home s
    | .poolFull => fail stPoolFull s
    | .ok sl1 s1 =>
      let early := rmaWriteType h.typ && !h.final
      let s2 := if early then storeCell h payload s1 else s1
      let sl2 := { sl1 with total := total, cells := mset sl1.cells k (if early then [] else payload) }
      tryComplete cid h.mseq (updConn cid (fun c => { c with slots := mset c.slots h.mseq sl2 }) s2)

/-- Checks 8 and 9 of a request packet. -/
def preCheck (s : State) (c : Conn) (h : NativeHdr) : Option (Nat × Nat) :=
  if h.verMajor ≠ c.verMajor ∨ h.verMinor ≠ c.verMinor then some (stFormat, 0)
  else if rmaType h.typ then bufferCheck s c.part h.typ (bufIndex h) (bufGen h) (shownTotal h)
  else none

/-- A request packet that passed checks 1 to 7 (R286). -/
def takeRequestPacket (port at_ : Nat) (h : NativeHdr) (payload : List Byte) (s : State) : State :=
  match conn? s h.conn with
  | none => s
  | some c =>
    let cid := h.conn
    let pre := preCheck s c h
    let s0 := match pre with
      | some (st, _) => if st = stStaleBuffer then updNetDie c.home (fun d => { d with stale := sat32 (d.stale + 1) }) s else s
      | none => s
    let d := (h.mseq + 2 ^ 32 - c.base) % 2 ^ 32
    if 2 ^ 31 ≤ d then lateArrival cid c port h payload pre 0xFF s0
    else if 256 ≤ d then
      match pre with
      | some _ => lateArrival cid c port h payload pre 0 s0
      | none => countWindow c.home s0
    else match mfind c.slots h.mseq with
      | some sl =>
        if sl.done then lateArrival cid c sl.port h payload pre sl.status s0
        else match pre with
          | some (st, a) => failSlot cid h.mseq sl.port sl.first st a payload s0
          | none =>
            if !sameHeader sl.first h || reservedHeader c h then failSlot cid h.mseq sl.port sl.first stFormat 0 payload s0
            else receiveCell cid c sl h payload s0
      | none =>
        let sl : Slot := { first := h, arrival := at_, port := port }
        let s1 := setConn cid { c with slots := mset c.slots h.mseq sl } s0
        match pre with
        | some (st, a) => failSlot cid h.mseq port h st a payload s1
        | none =>
          match openingCheck s port c h at_ with
          | .error st => failSlot cid h.mseq port h st 0 payload s1
          | .ok held =>
            let sl1 := { sl with waiting := held }
            let s2 := if held then updNetDie 0 (fun d => { d with heldCount := sat32 (d.heldCount + 1) }) s1 else s1
            receiveCell cid c sl1 h payload (updConn cid (fun c => { c with slots := mset c.slots h.mseq sl1 }) s2)

/-- NEWER_EPOCH_HOLD_EXPIRE: a request held for a newer epoch is answered NOT_PERMITTED when [a, a + HOLD) ends
(R316). -/
def execNewerEpochHoldExpire (cid mseq : Nat) (s : State) : Host.Outcome State Fault Refusal :=
  if !serving s then done s s
  else match (conn? s cid).bind (fun c => mfind c.slots mseq) with
  | none => done s s
  | some sl =>
    if sl.waiting && !sl.done && decide (sl.arrival + holdNs s ≤ s.tb.now) then
      done s (failSlot cid mseq sl.port sl.first stNotPermitted 0 [] s)
    else done s s

/-- The held requests are checked again at an adoption (R316). -/
def recheckHeld (s : State) : State :=
  s.fab.conns.foldl (fun s x =>
    x.2.slots.foldl (fun s y =>
      if !y.2.waiting || y.2.done then s
      else match epochRule s y.2.first.epoch y.2.arrival with
        | .held => s
        | .stale => failSlot x.1 y.1 y.2.port y.2.first stStaleMap 0 [] s
        | .accepted =>
          tryComplete x.1 y.1 (updConn x.1 (fun c => match mfind c.slots y.1 with
            | some sl => { c with slots := mset c.slots y.1 { sl with waiting := false } }
            | none => c) s)) s) s

/-! ### RMA_READ (R296) -/

/-- RMA_READ of a request: the buffer's bytes behind an 8-byte prefix. -/
def runRmaRead (r : Req) (index gen : Nat) (s : State) : State :=
  match reqPart s r with
  | none => s
  | some n =>
    let off := fieldAt r.body 0 5
    let len := fieldAt r.body 8 4
    match gate s n r 0x41 [] with
    | some (st, arg) => respond r 0x41 st arg (refusedBody 0x41 st) s
    | none =>
      if r.body.length ≠ 16 ∨ len = 0 ∨ 1073741824 < len then
        respond r 0x41 stFormat 0 (refusedBody 0x41 stFormat) s
      else match bufferCheck s n 0x41 index gen (off + len) with
        | some (st, arg) => respond r 0x41 st arg (refusedBody 0x41 st) s
        | none =>
          let t := bufferRead index off len s
          respond r 0x41 stOk 0 (statusBody stOk ++ t.1) t.2

/-- RMA_READ. -/
def execRmaRead (r : Req) (index gen : Nat) (s : State) : Host.Outcome State Fault Refusal :=
  if !serving s then done s s else done s (runRmaRead r index gen (takeRequest r s))

end Sys2Proof.Machine
end

