-- ==== Sys2Proof/Machine/Replicate.lean ====
section
/-!
DEFINITION. Replication as the primary runs it (R398 to R403, R405 to R410): placement records, messages in their order, the
waits of requests, rebuild, page fetches; and what the answers to its messages do.
-/

namespace Sys2Proof.Machine

open Sys2Proof

/-! ### Records -/

/-- The replication record toward the replica, or toward the target of a move (R328). -/
def replRec (d : Desc) (move : Bool) : ReplRec := if move then d.moveRepl.getD {} else d.repl

def updRec (m : Nat) (move : Bool) (f : ReplRec → ReplRec) (s : State) : State :=
  updDesc m (fun d => if move then { d with moveRepl := d.moveRepl.map f } else { d with repl := f d.repl }) s

/-- REPL of every page entry that `f` changes. -/
def mapEntries (m : Nat) (f : Nat → Nat → PageEntry → PageEntry) (s : State) : State :=
  updDesc m (fun d => { d with streams := d.streams.zipIdx.map fun x =>
    { x.1 with entries := x.1.entries.zipIdx.map fun y => f x.2 y.2 y.1 } }) s

def replNone (m : Nat) (s : State) : State := mapEntries m (fun _ _ e => { e with repl := 0 }) s

/-! ### Messages (R400, R401) -/

/-- Inbox buffers of a partition start here; the one of descriptor MDB `m` is `m` mod 64 further (R400). -/
def inboxIndex (n m : Nat) : Nat := 4096 + 64 * n + m % 64

/-- The 64-byte header of Table 14.2. -/
def replHeader (d : Desc) (kind flags layerIdx stream rseq firstPos count pageIdx pfmt slot bodyLen : Nat) : List Byte :=
  leBytes 1 kind ++ leBytes 1 flags ++ leBytes 2 d.tenant ++ leBytes 1 d.layerGroup ++ leBytes 1 layerIdx ++
  leBytes 2 stream ++ leBytes 8 d.seqId ++ leBytes 8 rseq ++ leBytes 4 firstPos ++ leBytes 4 count ++ leBytes 4 pageIdx ++
  leBytes 1 pfmt ++ leBytes 1 slot ++ zeroBytes 2 ++ leBytes 4 bodyLen ++ zeroBytes 20

/-- The fields of one message before it is formed. -/
structure ReplForm where
  kind : Nat
  flags : Nat := 0
  layerIdx : Nat := 0
  stream : Nat := 0
  firstPos : Nat := 0
  count : Nat := 0
  pageIdx : Nat := 0
  pfmt : Nat := 0
  slot : Nat := 0
  ntok : Nat := 0
  pages : List (Nat × Nat) := []
  payload : List Byte := []
  deriving DecidableEq, Repr

/-- A message of a descriptor takes its RSEQ and joins the queue; its number, or none where no node is named. -/
def queueMsg (m : Nat) (move : Bool) (f : ReplForm) (s : State) : Option Nat × State :=
  match desc? s m with
  | none => (none, s)
  | some d =>
    let rec_ := replRec d move
    match rec_.node with
    | none => (none, s)
    | some node =>
      let bytes := replHeader d f.kind f.flags f.layerIdx f.stream rec_.rseq f.firstPos f.count f.pageIdx f.pfmt f.slot
        f.payload.length ++ f.payload
      let msg : ReplMsg :=
        { id := s.fab.nextRepl, node := node, part := d.part, inbox := m % 64, mdb := some m, move := move, rseq := rec_.rseq,
          kind := f.kind, stream := f.stream, idx := f.pageIdx, ntok := f.ntok, pages := f.pages, bytes := bytes }
      (some s.fab.nextRepl,
        updRec m move (fun x => { x with rseq := x.rseq + 1 })
          { s with fab := { s.fab with repl := s.fab.repl ++ [msg], nextRepl := s.fab.nextRepl + 1 } })

/-- DESC_OPEN's payload: the descriptor's MDBs with REPLICA = 1 and no tokens, pages, tail or chain pointers. -/
def openPayload (d : Desc) : List Byte :=
  let d1 : Desc :=
    { d with
      replica := true
      chrysalis := none
      specTag := 0
      specDeadline := 0
      streams := d.streams.map fun st => { st with tokens := 0, entries := [], plbs := [], specEnd := 0 } }
  let raw := descMdbs d1
  let n := d.streams.length
  let cuts := [(0x14, 4)] ++ (List.range (min 12 n)).map (fun i => (128 + 32 * i, 8)) ++
    (List.range (n - 12)).map (fun i => (512 + 512 * (i / 15) + 32 + 32 * (i % 15), 8)) ++
    (List.range (extCount n)).map fun k => (512 + 512 * k, 4)
  cuts.foldl (fun bs c => zeroAt bs c.1 c.2) raw

/-- DESC_OPEN, with or without REBUILD: RSEQ starts again. -/
def queueOpen (m : Nat) (move rebuild : Bool) (s : State) : Option Nat × State :=
  let s1 := updRec m move (fun x => { x with rseq := 0, opened := false }) s
  match desc? s1 m with
  | none => (none, s1)
  | some d => queueMsg m move { kind := 1, flags := bnat rebuild, payload := openPayload d } s1

/-! ### ROWS (R401) -/

/-- A row of a stream in stored form: its bytes and its own scale bytes. -/
def storedRow (s : State) (d : Desc) (st : Stream) (p : Nat) : List Byte :=
  match rowBytes s d st p with
  | some (bs, sc) => if fmtIsFp8 st.fmt then bs else bs ++ sc
  | none => []

/-- The position opens a page of an uncoded stream. -/
def opensPage (st : Stream) (p : Nat) : Bool :=
  !fmtCoded st.fmt && (placeOf st p).2 == 0 &&
    (!st.ring || decide (p < st.sinks) || decide (p < st.sinks + ringSpan st))

/-- The page scales of the FP8 pages that positions [a, a + n) open. -/
def openedScales (s : State) (d : Desc) (st : Stream) (a n : Nat) : List (List Byte) :=
  if !fmtIsFp8 st.fmt then []
  else ((List.range n).filter fun k => opensPage st (a + k)).map fun k =>
    match st.entries[(placeOf st (a + k)).1]? with
    | some e => pageRead s d.part (locOf s d e) trailerOff 4
    | none => zeroBytes 4

/-- What one stream adds to a ROWS message. -/
def rowsOf (s : State) (d : Desc) (st : Stream) (a n : Nat) : List Byte :=
  let sc := openedScales s d st a n
  let table := if fmtCoded st.fmt then
      match st.entries[(placeIn st (a + n - 1)).1]? with
      | some e => pageTable s d st e
      | none => zeroBytes 32
    else []
  leBytes 4 sc.length ++ sc.flatten ++ (List.range n).flatMap (fun k => storedRow s d st (a + k)) ++ table

/-- Most bytes of a message's payload (R401). -/
def replMax : Nat := 1048576 - 64

/-- How many positions from `a` fit one message: bytes used so far, positions taken. -/
def rowsFit (s : State) (d : Desc) (sts : List Stream) (a : Nat) : Nat → Nat → Nat → Nat
  | 0, _, k => k
  | fuel + 1, used, k =>
    let need := (sts.map fun st => (storedRow s d st (a + k)).length + (if opensPage st (a + k) && fmtIsFp8 st.fmt then 4 else 0)).sum
    if replMax < used + need ∧ 0 < k then k else rowsFit s d sts a fuel (used + need) (k + 1)

/-- Queues the ROWS of positions [a, a + n) of a layer, split into messages. -/
def queueRows (m layer : Nat) (move : Bool) : Nat → Nat → Nat → State → List Nat × State
  | 0, _, _, s => ([], s)
  | fuel + 1, a, n, s =>
    if n = 0 then ([], s)
    else match desc? s m with
      | none => ([], s)
      | some d =>
        let is := layerStreams d layer
        let sts := is.filterMap (d.streams[·]?)
        let k := rowsFit s d sts a n ((sts.map fun st => 4 + (if fmtCoded st.fmt then 32 else 0)).sum) 0
        let pages := (is.flatMap fun i => match d.streams[i]? with
          | some st => ((List.range k).map fun x => (i, (placeIn st (a + x)).1)).dedup
          | none => [])
        let st0 := sts.head?
        let gen := match st0 with
          | some st => match st.entries[(placeIn st (a + k - 1)).1]? with | some e => e.excGen | none => 0
          | none => 0
        let fmt := match st0 with | some st => st.fmt | none => 0
        let slot := match st0 with | some st => st.excTable | none => 0
        let (id, s1) := queueMsg m move
          { kind := 2, layerIdx := layer, firstPos := a, count := k, pfmt := fmt + 16 * gen, slot := slot, pages := pages,
            payload := sts.flatMap fun st => rowsOf s d st a k } s
        let s2 := if move then s1 else mapEntries m (fun i j e => if pages.contains (i, j) then { e with repl := 1 } else e) s1
        let (ids, s3) := queueRows m layer move fuel (a + k) (n - k) s2
        (id.toList ++ ids, s3)

/-! ### PAGE (R401, R410) -/

/-- The position that FIRST_POS of a page gives. -/
def pageFirst (st : Stream) (j : Nat) : Nat :=
  if st.ring then match entryRange st j with | some (a, _) => a | none => 0 else firstPosOf st j

/-- The plain bytes of a page entry, from HBM or from its swap slot after its check; none if they are lost. -/
def pagePlain (m i j : Nat) (s : State) : Option (List Byte) × State :=
  match desc? s m with
  | none => (none, s)
  | some d =>
    match (d.streams[i]?).bind (·.entries[j]?) with
    | none => (none, s)
    | some e =>
      let l := locOf s d e
      if l.lost then (none, s)
      else if l.swapped then
        match readSlot d l e s with
        | (some raw, s1) => (some (plainOf s1 d.part l raw), s1)
        | (none, s1) => (none, loseSwapped m i j d e s1)
      else (some (pageRead s d.part l 0 pageSize), chargeReads d.part pageSize s)

/-- The form of a PAGE message for a page entry. -/
def pageForm (m i j flags : Nat) (s : State) : Option (ReplForm × State) :=
  match pagePlain m i j s with
  | (bytes, s1) =>
    match desc? s1 m with
    | none => none
    | some d =>
      match d.streams[i]? with
      | none => none
      | some st =>
        match st.entries[j]? with
        | none => none
        | some e =>
          let body := match bytes with
            | some b => pageImage s1 d st j e st.tokens e.ntok b ++ pageTable s1 d st e
            | none => []
          some ({ kind := 3, flags := flags + (if bytes.isNone then 2 else 0), stream := i, firstPos := pageFirst st j,
                  count := e.ntok, pageIdx := j, pfmt := e.fmt + 16 * e.excGen, slot := st.excTable, ntok := e.ntok,
                  pages := [(i, j)],
                  payload := entryPlain e (serialOf s1 d e) e.ntok bytes.isNone ++ body }, s1)

/-- Queues the PAGE of one page entry. -/
def queuePage (m i j : Nat) (move : Bool) (s : State) : Option Nat × State :=
  match pageForm m i j 0 s with
  | some (f, s1) =>
    let (id, s2) := queueMsg m move f s1
    (id, if move then s2 else updEntry m i j (fun e => { e with repl := 1 }) s2)
  | none => (none, s)

/-! ### Waits (R24, R403) -/

/-- A request's replication step has ended: its commit point, if it has one, and its answer. -/
def finishWait (w : ReplWait) (s : State) : State :=
  let r := w.req
  let s1 := match w.next with
    | .answer => s
    | .append m layer tokens pubs =>
      let old := match (desc? s m).bind (fun d => (layerStreams d layer).head?.bind (d.streams[·]?)) with
        | some st => st.tokens
        | none => tokens
      let s0 := commitAppend m layer tokens pubs s
      match reqPart s r with
      | some n => chargeAt n r.arrival (fun c => { c with appendTokens := sat64 (c.appendTokens + (tokens - old)) }) s0
      | none => s0
    | .commit m n =>
      let s0 := settleTail m n s
      match desc? s m with
      | some d => updPart d.part (fun p => { p with specCommitted := sat32 (p.specCommitted + 1) }) s0
      | none => s0
    | .closed tokens commit =>
      match reqPart s r with
      | some n =>
        updPart n (fun p => if commit then { p with specCommitted := sat32 (p.specCommitted + 1) } else p)
          (chargeAt n r.arrival (fun c => { c with appendTokens := sat64 (c.appendTokens + tokens) }) s)
      | none => s
  respond r w.op stOk 0 w.body s1

/-- Waits with nothing left to wait for end. -/
def settleWaits (s : State) : State :=
  let ready := s.fab.replWaits.filter fun w => w.msgs.isEmpty && w.places.isEmpty
  ready.foldl (fun s w => finishWait w s)
    { s with fab := { s.fab with replWaits := s.fab.replWaits.filter fun w => !(w.msgs.isEmpty && w.places.isEmpty) } }

/-- Message numbers that are no longer waited for. -/
def unwait (ids : List Nat) (s : State) : State :=
  settleWaits { s with fab := { s.fab with
    replWaits := s.fab.replWaits.map fun w => { w with msgs := w.msgs.filter fun i => !ids.contains i } } }

/-! ### ABSENT (R405) -/

/-- Pages whose PAGE_FETCH can no longer be answered are lost (R407). -/
def loseFetches (m : Nat) (s : State) : State :=
  match desc? s m with
  | none => s
  | some d =>
    d.repl.fetches.foldl (fun s f => loseEntry m f.2.1 f.2.2.1 s)
      (updDesc m (fun d => { d with repl := { d.repl with fetches := [] } }) s)

/-- A descriptor becomes ABSENT toward its replica, or its move's target (R405): its messages go, its pages have no REPL,
waiting requests go on as without a replica, and event 0x0301 is logged. -/
def makeAbsent (m : Nat) (move : Bool) (status : Nat) (s : State) : State :=
  match desc? s m with
  | none => s
  | some d =>
    let mine : ReplMsg → Bool := fun x => x.mdb == some m && x.move == move
    let ids := (s.fab.repl.filter mine).map (·.id)
    let s1 := { s with fab := { s.fab with repl := s.fab.repl.filter fun x => !mine x } }
    let s2 := updRec m move (fun x => { x with state := .absent, opened := false, queued := false, rbHold := false }) s1
    let s3 := if move then s2 else loseFetches m (replNone m s2)
    let s4 := updPart d.part (fun p => { p with replAbsent := sat32 (p.replAbsent + 1) }) s3
    let s5 := logEvent 0x0301 srcCt (some d.part) 0
      [d.seqId, d.layerGroup, (replRec d move).node.getD 0, status] s4
    unwait ids s5

/-! ### Sending (R400) -/

/-- The generation learnt of another node's inbox. -/
def peerGen (s : State) (node index : Nat) : Nat := mget 0 s.fab.peerGens (1048576 * node + index)

/-- The open connection that carries a partition's messages to a node. -/
def connTo (s : State) (n node : Nat) : Option Nat :=
  (s.fab.conns.find? fun x => x.2.part == n && x.2.peer == node && !x.2.closing && !x.2.lc &&
    (!isConf s n || x.2.protect)).map (·.1)

/-- The connection to a node, opened if there is none. -/
def connOrOpen (n node : Nat) (s : State) : Option (Nat × State) :=
  match connTo s n node with
  | some c => some (c, s)
  | none => openTo n node s

/-- A message may leave: none before it in the queue goes to the same inbox. -/
def firstOfInbox (s : State) (x : ReplMsg) : Bool :=
  match s.fab.repl.find? (fun y => y.node == x.node && y.part == x.part && y.inbox == x.inbox) with
  | some y => y.id == x.id
  | none => false

/-- A message of replication, rebalancing or rebuild that concerns a coded stream: its DESC_OPEN, rows and pages. -/
def codedMsg (s : State) (x : ReplMsg) : Bool :=
  match x.mdb.bind (desc? s) with
  | none => false
  | some d =>
    if x.kind = 1 then d.streams.any fun st => fmtCoded st.fmt
    else if x.kind = 2 then d.streams.any fun st => st.layerIdx == fieldAt x.bytes 5 1 && fmtCoded st.fmt
    else if x.kind = 3 then (d.streams[x.stream]?).any fun st => fmtCoded st.fmt
    else false

/-- Toward a partner of transport version 1.3 a coded stream is not replicated, moved or rebuilt (Table 9.2). -/
def lacksCoded (c : Conn) : Bool := !c.opening && c.verMajor == 1

/-- The first transmission of a PAGE_FETCH starts the time of its REPLY (R407). -/
def beginFetch (x : ReplMsg) (s : State) : State :=
  match x.mdb with
  | some m =>
    if x.kind ≠ 6 ∨ x.begun then s
    else updDesc m (fun d => { d with repl := { d.repl with fetches := d.repl.fetches.map fun f =>
      if f.1 = x.rseq then (f.1, f.2.1, f.2.2.1, s.tb.now) else f } }) s
  | none => s

/-- Sends one message of the queue; one that Table 9.2 refuses is answered FORMAT_UNSUPPORTED here (log 83). -/
def sendMsg (x : ReplMsg) (s : State) : State :=
  match connOrOpen x.part x.node s with
  | none =>
    match x.mdb with
    | some m => makeAbsent m x.move 0xFF s
    | none => unwait [x.id] { s with fab := { s.fab with repl := s.fab.repl.filter fun y => y.id != x.id } }
  | some (cid, s1) =>
    let index := 4096 + 64 * x.part + x.inbox
    let refused := match conn? s1 cid with | some c => lacksCoded c && codedMsg s1 x | none => false
    if refused then
      match x.mdb with
      | some m => makeAbsent m x.move stFormat s1
      | none => s1
    else
    let s1 := beginFetch x s1
    let s2 := { s1 with fab :=
      { s1.fab with repl := s1.fab.repl.map fun y => if y.id = x.id then { y with sent := true, begun := true } else y } }
    (sendRequest cid 0x42 (index + peerGen s2 x.node index * 2 ^ 24) x.bytes (.replication x.id) s2).2

/-- Sends every message that may leave. -/
def pump (s : State) : State :=
  s.fab.repl.foldl (fun s x =>
    match s.fab.repl.find? (fun y => y.id == x.id) with
    | some y => if !y.sent && firstOfInbox s y then sendMsg y s else s
    | none => s) s

/-- A message leaves the queue; the next one to its inbox may go. -/
def dropMsg (id : Nat) (s : State) : State :=
  { s with fab := { s.fab with repl := s.fab.repl.filter fun x => x.id != id } }

/-! ### Placement (R398) -/

/-- The replica that a placement record gives a primary; none where the descriptor has no replica. -/
def replicaIn (me : Nat) (record : List Byte) : Option Nat :=
  let n := fieldAt record 2 1
  if !bitOf (fieldAt record 3 1) 0 then none
  else
    let spans := (List.range (min 12 n)).map fun i => fieldAt record (8 + 4 * i) 4
    match spans.find? fun w => w % 4096 == me && bitOf w 24 with
    | none => none
    | some w => if bitsOf w 23 12 = me then none else some (bitsOf w 23 12)

/-- The record of a sequence's bucket in this node's placement buffer; none while the buffer lacks pages. -/
def localRecord (s : State) (n seq : Nat) : Option (List Byte) :=
  match part? s n with
  | some p => if p.placement.length < 64 then none else some (backedRead s p.placement (64 * (seq % 65536)) 64)
  | none => none

/-- A descriptor that has taken no row. -/
def untouched (d : Desc) : Bool := d.streams.all fun st => st.tokens == 0 && st.entries.isEmpty

/-- What a read of the placement record makes of a descriptor's replication: the messages queued. `none`: the read
failed. -/
def applyPlacement (m : Nat) (answer : Option (List Byte)) (s : State) : List Nat × State :=
  match desc? s m with
  | none => ([], s)
  | some d =>
    let mine : ReplMsg → Bool := fun x => x.mdb == some m && !x.move
    let clear := fun (s : State) =>
      { s with fab := { s.fab with repl := s.fab.repl.filter fun x => !mine x || x.sent } }
    match answer with
    | none =>
      ([], replNone m (updRec m false (fun x => { x with unread := false, state := .absent, node := none }) (clear s)))
    | some record =>
      match replicaIn (nodeId s) record with
      | none => ([], replNone m (updRec m false (fun x => { x with unread := false, state := .none, node := none, queued := false }) (clear s)))
      | some node =>
        if d.repl.node = some node ∧ (d.repl.state = .sync ∨ d.repl.state = .rebuild) then
          ([], updRec m false (fun x => { x with unread := false }) s)
        else if d.repl.fresh && untouched d then
          let s1 := updRec m false (fun x => { x with unread := false, node := some node, state := .absent }) s
          let (id, s2) := queueOpen m false false s1
          (id.toList, s2)
        else
          ([], replNone m (updRec m false (fun x =>
            { x with unread := false, node := some node, state := .absent, queued := true, rbHold := false }) (clear s)))

/-- The partition is part of a shard group (R318). -/
def sharded (s : State) (n : Nat) : Bool := s.epochs.shardRecs.any fun x => x.part == n

/-- A descriptor takes its replica (R398): at once where this node is the steward or no record names the partition, else
when its placement record has been read. Answers whether the read is still to come, and the messages queued. -/
def readPlacement (m : Nat) (fresh : Bool) (s : State) : Bool × List Nat × State :=
  match desc? s m with
  | none => (false, [], s)
  | some d =>
    let s1 := updRec m false (fun x => { x with fresh := fresh }) s
    if !sharded s d.part then (false, [], updRec m false (fun x => { x with unread := false }) s1)
    else match part? s d.part with
      | none => (false, [], s1)
      | some p =>
        if p.steward then
          let (ids, s2) := applyPlacement m (localRecord s1 d.part d.seqId) s1
          (false, ids, s2)
        else (true, [], updRec m false (fun x => { x with unread := true }) s1)

/-! ### The replication step of a request (R24, R403) -/

/-- The records of a descriptor to which committed rows are sent. -/
def syncTargets (d : Desc) : List Bool :=
  (if d.repl.state = .sync then [false] else []) ++
    (match d.moveRepl with | some x => if x.state = .sync then [true] else [] | none => [])

/-- Queues the rows of positions [a, a + n) of some layers toward every target in SYNC. -/
def queueStep (m a n : Nat) (layers : List Nat) (s : State) : List Nat × State :=
  match desc? s m with
  | none => ([], s)
  | some d =>
    (syncTargets d).foldl (fun acc move =>
      layers.foldl (fun (acc : List Nat × State) i =>
        let (ids, s1) := queueRows m i move n a n acc.2
        (acc.1 ++ ids, s1)) acc) ([], s)

/-- Starts the replication step of a request that changes descriptor `m`, and ends it at once where nothing is to be
waited for. -/
def startStep (r : Req) (op : Nat) (body : List Byte) (m a n : Nat) (layers : List Nat) (next : ReplThen) (s : State) : State :=
  let unread := match desc? s m with | some d => d.repl.unread | none => false
  let (wait, _, s1) := if unread then readPlacement m false s else (false, [], s)
  if wait then
    { s1 with fab := { s1.fab with replWaits := s1.fab.replWaits ++ [⟨r, op, body, [], [m], next⟩] } }
  else
    let (ids, s2) := queueStep m a n layers s1
    pump (settleWaits { s2 with fab := { s2.fab with replWaits := s2.fab.replWaits ++ [⟨r, op, body, ids, [], next⟩] } })

/-- The rows that a wait has to send once its descriptor's placement is known: first position, count and layers. -/
def waitRows (s : State) (w : ReplWait) : Option (Nat × Nat × Nat × List Nat) :=
  match w.next with
  | .answer => none
  | .closed _ _ => none
  | .append m layer tokens _ =>
    (desc? s m).bind fun d => ((layerStreams d layer).head?.bind (d.streams[·]?)).map fun st =>
      (m, st.tokens, tokens - st.tokens, [layer])
  | .commit m n => (desc? s m).bind fun d => d.chrysalis.map fun c => (m, c.base, n, List.range (layerCount d))

/-- The placement of a descriptor is known: waits that needed it go on. -/
def placementKnown (m : Nat) (ids : List Nat) (s : State) : State :=
  let ws := s.fab.replWaits
  let s0 := { s with fab := { s.fab with replWaits := [] } }
  let (out, s1) := ws.foldl (fun (acc : List ReplWait × State) w =>
    if !w.places.contains m then (acc.1 ++ [w], acc.2)
    else
      let w1 := { w with places := w.places.filter (· != m), msgs := w.msgs ++ ids }
      match waitRows acc.2 w with
      | some (k, a, n, layers) =>
        let (more, s2) := queueStep k a n layers acc.2
        (acc.1 ++ [{ w1 with msgs := w1.msgs ++ more }], s2)
      | none => (acc.1 ++ [w1], acc.2)) ([], s0)
  pump (settleWaits { s1 with fab := { s1.fab with replWaits := out } })

/-- PLACEMENT_READ: the placement record of a descriptor's bucket has come from the steward, or the read has failed
(R398). -/
def execPlacementRead (m : Nat) (answer : Option (List Byte)) (s : State) : Host.Outcome State Fault Refusal :=
  if !serving s then done s s
  else match desc? s m with
  | none => done s s
  | some d =>
    if !d.repl.unread then done s s
    else
      let (ids, s1) := applyPlacement m answer s
      done s (placementKnown m ids s1)

/-! ### Rebuild (R409, R410) -/

def rebuildPar (s : State) : Nat := max 1 (bitsOf (regWord s 0x01990010) 20 16)
def rbPages (s : State) : Nat := max 1 (bitsOf (regWord s 0x01990010) 15 0)

/-- Records in REBUILD. -/
def rebuilding (s : State) : Nat :=
  (s.descs.map fun x => bnat (x.2.repl.state == .rebuild) +
    (match x.2.moveRepl with | some y => bnat (y.state == .rebuild) | none => 0)).sum

/-- The queue order of R409: LC first, then partition, SEQ_ID and layer group. -/
def rebuildKey (s : State) (m : Nat) (d : Desc) : List Nat := [1 - bnat (descLc s m d), d.part, d.seqId, d.layerGroup]

def lexLt : List Nat → List Nat → Bool
  | a :: as, b :: bs => decide (a < b) || (a == b && lexLt as bs)
  | _, _ => false

/-- The head of the rebuild queue: descriptor, and whether toward a move's target. -/
def rebuildHead (s : State) : Option (Nat × Bool) :=
  let cands : List (Nat × Bool × List Nat) := s.descs.flatMap fun x =>
    (if x.2.repl.queued && !x.2.repl.unread then [(x.1, false, rebuildKey s x.1 x.2)] else []) ++
      (match x.2.moveRepl with | some y => if y.queued then [(x.1, true, rebuildKey s x.1 x.2)] else [] | none => [])
  (cands.foldl (fun (b : Option (Nat × Bool × List Nat)) x => match b with
    | none => some x
    | some y => if lexLt x.2.2 y.2.2 then some x else b) none).map fun x => (x.1, x.2.1)

/-- Steps 1 and 2 of R410. -/
def beginRebuild (m : Nat) (move : Bool) (s : State) : State :=
  let s1 := updRec m move (fun x =>
    { x with
      state := .rebuild
      queued := false
      opened := false
      rbStream := 0
      rbIndex := 0
      rbSent := 0
      rbNtok := []
      rbHold := false
      fresh := false }) s
  let s2 := if move then s1 else replNone m s1
  pump (queueOpen m move true s2).2

/-- REBUILD_START: the head of the rebuild queue starts its rebuild while fewer than REBUILD_PAR run (R409). -/
def execRebuildStart (s : State) : Host.Outcome State Fault Refusal :=
  if !serving s || decide (rebuildPar s ≤ rebuilding s) then done s s
  else match rebuildHead s with
  | none => done s s
  | some (m, move) =>
    match desc? s m with
    | none => done s s
    | some d =>
      done s (beginRebuild m move (logEvent 0x0302 srcCt (some d.part) 0
        [d.seqId, d.layerGroup, (replRec d move).node.getD 0, 0] s))

/-- A page that a rebuild sends: it holds committed rows. -/
def sendable (e : PageEntry) : Bool := !(e.spec && e.ntok == 0)

/-- The next page of step 3 from a position on: stream and index. -/
def nextPage (d : Desc) (i j : Nat) : Option (Nat × Nat) :=
  let all := d.streams.zipIdx.flatMap fun x => (x.1.entries.zipIdx.filter fun y => sendable y.1).map fun y => (x.2, y.2)
  all.find? fun x => decide (i < x.1) || (x.1 == i && decide (j ≤ x.2))

/-- A page of step 4: not sent, or grown since. -/
def changedPage (d : Desc) (x : ReplRec) : Option (Nat × Nat) :=
  let all := d.streams.zipIdx.flatMap fun y => (y.1.entries.zipIdx.filter fun z => sendable z.1).map fun z => (y.2, z.2, z.1.ntok)
  (all.find? fun p => !(x.rbNtok.any fun q => q.1 == p.1 && q.2.1 == p.2.1 && decide (p.2.2 ≤ q.2.2))).map fun p => (p.1, p.2.1)

/-- The PAGE budget of the running millisecond (R409). -/
def pageBudget (s : State) : Bool × State :=
  let w := s.tb.now / 1000000
  let s1 := if s.health.rbWindow = w then s else { s with health := { s.health with rbWindow := w, rbSent := 0 } }
  if s1.health.rbSent < rbPages s then (true, { s1 with health := { s1.health with rbSent := s1.health.rbSent + 1 } })
  else (false, s1)

/-- Sends one page of a rebuild. -/
def rebuildOne (m : Nat) (move : Bool) (i j : Nat) (step3 : Bool) (s : State) : State :=
  match pageBudget s with
  | (false, s1) => s1
  | (true, s1) =>
    let ntok := match (desc? s1 m).bind (fun d => (d.streams[i]?).bind (·.entries[j]?)) with | some e => e.ntok | none => 0
    let (_, s2) := queuePage m i j move s1
    let s3 := if move then s2 else updEntry m i j (fun e => { e with repl := 0 }) s2
    pump (updRec m move (fun x =>
      { x with
        rbSent := x.rbSent + 1
        rbStream := if step3 then i else x.rbStream
        rbIndex := if step3 then j + 1 else x.rbIndex
        rbNtok := (x.rbNtok.filter fun q => !(q.1 == i && q.2.1 == j)) ++ [(i, j, ntok)] }) s3)

/-- Steps 3 to 5 of R410 for one record: its next page, or REBUILD_END once nothing is left. -/
def rebuildStep (m : Nat) (move : Bool) (d : Desc) (s : State) : State :=
  let x := replRec d move
  let mine := s.fab.repl.any fun y => y.mdb == some m && y.move == move
  if x.state ≠ .rebuild ∨ !x.opened ∨ mine then s
  else
    match (if x.rbHold then none else nextPage d x.rbStream x.rbIndex) with
    | some (i, j) => rebuildOne m move i j true s
    | none =>
      let s1 := updRec m move (fun x => { x with rbHold := true }) s
      match changedPage d x with
      | some (i, j) => rebuildOne m move i j false s1
      | none =>
        pump (queueMsg m move { kind := 5, count := x.rbSent, payload := d.streams.flatMap fun st => leBytes 4 st.tokens } s1).2

/-- REBUILD_PAGE: the next message of a running rebuild (R410). -/
def execRebuildPage (m : Nat) (s : State) : Host.Outcome State Fault Refusal :=
  if !serving s then done s s
  else match desc? s m with
  | none => done s s
  | some d =>
    if d.repl.state = .rebuild then done s (rebuildStep m false d s)
    else if d.moveRepl.isSome then done s (rebuildStep m true d s)
    else done s s

/-! ### PAGE_FETCH (R406, R407) -/

/-- A failed page that the replica holds is fetched from it. -/
def queueFetch (m i j : Nat) (s : State) : State :=
  match desc? s m with
  | none => s
  | some d =>
    let rseq := d.repl.rseq
    let (_, s1) := queueMsg m false { kind := 6, stream := i, pageIdx := j } (updEntry m i j (fun e => { e with fetching := true }) s)
    pump (updDesc m (fun d => { d with repl := { d.repl with fetches := d.repl.fetches ++ [(rseq, i, j, s.tb.now)] } }) s1)

/-- A PAGE_FETCH that still waits for its first transmission. -/
def fetchUnsent (s : State) (m rseq : Nat) : Bool :=
  s.fab.repl.any fun y => y.mdb == some m && !y.move && y.kind == 6 && y.rseq == rseq && !y.begun

/-- PAGE_FETCH_TIMEOUT: no REPLY within PLT + SKEW of the first transmission: the page is lost (R407). -/
def execPageFetchTimeout (m rseq : Nat) (s : State) : Host.Outcome State Fault Refusal :=
  if !serving s then done s s
  else match desc? s m with
  | none => done s s
  | some d =>
    match d.repl.fetches.find? (fun f => f.1 == rseq) with
    | none => done s s
    | some (_, i, j, t) =>
      if s.tb.now < t + pltNs s + skewNs s ∨ fetchUnsent s m rseq then done s s
      else done s (loseEntry m i j
        (updDesc m (fun d => { d with repl := { d.repl with fetches := d.repl.fetches.filter fun f => f.1 != rseq } }) s))

/-! ### Answers to replication messages -/

/-- Pages of a confirmed message become CONFIRMED unless a later message carries rows of them. -/
def confirmPages (m : Nat) (x : ReplMsg) (s : State) : State :=
  let later := s.fab.repl.filter fun y => y.mdb == some m && y.move == x.move
  mapEntries m (fun i j e =>
    if x.pages.contains (i, j) && !(later.any fun y => y.pages.contains (i, j)) && (x.kind == 2 || e.ntok == x.ntok) then
      { e with repl := 2 } else e) s

/-- The replica has answered OK. -/
def messageOk (x : ReplMsg) (m : Nat) (s : State) : State :=
  match desc? s m with
  | none => s
  | some d =>
    let rc := replRec d x.move
    if x.kind = 1 then
      if rc.state = .rebuild then updRec m x.move (fun y => { y with opened := true }) s
      else if untouched d then updRec m x.move (fun y => { y with state := .sync, fresh := false }) s
      else updRec m x.move (fun y => { y with state := .absent, queued := true, fresh := false }) s
    else if x.kind = 2 ∨ x.kind = 3 then
      let s1 := if x.kind = 3 then updPart d.part (fun p => { p with replRebuilt := sat32 (p.replRebuilt + 1) }) s else s
      if x.move then s1 else confirmPages m x s1
    else if x.kind = 5 then
      let s1 := updRec m x.move (fun y => { y with state := .sync, rbHold := false }) s
      logEvent 0x0302 srcCt (some d.part) 0 [d.seqId, d.layerGroup, rc.node.getD 0, 1] s1
    else s

/-- MOVE_ANNOUNCE is answered OK once every descriptor it named is in SYNC to its target; one that is closed is named no
more (R328). -/
def settleAnnounces (s : State) : State :=
  let waits : List (MgmtCmd × List Nat) := s.epochs.announceWait.map fun x =>
    (x.1, x.2.filter fun m => match (desc? s m).bind (·.moveRepl) with
      | some y => y.state != .sync
      | none => false)
  (waits.filter fun x => x.2.isEmpty).foldl (fun s x => mgmtAnswer x.1 stOk 0 [] s)
    { s with epochs := { s.epochs with announceWait := waits.filter fun x => !x.2.isEmpty } }

/-- The outcome of a replication message: its response, or its abandonment (R403, R405, R407, R410). -/
def replOutcome (id st arg : Nat) (s : State) : State :=
  match s.fab.repl.find? (fun x => x.id == id) with
  | none => s
  | some x =>
    if st = stStaleBuffer then
      pump { s with fab :=
        { s.fab with
          peerGens := mset s.fab.peerGens (1048576 * x.node + (4096 + 64 * x.part + x.inbox)) (arg % 256)
          repl := s.fab.repl.map fun y => if y.id = id then { y with sent := false } else y } }
    else
      let s1 := dropMsg id s
      match x.mdb with
      | none => pump (unwait [id] s1)
      | some m =>
        if st = stOk then settleAnnounces (pump (unwait [id] (messageOk x m s1)))
        else if x.kind = 5 ∧ st = stNotPermitted then pump (beginRebuild m x.move s1)
        else pump (makeAbsent m x.move st (unwait [id] s1))

/-! ### Closing a descriptor (R75, R402) -/

/-- The tokens that a wait of KV_APPEND commits. -/
def waitTokens (s : State) (w : ReplWait) : Nat :=
  match waitRows s w with
  | some (_, _, n, _) => n
  | none => 0

/-- A replication step whose descriptor closes goes on by its messages alone: the request completes with their outcome (R24, R75).
One that still waited for the descriptor's placement sends nothing (log 76). -/
def closeWait (m : Nat) (s : State) (w : ReplWait) : ReplWait :=
  let w1 := { w with places := w.places.filter (· != m) }
  match w.next with
  | .append k _ _ _ => if k = m then { w1 with next := .closed (waitTokens s w) false } else w1
  | .commit k _ => if k = m then { w1 with next := .closed 0 true } else w1
  | .answer => w1
  | .closed _ _ => w1

def closeWaits (m : Nat) (s : State) : State :=
  settleWaits { s with fab := { s.fab with replWaits := s.fab.replWaits.map (closeWait m s) } }

/-- DESC_CLOSE goes to the replica and to a move's target, behind the messages that are still queued (R75, R402). -/
def closeReplica (m : Nat) (s : State) : State :=
  match desc? s m with
  | none => s
  | some d =>
    let targets := (if d.repl.state = .sync ∨ d.repl.state = .rebuild then [false] else []) ++
      (match d.moveRepl with | some x => if x.state = .sync ∨ x.state = .rebuild then [true] else [] | none => [])
    let s1 := targets.foldl (fun s move => (queueMsg m move { kind := 4 } s).2) s
    pump { s1 with fab := { s1.fab with repl := s1.fab.repl.map fun x => if x.mdb = some m then { x with mdb := none } else x } }

/-- ATT_BACKWARD requests that wait for their turn in a set that is freed are answered NOT_PERMITTED (log 76). -/
def refuseSet (sets : List AccSet) (s : State) : State :=
  (sets.flatMap fun a => a.held ++ a.turn).foldl (fun s h => refuse h.req 3 stNotPermitted s) s

/-- Closes a descriptor whose key is deleted (steps 3 to 5 of R75). -/
def closeDesc (m : Nat) (s : State) : State :=
  let s1 := endTail m 1 (finishDemands m s)
  let s2 := closeWaits m s1
  let s3 := refuseSet (s2.accSets.filter fun a => a.mdb == m) { s2 with accSets := s2.accSets.filter fun a => a.mdb != m }
  let s4 := closeReplica m (discardStagedWhere (fun r => r.mdb == m) s3)
  match desc? s4 m with
  | none => s4
  | some d =>
    let s5 := d.streams.foldl (fun s st => st.entries.foldl (fun s e => releaseEntry d e s) s) s4
    settleAnnounces (freeMdbs (m :: chainMdbs d) { s5 with descs := mdel s5.descs m })

end Sys2Proof.Machine
end

