-- ==== Sys2Proof/Machine/Sequences.lean ====
section
/-!
DEFINITION. Requests that create, release, copy, attach to and move sequences: SEQ_OPEN, SEQ_CLOSE, SEQ_CLONE (R73 to R76),
PREFIX_LOOKUP (R93 to R95), SWAP_OUT and SWAP_IN (R357 to R359).
-/

namespace Sys2Proof.Machine

open Sys2Proof

/-! ### SEQ_OPEN (R73, R74, R92) -/

/-- A group record of a SEQ_OPEN (Table 2.13). -/
structure GroupRec where
  group : Nat
  layers : Nat
  first : Nat
  flags : Nat
  heads : Nat
  fmt : Nat
  slot : Nat
  elems : Nat
  rope : Nat
  sinks : Nat
  window : Nat
  zero : Bool
  deriving DecidableEq, Repr

def groupRec (bs : List Byte) : GroupRec :=
  { group := fieldAt bs 0 1, layers := fieldAt bs 1 1, first := fieldAt bs 2 1, flags := fieldAt bs 3 1,
    heads := fieldAt bs 4 1, fmt := fieldAt bs 5 1 % 16, slot := fieldAt bs 5 1 / 16, elems := fieldAt bs 6 2,
    rope := fieldAt bs 8 2, sinks := fieldAt bs 0xA 1, window := fieldAt bs 0xC 4,
    zero := fieldAt bs 0xB 1 == 0 && allZero (sliceBytes bs 0x10 16) }

/-- The records of a SEQ_OPEN body. -/
def groupRecs (body : List Byte) : List GroupRec :=
  (List.range (fieldAt body 8 1)).map fun i => groupRec (sliceBytes body (16 + 32 * i) 32)

/-- A record that neither its fields nor R39, R53, R54, R64 and R176 refuse. -/
def groupOk (s : State) (n : Nat) (g : GroupRec) : Bool :=
  let latent := bitOf g.flags 0
  let ring := bitOf g.flags 1
  let coded := fmtCoded g.fmt
  g.zero && 1 ≤ g.layers && g.layers ≤ 16 && g.first + g.layers ≤ 256 && g.flags < 16 && g.fmt ≤ 10 &&
  (coded || g.slot == 0) &&
  (if latent then g.heads == 1 && g.rope % 32 == 0 && g.rope ≤ 128 && g.rope + 64 ≤ g.elems &&
      g.elems ≤ g.rope + 1024 && (g.elems - g.rope) % 32 == 0
    else 1 ≤ g.heads && g.heads ≤ 64 && g.rope == 0 && 64 ≤ g.elems && g.elems ≤ 256 && g.elems % 32 == 0) &&
  (if ring then 1 ≤ g.window && g.window ≤ 1048576 && g.sinks ≤ 64 && g.sinks ≤ rowsPerPage g.fmt g.elems &&
      !bitOf g.flags 2 && !coded
    else g.window == 0 && g.sinks == 0) &&
  (!coded || (g.elems % 64 == 0 && !isConf s n && tableFits s n g.fmt g.slot))

/-- The stream of number `i` of a record (R45, R74). -/
def newStream (g : GroupRec) (i : Nat) : Stream :=
  let latent := bitOf g.flags 0
  let layer := if latent then i else i / (2 * g.heads)
  { kind := if latent then .latent else if i % 2 = 0 then .keys else .values
    layer := g.first + layer
    layerIdx := layer
    kvhead := if latent then 0 else i % (2 * g.heads) / 2
    ring := bitOf g.flags 1
    publish := bitOf g.flags 2
    ropeStored := bitOf g.flags 3
    fmt := g.fmt
    excTable := g.slot
    elems := g.elems
    ropeElems := g.rope
    tokPerPage := rowsPerPage g.fmt g.elems
    sinks := g.sinks
    window := g.window }

/-- The descriptor of a record (R74). -/
def newDesc (s : State) (n tenant seq arrival : Nat) (g : GroupRec) : Desc :=
  { tenant := tenant, layerGroup := g.group, part := n, seqId := seq, conf := isConf s n, created := arrival,
    lastUse := arrival,
    streams := (List.range (if bitOf g.flags 0 then g.layers else g.layers * 2 * g.heads)).map (newStream g) }

/-- The key of a sequence exists, in the directory or in the evicted-key table (R92). -/
def keyExists (s : State) (n : Nat) (key : BitVec 96) : Bool :=
  (dirSearch s n key).isSome || (evictedKey s n key).isSome

/-- Writes a descriptor with its MDBs and its key; none where an MDB or an entry is lacking. -/
def putDesc (n : Nat) (lc : Bool) (d : Desc) (s : State) : Option (Nat × State) :=
  match placeDesc n (seqKey d.tenant d.seqId d.layerGroup) lc d s with
  | .ok x => some x
  | .error _ => none

/-- Opens every descriptor of a list; their MDBs. -/
def openAll (n : Nat) (lc : Bool) : List Desc → State → Option (List Nat × State)
  | [], s => some ([], s)
  | d :: ds, s =>
    match putDesc n lc d s with
    | none => none
    | some (m, s1) =>
      match openAll n lc ds s1 with
      | none => none
      | some (ms, s2) => some (m :: ms, s2)

/-- A SEQ_OPEN body within Tables 2.12 and 2.13 (R73, R74). -/
def openBytesOk (s : State) (n : Nat) (b : List Byte) : Bool :=
  let ng := fieldAt b 8 1
  let recs := groupRecs b
  decide (16 ≤ b.length) && fieldAt b 5 3 == 0 && decide (1 ≤ ng) && decide (ng ≤ 16) && decide (fieldAt b 9 1 < 2) &&
    fieldAt b 0xA 6 == 0 && b.length == 16 + 32 * ng && distinct (recs.map (·.group)) && recs.all (groupOk s n)

/-- A SEQ_OPEN whose descriptors `ms` are in place: its placements are read, and it is answered OK after their replicas (R92,
R393). -/
def opened (r : Req) (ms : List Nat) (s : State) : State :=
  let (places, msgs, s2) := ms.foldl (fun (acc : List Nat × List Nat × State) m =>
    let (wait, ids, t) := readPlacement m true acc.2.2
    (acc.1 ++ (if wait then [m] else []), acc.2.1 ++ ids, t)) ([], [], s)
  pump (settleWaits { s2 with fab := { s2.fab with
    replWaits := s2.fab.replWaits ++ [⟨r, 0x10, statusBody stOk, msgs, places, .answer⟩] } })

/-- SEQ_OPEN of a request. -/
def runSeqOpen (r : Req) (s : State) : State :=
  match reqPart s r with
  | none => s
  | some n =>
    let b := r.body
    let seq := fieldAt b 0 5
    match gate s n r 0x10 [seq] with
    | some (st, arg) => answer r 0x10 st arg s
    | none =>
      let ng := fieldAt b 8 1
      let flags := fieldAt b 9 1
      let recs := groupRecs b
      if !openBytesOk s n b then answer r 0x10 stFormat 0 s
      else
        let sorted := sortBy (fun a b => decide (a.group ≤ b.group)) recs
        if sorted.any fun g => keyExists s n (seqKey r.tenant seq g.group) then answer r 0x10 stNotPermitted 0 s
        else if dirFree s n < ng then answer r 0x10 stDirectoryFull 0 s
        else match openAll n (bitOf flags 0) (sorted.map (newDesc s n r.tenant seq r.arrival)) s with
          | none => answer r 0x10 stPoolFull 0 s
          | some (ms, s1) => opened r ms s1

/-! ### SEQ_CLOSE (R75) -/

/-- A list of layer groups after a head, with its zero padding (Tables 2.14 and 2.15). -/
def groupList (b : List Byte) (off n : Nat) : Option (List Nat) :=
  let gs := (List.range n).map fun i => fieldAt b (off + i) 1
  if n = 0 ∨ 16 < n ∨ b.length ≠ off + pad8 n ∨ !distinct gs ∨ !allZero (b.drop (off + n)) then none else some gs

/-- Searches the keys of a close: the MDB and address of each, or none for an evicted one. -/
def closeTargets (n tenant seq : Nat) : List Nat → State → Except Nat (List (BitVec 96 × Option (Nat × Nat))) × State
  | [], s => (.ok [], s)
  | g :: gs, s =>
    let key := seqKey tenant seq g
    match findKey n key s with
    | (.broken, s1) => (.error stDataLost, s1)
    | (.miss, s1) =>
      if (evictedKey s1 n key).isNone then (.error (if evictedLost s1 n then stDataLost else stNotPermitted), s1)
      else match closeTargets n tenant seq gs s1 with
        | (.ok xs, s2) => (.ok ((key, none) :: xs), s2)
        | (.error e, s2) => (.error e, s2)
    | (.hit m a _, s1) =>
      match desc? s1 m with
      | some d =>
        if d.replica then (.error stStaleMap, s1)
        else match closeTargets n tenant seq gs s1 with
          | (.ok xs, s2) => (.ok ((key, some (m, a)) :: xs), s2)
          | (.error e, s2) => (.error e, s2)
      | none => (.error stDataLost, s1)

/-- The layer groups of a SEQ_CLOSE body; none for a reserved encoding. -/
def closeGroups (b : List Byte) : Option (List Nat) :=
  if b.length < 16 ∨ fieldAt b 5 3 ≠ 0 ∨ !allZero (sliceBytes b 9 7) then none else groupList b 16 (fieldAt b 8 1)

/-- The sequences of a SEQ_CLOSE are released: an evicted key is deleted, a descriptor closed with its key (R75). -/
def closeAll (n : Nat) (xs : List (BitVec 96 × Option (Nat × Nat))) (s : State) : State :=
  xs.foldl (fun s x => match x.2 with
    | none => closeEvicted n x.1 s
    | some (m, a) => closeDesc m (dirDelete a s)) s

/-- A SEQ_CLOSE of the source of a clone waits until that ends (R67). -/
def holdClose (w : CloneWait) (r : Req) (s : State) : State :=
  { s with fab := { s.fab with clones := s.fab.clones.map fun x => if x = w then { x with closes := x.closes ++ [r] } else x } }

/-- SEQ_CLOSE of a request. -/
def runSeqClose (r : Req) (s : State) : State :=
  match reqPart s r with
  | none => s
  | some n =>
    let b := r.body
    let seq := fieldAt b 0 5
    match gate s n r 0x11 [seq] with
    | some (st, arg) => answer r 0x11 st arg s
    | none =>
      match closeGroups b with
        | none => answer r 0x11 stFormat 0 s
        | some gs =>
          match closeTargets n r.tenant seq gs s with
          | (.error st, s1) => answer r 0x11 st 0 s1
          | (.ok xs, s1) =>
            match s1.fab.clones.find? fun w => xs.any fun x => (x.2.any fun y => w.srcs.contains y.1) with
            | some w => holdClose w r s1
            | none => respond r 0x11 stOk 0 (statusBody stOk) (closeAll n xs s1)

/-! ### SEQ_CLONE (R65 to R67, R76) -/

/-- The page of an entry is closed (R65): a later page follows it, or it is an uncoded page with NTOK = T. The pages of an open
tail are not seen (R220). -/
def pageClosed (st : Stream) (j : Nat) (e : PageEntry) : Bool :=
  (st.entries.drop (j + 1)).any (fun x => !x.spec) || (!fmtCoded st.fmt && e.ntok == st.tokPerPage)

/-- Runs of an ascending list of positions. -/
def runsOf : List Nat → List (Nat × Nat)
  | [] => []
  | p :: ps =>
    match runsOf ps with
    | (a, b) :: rest => if a = p + 1 then (p, b) :: rest else (p, p + 1) :: (a, b) :: rest
    | [] => [(p, p + 1)]

/-- The positions that an entry of a stream holds, as runs. -/
def entryViews (st : Stream) (j : Nat) (e : PageEntry) : List (Nat × Nat) :=
  if st.ring then
    let lo := max st.sinks (st.tokens - st.window)
    runsOf (((List.range (min st.sinks st.tokens)) ++ (List.range (st.tokens - lo)).map (lo + ·)).filter fun p => (placeOf st p).1 == j)
  else [(firstPosOf st j, firstPosOf st j + entryRows e)]

/-- A ROWCOPY for a clone is queued in its pseudo-channel (R66). -/
def queueCopy (c : PageCopy) (s : State) : State :=
  let cmd : RowCmd :=
    { op := if pageBg c.src = pageBg c.dst then .copySame else .copyOther, issuer := .clone, srcBg := pageBg c.src,
      srcRow := pageRow c.src, dstBg := pageBg c.dst, dstRow := pageRow c.dst }
  updPc (pagePc c.dst) (fun y => { y with rowQ := y.rowQ ++ [cmd] }) { s with fab := { s.fab with copies := s.fab.copies ++ [c] } }

/-- A page of the source is copied into a page of the clone (R66): by ROWCOPY within its pseudo-channel, which is queued, or else by
the page mover. -/
def copyEntry (m i j newM ntok serial : Nat) (s : State) : Option (PageEntry × State) :=
  match desc? s m with
  | none => none
  | some d =>
    match d.streams[i]? with
    | none => none
    | some st =>
      match st.entries[j]? with
      | none => none
      | some e =>
        let l := locOf s d e
        if l.swapped then none else
        let exc := excOf s st e
        let there := if d.conf then none else allocPageIn d.part (pagePc l.page) exc s
        let got := match there with
          | some x => some x
          | none => allocPage d.part (pageRotation s d.part newM i j) exc s
        match got with
        | none => none
        | some (p, s1) =>
          let e' : PageEntry :=
            { page := p, fmt := e.fmt, excGen := e.excGen, keySlot := allocSlot s d.part, ntok := ntok, serial := serial }
          let new := match desc? s1 newM with | some x => x | none => d
          let l' := locOf s1 new e'
          let off := (codedRowOff (e.fmt == 3) e.excGen (fun k g => tableRec s d.part k g) (st.elems / 64) ntok
            (codedBytes s d.part l)).getD 0
          let trailer := if fmtCoded e.fmt then some (leBytes 2 (off / 4) ++ leBytes 2 (ntok * (st.elems / 64))) else none
          if there.isSome then
            some (e', queueCopy ⟨l.page, p, newM, m, i, st.ring, entryViews st j e, trailer⟩ s1)
          else
            let s2 := chargeReads d.part pageSize (pageWrite d.part l' 0 (pageRead s d.part l 0 pageSize) s1)
            some (e', match trailer with | some t => pageWrite d.part l' trailerOff t s2 | none => s2)

/-- What the clone takes of one page entry: shared, copied, or carried over as LOST. -/
inductive Carry where
  | share
  | copy (ntok : Nat)
  deriving DecidableEq, Repr

/-- The entries of a stream that a clone at `n` refers to, with what becomes of each (R65). -/
def carried (st : Stream) (n : Nat) : List (Nat × Carry) :=
  if st.ring then
    st.entries.zipIdx.map fun x =>
      (x.2, .copy (if decide (0 < st.sinks) && x.2 == 0 then min x.1.ntok n else x.1.ntok))
  else
    (st.entries.zipIdx.filter fun x => decide (firstPosOf st x.2 < n)).map fun x =>
      let f := firstPosOf st x.2
      if pageClosed st x.2 x.1 && decide (f + x.1.ntok ≤ n) then (x.2, .share) else (x.2, .copy (min x.1.ntok (n - f)))

/-- Forms the entries of one stream of the clone: the entries, the next serial, pages shared and copied. -/
def cloneEntries (m i newM : Nat) : List (Nat × Carry) → Nat → State → Option ((List PageEntry × Nat × Nat × Nat) × State)
  | [], serial, s => some (([], serial, 0, 0), s)
  | (j, c) :: rest, serial, s =>
    match desc? s m with
    | none => none
    | some d =>
      match (d.streams[i]?).bind (·.entries[j]?) with
      | none => none
      | some e =>
        let plain : PageEntry := { e with spec := false, specRows := 0, repl := 0, fetching := false }
        let keep := match c with | .share => e.ntok | .copy k => k
        let lost := (locOf s d e).lost
        let one : Option (PageEntry × Nat × Nat × Nat × State) :=
          if lost && !e.shared then some ({ plain with ntok := keep, lost := true }, serial, 0, 0, s)
          else
            let shared := if c = .share || lost then shareEntry m i j s else none
            match shared with
            | some (k, s1) => some ({ plain with shared := true, refIdx := k, ntok := keep }, serial, 1, 0, s1)
            | none =>
              if lost then some ({ plain with ntok := keep, lost := true, shared := false }, serial, 0, 0, s)
              else (copyEntry m i j newM keep serial s).map fun x => (x.1, serial + 1, 0, 1, x.2)
        match one with
        | none => none
        | some (e', serial', sh, cp, s1) =>
          match cloneEntries m i newM rest serial' s1 with
          | none => none
          | some ((es, serial'', sh', cp'), s2) => some ((e' :: es, serial'', sh + sh', cp + cp'), s2)

/-- TAIL of the last page of a coded copy, which a ROWCOPY may still have to bring. -/
def copiedEnd (s : State) (d : Desc) (e : PageEntry) : Nat :=
  match (s.fab.copies.find? fun c => !e.shared && c.dst == e.page).bind (·.trailer) with
  | some t => fieldAt t 0 2
  | none => fieldAt (pageRead s d.part (locOf s d e) trailerOff 2) 0 2

/-- Forms every stream of the clone of `m` at `n` tokens. H of the clone's ring takes in the source's (DESIGN CHOICE, log 38). -/
def cloneStreams (m newM n : Nat) : List (Stream × Nat) → Nat → State → Option ((List Stream × Nat × Nat × Nat) × State)
  | [], serial, s => some (([], serial, 0, 0), s)
  | (st, i) :: rest, serial, s =>
    match cloneEntries m i newM (carried st n) serial s with
    | none => none
    | some ((es, serial', sh, cp), s1) =>
      match allocChainMdbs ((desc? s newM).elim 0 (·.part)) newM (plbCount es.length) s1 with
      | none => none
      | some (plbs, s2) =>
        let specEnd := match es.getLast?, fmtCoded st.fmt, (desc? s2 newM) with
          | some e, true, some d => if e.lost then 0 else copiedEnd s2 d e
          | _, _, _ => 0
        let st' := { st with entries := es, plbs := plbs, tokens := n, ringHigh := if st.ring then max n st.ringHigh else 0,
                             specEnd := specEnd }
        match cloneStreams m newM n rest serial' s2 with
        | none => none
        | some ((sts, serial'', sh', cp'), s3) => some ((st' :: sts, serial'', sh + sh', cp + cp'), s3)

/-- The clone of one descriptor under a new sequence ID, without a key as yet: its MDB and its counts. -/
def cloneDesc (m n newSeq arrival : Nat) (s : State) : Option ((Nat × Nat × Nat) × State) :=
  match desc? s m with
  | none => none
  | some d =>
    let loss := d.loss && decide (d.lostFirst < n)
    let empty : Desc :=
      { tenant := d.tenant, layerGroup := d.layerGroup, part := d.part, seqId := newSeq, conf := d.conf, created := arrival,
        lastUse := arrival, loss := loss, lostFirst := if loss then d.lostFirst else 0,
        lostEnd := if loss then min d.lostEnd n else 0,
        streams := d.streams.map fun st => { st with entries := [], plbs := [], tokens := 0, specEnd := 0 } }
    match placeBlocks d.part empty s with
    | none => none
    | some (newM, s1) =>
      match cloneStreams m newM n d.streams.zipIdx 0 s1 with
      | none => none
      | some ((sts, serial, sh, cp), s2) =>
        some ((newM, sh, cp), updDesc newM (fun x => { x with streams := sts, serialNext := serial }) s2)

/-- Clones every descriptor of a list: new MDBs, pages shared and copied. -/
def cloneAll (n newSeq arrival : Nat) : List Nat → State → Option ((List Nat × Nat × Nat) × State)
  | [], s => some (([], 0, 0), s)
  | m :: ms, s =>
    match cloneDesc m n newSeq arrival s with
    | none => none
    | some ((k, sh, cp), s1) =>
      match cloneAll n newSeq arrival ms s1 with
      | none => none
      | some ((ks, sh', cp'), s2) => some ((k :: ks, sh + sh', cp + cp'), s2)

/-- PREFIX is within what R65 permits of a descriptor. -/
def cloneable (d : Desc) (n : Nat) : Bool :=
  decide (n ≤ minTokens d) && d.streams.all fun st =>
    !st.ring || decide (n ≤ st.sinks) || decide (st.ringHigh ≤ max st.sinks (n - st.window) + ringSpan st)

/-- The pages that a clone of `m` copies, and the state in which it has shared the others: a page that R61 cannot share is copied
(R61, R65). -/
def cloneCopies (n m : Nat) (s : State) : List (Nat × Nat × PageEntry) × State :=
  match desc? s m with
  | none => ([], s)
  | some d =>
    (d.streams.zipIdx.flatMap fun x => (carried x.1 n).map fun c => (x.2, c)).foldl (fun (a : List (Nat × Nat × PageEntry) × State) c =>
      match (d.streams[c.1]?).bind (·.entries[c.2.1]?) with
      | none => a
      | some e =>
        let lost := (locOf a.2 d e).lost
        if lost && !e.shared then a
        else match (if c.2.2 = .share || lost then shareEntry m c.1 c.2.1 a.2 else none) with
          | some (_, s1) => (a.1, s1)
          | none => if lost then a else (a.1 ++ [(c.1, c.2.1, e)], a.2)) ([], s)

/-- The pages that the clones of a list of descriptors copy. -/
def clonesCopy (n : Nat) : List Nat → State → List (Nat × List (Nat × Nat × PageEntry))
  | [], _ => []
  | m :: ms, s => match cloneCopies n m s with | (ps, s1) => (m, ps) :: clonesCopy n ms s1

/-- A descriptor with a page that a clone must copy and that is being fetched from the replica. -/
def cloneFetching (n : Nat) (ms : List Nat) (s : State) : Option Nat :=
  ((clonesCopy n ms s).find? fun x => x.2.any fun y => y.2.2.fetching).map (·.1)

/-- A descriptor with pages that a clone must copy and that are swapped out. -/
def cloneMissing (n : Nat) (ms : List Nat) (s : State) : Option (Nat × List (Nat × Nat)) :=
  firstSome (fun (x : Nat × List (Nat × Nat × PageEntry)) =>
    match desc? s x.1 with
    | none => none
    | some d =>
      let gone := x.2.filter fun y => (locOf s d y.2.2).swapped
      if gone.isEmpty then none else some (x.1, gone.map fun y => (y.1, y.2.1))) (clonesCopy n ms s)

/-- The sources of a clone by layer group, or the state in which the request has ended. -/
def cloneSources (r : Req) (n seq : Nat) : List Nat → State → Except State (List Nat × State)
  | [], s => .ok ([], s)
  | g :: gs, s =>
    match nameSeq r 0x12 n seq g s with
    | .ended s1 => .error s1
    | .found m _ s1 =>
      match cloneSources r n seq gs s1 with
      | .error s2 => .error s2
      | .ok (ms, s2) => .ok (m :: ms, s2)

/-- The layer groups of a SEQ_CLONE body; none for a reserved encoding. -/
def cloneGroups (b : List Byte) : Option (List Nat) :=
  if b.length < 24 ∨ fieldAt b 5 3 ≠ 0 ∨ fieldAt b 0xD 3 ≠ 0 ∨ 2 ≤ fieldAt b 0x15 1 ∨ fieldAt b 0x16 2 ≠ 0 then none
  else groupList b 24 (fieldAt b 0x14 1)

/-- Staged copies of the pages that a clone copies are confirmed (R228). -/
def confirmClone (epoch n : Nat) (ms : List Nat) (s : State) : State :=
  (clonesCopy n ms s).foldl (fun s x => x.2.foldl (fun s y => confirmStaged epoch x.1 y.1 y.2.1 s) s) s

/-- The requests that waited for the end of a clone are taken up. -/
def afterClone (w : CloneWait) (s : State) : State := w.closes.foldl (fun s r => runSeqClose r s) s

/-- A clone ends with a status other than OK: its new descriptors, their pages and the copies still to make go. -/
def dropClone (w : CloneWait) (st : Nat) (s : State) : State :=
  let mine := s.fab.copies.filter fun c => w.news.any fun x => x.1 == c.mdb
  let dead : Nat → RowCmd → Bool := fun g r =>
    r.issuer == .clone && mine.any fun c => c.dst == g * pcPages + 4 * r.dstRow + r.dstBg
  let s1 := { s with
    fab := { s.fab with copies := s.fab.copies.filter fun c => !mine.contains c, clones := s.fab.clones.filter fun x => x != w }
    mem := { s.mem with pcs := s.mem.pcs.map fun x =>
      (x.1, { x.2 with rowQ := x.2.rowQ.filter fun r => !dead x.1 r, next := x.2.next.filter fun r => !dead x.1 r }) } }
  let s2 := w.news.foldl (fun s x => closeDesc x.1 s) (mine.foldl (fun s c => settleHeld c.src s) s1)
  afterClone w (answer w.req 0x12 st 0 s2)

/-- A clone whose copies are made: its keys become visible, its placements are read and the counts answered (R67, R76). A key that has
come to be, or a directory that has filled, since it began ends it without effect. -/
def publishClone (w : CloneWait) (s : State) : State :=
  if w.news.any fun x => keyExists s w.part x.2.1 then dropClone w stNotPermitted s
  else if dirFree s w.part < w.news.length then dropClone w stDirectoryFull s
  else
    let s1 := { s with fab := { s.fab with clones := s.fab.clones.filter fun x => x != w } }
    let s2 := w.news.foldl (fun s x => match dirInsert w.part x.2.1 8 (seqData x.1 x.2.2) s with | some (_, t) => t | none => s) s1
    let s3 := w.news.foldl (fun s x => (readPlacement x.1 false s).2.2) s2
    afterClone w (noteFree w.part
      (pump (respond w.req 0x12 stOk 0 (leBytes 4 stOk ++ leBytes 4 w.shared ++ leBytes 4 w.copied ++ zeroBytes 4) s3)))

/-- Copies of the clone are still to be made. -/
def cloneBusy (s : State) (w : CloneWait) : Bool := s.fab.copies.any fun c => w.news.any fun x => x.1 == c.mdb

/-- Clones whose last copy is made end. -/
def finishClones (s : State) : State :=
  (s.fab.clones.filter fun w => !cloneBusy s w).foldl (fun s w => publishClone w s) s

/-- A copy stands in its target page: the trailer of a coded copy follows, and the clone may end. -/
def copyMade (c : PageCopy) (s : State) : State :=
  let s1 := match c.trailer with | some t => hbmWrite (pageAddr c.dst + trailerOff) t s | none => s
  finishClones (settleHeld c.src { s1 with fab := { s1.fab with copies := s1.fab.copies.filter fun x => x != c } })

/-- The page mover makes a copy, in place of ROWCOPY (R202). -/
def moverCopy (c : PageCopy) (s : State) : State :=
  let part := match mfind s.pages c.dst with | some r => r.part | none => 64
  copyMade c (chargeReads part pageSize (hbmWrite (pageAddr c.dst) (hbmRead s (pageAddr c.src) pageSize) s))

/-- A source page of a clone cannot be read: its positions are recorded (R44), and the clone is answered DATA_LOST (R202). -/
def failClone (c : PageCopy) (s : State) : State :=
  let lo := (c.views.map (·.1)).foldl min 0xFFFFFFFF
  let hi := (c.views.map (·.2)).foldl max 0
  let s1 := if lo < hi then recordLost c.from_ lo hi (some c.src) s else s
  match s1.fab.clones.find? fun w => w.news.any fun x => x.1 == c.mdb with
  | some w => dropClone w stDataLost s1
  | none => s1

/-- A clone begins: it ends at once where no ROWCOPY has to be waited for. -/
def startClone (w : CloneWait) (s : State) : State :=
  if cloneBusy s w then { s with fab := { s.fab with clones := s.fab.clones ++ [w] } } else publishClone w s

/-- A clone that is under way will bring a key. -/
def cloningKey (s : State) (n : Nat) (key : BitVec 96) : Bool :=
  s.fab.clones.any fun w => w.part == n && w.news.any fun x => x.2.1 == key

/-- SEQ_CLONE of a request. -/
def runSeqClone (r : Req) (s : State) : State :=
  match reqPart s r with
  | none => s
  | some n =>
    let b := r.body
    let src := fieldAt b 0 5
    let new := fieldAt b 8 5
    match gate s n r 0x12 [src, new] with
    | some (st, arg) => answer r 0x12 st arg s
    | none =>
      let prefix_ := fieldAt b 0x10 4
      let flags := fieldAt b 0x15 1
      match cloneGroups b with
        | none => answer r 0x12 stFormat 0 s
        | some gs =>
          match cloneSources r n src gs s with
          | .error s1 => s1
          | .ok (ms, s1) =>
            let ok := ms.all fun m => match desc? s1 m with | some d => cloneable d prefix_ | none => false
            if !ok ∨ gs.any (fun g => keyExists s1 n (seqKey r.tenant new g) || cloningKey s1 n (seqKey r.tenant new g)) then answer r 0x12 stNotPermitted 0 s1
            else if dirFree s1 n < gs.length then answer r 0x12 stDirectoryFull 0 s1
            else match cloneFetching prefix_ ms s1 with
              | some m => answerUnavailable r 0x12 m s1
              | none =>
                let s1 := confirmClone r.epoch prefix_ ms s1
                match cloneMissing prefix_ ms s1 with
                | some (m, ps) => fault r 0x12 m ps none s1
                | none =>
                  match cloneAll prefix_ new r.arrival ms s1 with
                  | none => answer r 0x12 stPoolFull 0 s1
                  | some ((ks, sh, cp), s2) =>
                    startClone ⟨r, n, ms, (ks.zip gs).map fun x => (x.1, seqKey r.tenant new x.2, bitOf flags 0), sh, cp, []⟩ s2

/-! ### PREFIX_LOOKUP (R93 to R95, R64) -/

/-- A swapped page that a lookup finds is staged for the target's stream (R95, R226). -/
def stageRef (n m i idx : Nat) (r : RefEntry) (s : State) : State :=
  let j := match (desc? s m).bind (·.streams[i]?) with | some st => st.entries.length | none => 0
  (stageLoc n m i (pageRotation s n m i j) (some idx) (locOfRef r) r.fmt r.excGen
    (fun s => freeSlotUsed n r.page (loseRef idx s)) s).2

/-- A lookup that would attach a swapped page meets a staged copy of it (R227). -/
def confirmRef (epoch n m idx : Nat) (r : RefEntry) (s : State) : State :=
  confirmLoc epoch n m (some idx) (locOfRef r) (if fmtCoded r.fmt then some (r.excSlot, r.excGen) else none)
    (fun p s => match mfind s.refs idx with
      | some x => { s with refs := mset s.refs idx { x with page := p, swapped := false } }
      | none => s) s

/-- The stream takes another page: its last page is closed, or it is empty (R64, R65). -/
def attachable (st : Stream) : Bool :=
  !st.ring && match st.entries.getLast? with
    | none => true
    | some e => !fmtCoded st.fmt && e.ntok == st.tokPerPage

/-- Attaches the page of a reference entry to a stream, or a copy of it (R61, R64); the status where no serial, page or MDB is left
for it (R48, R36). -/
def attachPage (m i idx : Nat) (s : State) : Except Nat State :=
  match (desc? s m).bind fun d => (d.streams[i]?).bind fun st => (mfind s.refs idx).map fun r => (d, st, r) with
  | none => .error stPoolFull
  | some (d, st, r) =>
    let j := st.entries.length
    if 0xFFFFFF ≤ r.refs ∧ 0xFFFFFFFF < d.serialNext + 1 then .error stPosLimit
    else match allocChainMdbs d.part m (plbCount (j + 1) - st.plbs.length) s with
    | none => .error stPoolFull
    | some (ms, s1) =>
      let tail := if fmtCoded r.fmt then fieldAt (pageRead s d.part (locOfRef r) trailerOff 2) 0 2 else st.specEnd
      let put := fun (e : PageEntry) (s : State) =>
        updStream m i (fun st => { st with entries := st.entries ++ [e], plbs := st.plbs ++ ms, tokens := st.tokens + e.ntok,
                                           specEnd := tail }) s
      if r.refs < 0xFFFFFF then
        .ok (put { page := 0, fmt := r.fmt, excGen := r.excGen, shared := true, refIdx := idx, ntok := r.ntok }
          { s1 with refs := mset s1.refs idx { r with refs := r.refs + 1 } })
      else
        match allocPage d.part (pageRotation s d.part m i j) (if fmtCoded r.fmt then some (r.excSlot, r.excGen) else none) s1 with
        | none => .error stPoolFull
        | some (p, s2) =>
          let e : PageEntry :=
            { page := p, fmt := r.fmt, excGen := r.excGen, keySlot := allocSlot s d.part, ntok := r.ntok, serial := d.serialNext }
          let s3 := chargeReads d.part pageSize (pageWrite d.part (locOf s2 d e) 0 (pageRead s d.part (locOfRef r) 0 pageSize) s2)
          .ok (put e (updDesc m (fun d => { d with serialNext := d.serialNext + 1 }) s3))

/-- Searches the hashes in order (R94, R95): the results and the indices attached, or the status that ends the lookup. Of the
swapped pages only the one at which attaching stops is staged (log 78). -/
def lookupHashes (epoch m i n tenant : Nat) : List Nat → Bool → State → Except Nat (List Nat × List Nat × State)
  | [], _, s => .ok ([], [], s)
  | h :: hs, on, s =>
    let go := fun (res : Nat) (att : List Nat) (on : Bool) (s : State) =>
      (lookupHashes epoch m i n tenant hs on s).map fun x => (res :: x.1, att ++ x.2.1, x.2.2)
    match (dirSearch s n (prefixKey tenant h)).bind fun x => (mfind s.refs (dataRef x.2.data.toNat)).map fun r => (x.1, dataRef x.2.data.toNat, r) with
    | none => go 0 [] false s
    | some (a, idx, r0) =>
      let free := on && match (desc? s m).bind (·.streams[i]?) with | some st => attachable st | none => false
      let s0 := if free then confirmRef epoch n m idx r0 s else s
      let r := (mfind s0.refs idx).getD r0
      if r.lost then go 0 [] false (dropPrefixKey n a idx s0)
      else if r.swapped then go 5 [] false (if on then stageRef n m i idx r s0 else s0)
      else if free then
        match attachPage m i idx s0 with
        | .error st => .error st
        | .ok s1 =>
          let j := match (desc? s1 m).bind (·.streams[i]?) with | some st => st.entries.length - 1 | none => 0
          go (3 + r.ntok * 8) [j] true s1
      else go (1 + r.ntok * 8) [] false s0

/-- A PREFIX_LOOKUP body with no reserved encoding (R93). -/
def lookupBytesOk (b : List Byte) : Bool :=
  let cnt := fieldAt b 0xC 2
  decide (24 ≤ b.length) && fieldAt b 5 3 == 0 && decide (fieldAt b 9 1 < 2) && decide (fieldAt b 0xA 2 < 2048) &&
    decide (1 ≤ cnt) && decide (cnt ≤ 64) && fieldAt b 0xE 2 == 0 && fieldAt b 0x14 4 == 0 && b.length == 24 + 8 * cnt

/-- A PREFIX_LOOKUP that searched its hashes: the attached pages go to the replicas, and the results are answered (R93). -/
def lookedUp (r : Req) (n m i : Nat) (res att : List Nat) (s : State) : State :=
  let sync := match desc? s m with | some d => syncTargets d | none => []
  let s1 := sync.foldl (fun s move => att.foldl (fun s j => (queuePage m i j move s).2) s) s
  let out := statusBody stOk ++ res.flatMap (leBytes 4)
  noteFree n (pump (respond r 0x13 stOk 0 (out ++ zeroBytes (pad8 out.length - out.length)) s1))

/-- The hashes of a PREFIX_LOOKUP. -/
def lookupList (b : List Byte) : List Nat := (List.range (fieldAt b 0xC 2)).map fun k => fieldAt b (24 + 8 * k) 8

/-- A PREFIX_LOOKUP attaches pages: MODE asks it, the descriptor has no tail, and POS is the stream's TOKENS (R94). -/
def lookupAttaches (b : List Byte) (d : Desc) (st : Stream) : Bool :=
  bitOf (fieldAt b 9 1) 0 && d.chrysalis.isNone && st.tokens == fieldAt b 0x10 4

/-- PREFIX_LOOKUP of a request. -/
def runPrefixLookup (r : Req) (s : State) : State :=
  match reqPart s r with
  | none => s
  | some n =>
    let b := r.body
    let seq := fieldAt b 0 5
    match gate s n r 0x13 [seq] with
    | some (st, arg) => answer r 0x13 st arg s
    | none =>
      let i := fieldAt b 0xA 2
      if !lookupBytesOk b then answer r 0x13 stFormat 0 s
      else match nameSeq r 0x13 n seq (fieldAt b 8 1) s with
        | .ended s1 => s1
        | .found m _ s1 =>
          match desc? s1 m with
          | none => s1
          | some d =>
            match d.streams[i]? with
            | none => answer r 0x13 stFormat 0 s1
            | some st =>
              match lookupHashes r.epoch m i n r.tenant (lookupList b) (lookupAttaches b d st) s1 with
              | .error e => answer r 0x13 e 0 s1
              | .ok (res, att, s2) => lookedUp r n m i res att s2

/-! ### SWAP_OUT and SWAP_IN (R357 to R359) -/

/-- Positions that a page of a ring stream holds. -/
def ringHolds (st : Stream) (j a b : Nat) : Bool :=
  let lo := max st.sinks (st.tokens - st.window)
  ((List.range (min st.sinks st.tokens)) ++ (List.range (st.tokens - lo)).map (lo + ·)).any fun p =>
    (placeOf st p).1 == j && decide (a ≤ p) && decide (p < b)

/-- The page of entry `j` is selected by [a, b) (R357). -/
def selected (st : Stream) (a b j : Nat) (e : PageEntry) : Bool :=
  if st.ring then ringHolds st j a b
  else decide (0 < e.ntok) && decide (a ≤ firstPosOf st j) && decide (firstPosOf st j + e.ntok ≤ b)

/-- The page entries of a descriptor that a range selects and `f` accepts, in page-list order. -/
def selectPages (d : Desc) (a b : Nat) (f : PageEntry → Bool) : List (Nat × Nat) :=
  d.streams.zipIdx.flatMap fun x => (x.1.entries.zipIdx.filter fun y => selected x.1 a b y.2 y.1 && f y.1).map fun y => (x.2, y.2)

/-- FIRST_POS and END_POS of a swap body; 0 selects every position. -/
def swapRange (b : List Byte) : Nat × Nat :=
  if fieldAt b 0x10 4 = 0 then (0, 2 ^ 32) else (fieldAt b 0xC 4, fieldAt b 0x10 4)

/-- HINT and SHARED of a swap body. -/
def swapHint (b : List Byte) : Bool := bitOf (fieldAt b 9 1) 0
def swapShared (b : List Byte) : Bool := bitOf (fieldAt b 9 1) 1

/-- A well-formed swap body: HINT belongs to SWAP_IN, SHARED to SWAP_OUT (R357). -/
def swapBodyOk (b : List Byte) (out : Bool) : Bool := b.length == 24 && !(if out then swapHint b else swapShared b)

/-- The 16-byte response of Table 12.9's requests. -/
def swapBody (st pages a b : Nat) : List Byte := leBytes 4 st ++ leBytes 4 pages ++ leBytes 4 a ++ leBytes 4 b

/-- The pages that a SWAP_OUT moves (R357). -/
def swapOutPages (s : State) (b : List Byte) (d : Desc) : List (Nat × Nat) :=
  selectPages d (swapRange b).1 (swapRange b).2 fun x =>
    let l := locOf s d x
    (swapShared b || !x.shared) && !l.swapped && !l.lost && !x.spec && !pageHasAcc s l.page

/-- The pages that a SWAP_IN brings back (R359). -/
def swapInPages (s : State) (b : List Byte) (d : Desc) : List (Nat × Nat) :=
  selectPages d (swapRange b).1 (swapRange b).2 fun x => (locOf s d x).swapped && !(locOf s d x).lost

/-- One of the pages is being fetched from the replica. -/
def anyFetching (d : Desc) (ps : List (Nat × Nat)) : Bool :=
  ps.any fun x => match (d.streams[x.1]?).bind (·.entries[x.2]?) with
    | some y => y.fetching
    | none => false

/-- Free swap slots of a partition for `k` pages; none without a swap area or where the host is not usable. -/
def swapSlotsFor (s : State) (n k : Nat) : List Nat :=
  match (part? s n).bind (·.swapArea) with
  | some t => if hostUsable s then freeSlots t k else []
  | none => []

/-- SWAP_OUT of a request. -/
def runSwapOut (r : Req) (s : State) : State :=
  match reqPart s r with
  | none => s
  | some n =>
    let b := r.body
    let seq := fieldAt b 0 5
    match gate s n r 0x20 [seq] with
    | some (st, arg) => answer r 0x20 st arg s
    | none =>
      if !swapBodyOk b true then answer r 0x20 stFormat 0 s
      else match nameSeq r 0x20 n seq (fieldAt b 8 1) s with
        | .ended s1 => s1
        | .found m _ s1 =>
          let s2 := finishDemands m s1
          match desc? s2 m with
          | none => s2
          | some d =>
            if d.chrysalis.isSome then answer r 0x20 stNotPermitted 0 s2
            else
              let ps := swapOutPages s2 b d
              let slots := swapSlotsFor s2 n ps.length
              if anyFetching d ps then answerUnavailable r 0x20 m s2
              else if slots.length < ps.length then answer r 0x20 stPoolFull 0 s2
              else respond r 0x20 stOk 0 (swapBody stOk ps.length 0 0) (swapOutAll m ps slots s2)

/-- Reads pages back one by one: how many came back, and whether one was lost. -/
def swapInAll (m : Nat) : List (Nat × Nat × Nat) → State → (Nat × Bool) × State
  | [], s => ((0, false), s)
  | (i, j, p) :: rest, s =>
    let (ok, s1) := swapInOne m i j p s
    let gone := match desc? s1 m with
      | some d => match (d.streams[i]?).bind (·.entries[j]?) with
        | some e => (locOf s1 d e).lost
        | none => true
      | none => true
    let (x, s2) := swapInAll m rest s1
    ((x.1 + bnat ok, x.2 || gone), s2)

/-- Stages pages one by one (HINT = 1): how many stagings started. -/
def stageAll (m : Nat) : List (Nat × Nat) → State → Nat × State
  | [], s => (0, s)
  | (i, j) :: rest, s =>
    let (ok, s1) := stageOne m i j s
    let (k, s2) := stageAll m rest s1
    (k + bnat ok, s2)

/-- SWAP_IN of a request. -/
def runSwapIn (r : Req) (s : State) : State :=
  match reqPart s r with
  | none => s
  | some n =>
    let b := r.body
    let seq := fieldAt b 0 5
    match gate s n r 0x21 [seq] with
    | some (st, arg) => answer r 0x21 st arg s
    | none =>
      if !swapBodyOk b false then answer r 0x21 stFormat 0 s
      else match nameSeq r 0x21 n seq (fieldAt b 8 1) s with
        | .ended s1 => s1
        | .found m _ s1 =>
          let hint := swapHint b
          let s2 := if hint then s1 else finishDemands m s1
          match desc? s2 m with
          | none => s2
          | some d =>
            let ps := swapInPages s2 b d
            if hint then
              let (k, s3) := stageAll m ps s2
              respond r 0x21 stOk 0 (swapBody stOk k 0 0) s3
            else match allocForSwap m ps s2 with
              | none => answer r 0x21 stPoolFull 0 s2
              | some (ps', s3) =>
                let ((k, lost), s4) := swapInAll m ps' s3
                if lost then
                  match desc? s4 m with
                  | some d' => noteFree n (respond r 0x21 stDataLost 0 (swapBody stDataLost k d'.lostFirst d'.lostEnd) s4)
                  | none => s4
                else noteFree n (respond r 0x21 stOk 0 (swapBody stOk k 0 0) s4)

end Sys2Proof.Machine
end

