-- ==== Sys2Proof/Machine/Append.lean ====
section
/-!
DEFINITION. Appends: KV_APPEND (R114 to R117), KV_APPEND_SPEC, SPEC_COMMIT and SPEC_ABORT (R213 to R225), and what holds
them (R57, R222, R225, R410).
-/

namespace Sys2Proof.Machine

open Sys2Proof

/-! ### What holds an append -/

/-- The views of page tasks, planned ones, stalled requests, waiting backward requests, and of the ring pages that clones have still to
copy (R67): the stream and the positions. -/
def viewsOf (s : State) (m : Nat) : List (Nat × Nat × Nat) :=
  ((s.accSets.filter fun a => a.mdb == m).flatMap fun a => (a.held ++ a.turn).flatMap (·.views)) ++
  ((s.fab.stalled.filter fun x => x.mdb == m).flatMap fun x => match x.seen with | some y => y.views | none => []) ++
  ((s.fab.copies.filter fun c => c.ring && c.from_ == m).flatMap fun c => c.views.map fun v => (c.stream, v.1, v.2)) ++
  (s.sched.tasks.flatMap fun x => if x.2.mdb = m then x.2.views.map fun v => (x.2.stream, v.1, v.2) else []) ++
    s.sched.jobs.flatMap fun x => x.2.plan.flatMap fun t => if t.mdb = m then t.views.map fun v => (t.stream, v.1, v.2) else []

/-- A row at a position of [a, b) of a stream is inside the view of a request in flight (R225), or lands on the ring slot
of a position inside one (R57). -/
def viewHolds (s : State) (m : Nat) (layer a b : Nat) : Bool :=
  match desc? s m with
  | none => false
  | some d =>
    (viewsOf s m).any fun v => match d.streams[v.1]? with
      | none => false
      | some st => st.layerIdx == layer &&
        ((decide (v.2.1 < b) && decide (a < v.2.2)) ||
          (st.ring && decide (max v.2.1 st.sinks < v.2.2) && decide (max v.2.1 st.sinks + ringSpan st < b) &&
            decide (a < v.2.2 + ringSpan st)))

/-- A change of the descriptor waits for its replication step (R222), or a rebuild holds its appends (R410). -/
def changePending (s : State) (m : Nat) : Bool :=
  s.fab.replWaits.any (changes m) ||
  (match desc? s m with
    | some d => d.repl.rbHold || (match d.moveRepl with | some x => x.rbHold | none => false)
    | none => false)

/-- The sequence and layer group that an append, commit or abort names. -/
def appendKey (r : Req) : Nat × Nat × Nat := (r.tenant, fieldAt r.body 0 5, fieldAt r.body 8 1)

/-- An earlier held request of the same descriptor waits. -/
def earlierHeld (s : State) (r : Req) : Bool := s.fab.heldAppends.any fun h => appendKey h.req == appendKey r

/-- The request waits; it is tried again by HELD_APPEND_RESUME. -/
def holdAppend (r : Req) (op : Nat) (s : State) : State :=
  { s with fab := { s.fab with heldAppends := s.fab.heldAppends ++ [⟨r, op⟩] } }

/-! ### The append body (Table 4.6) -/

/-- The 48-byte head of an append body. -/
structure AppendHead where
  seq : Nat
  lg : Nat
  layer : Nat
  count : Nat
  first : Nat
  fp32 : Bool
  interleaved : Bool
  nhash : Nat
  theta : F32
  rope : Nat
  tag : Nat
  param : Nat
  deriving DecidableEq, Repr

def appendHead (b : List Byte) : AppendHead :=
  { seq := fieldAt b 0 5, lg := fieldAt b 8 1, layer := fieldAt b 9 1 % 16, count := fieldAt b 0xA 2, first := fieldAt b 0xC 4,
    fp32 := bitOf (fieldAt b 0x10 1) 0, interleaved := bitOf (fieldAt b 0x10 1) 1, nhash := fieldAt b 0x12 2,
    theta := BitVec.ofNat 32 (fieldAt b 0x14 4), rope := fieldAt b 0x18 2, tag := fieldAt b 0x20 8,
    param := fieldAt b 0x28 8 }

/-- WINDOW of SPEC_PARAM is inside its range (Table 7.1). -/
def windowOk (w : Nat) : Bool := w == 0 || (1000 ≤ w && w ≤ 1000000000)

/-- What the bytes of an append decide alone (order 1 of Table 4.11). -/
def appendBytesOk (spec : Bool) (b : List Byte) : Bool :=
  let h := appendHead b
  decide (48 + 16 * h.nhash ≤ b.length) && decide (1 ≤ h.count) && decide (h.count ≤ (if spec then 16 else 4096)) &&
  decide (h.nhash ≤ (if spec then 0 else 64)) && h.rope % 2 == 0 && decide (h.rope ≤ 256) &&
  (if spec then h.tag != 0 && windowOk (h.param % 2 ^ 32) else h.tag == 0 && h.param == 0)

/-- HASH_ENT: stream, END_POS and hash. -/
def appendHashes (b : List Byte) : List (Nat × Nat × Nat) :=
  (List.range (fieldAt b 0x12 2)).map fun j =>
    (fieldAt b (48 + 16 * j) 2, fieldAt b (48 + 16 * j + 4) 4, fieldAt b (48 + 16 * j + 8) 8)

/-- The rotary elements of a stream's rows, and where they start (R120, R124). -/
def rotaryOf (st : Stream) (rope : Nat) : Nat × Nat :=
  match st.kind with
  | .keys => (rope, 0)
  | .values => (0, 0)
  | .latent => (st.ropeElems, st.elems - st.ropeElems)

/-- An FP32 rotary base is finite and greater than 1. -/
def thetaOk (w : F32) : Bool := !f32Bad w && fLt 0x3F800000#32 w

/-- Words of a query, gradient or row array: FP32, or BF16 made FP32. -/
def elemWords (fp32 : Bool) (bs : List Byte) : List F32 :=
  if fp32 then (chunks 4 bs.length bs).map fun x => BitVec.ofNat 32 (leNat x)
  else (chunks 2 bs.length bs).map fun x => f32OfBf16 (leNat x)

/-- The rows of one stream in an append's data, rotated where the stream stores rotated keys (R117). -/
def appendRows (h : AppendHead) (st : Stream) (data : List Byte) : List (List F32) :=
  let sz := st.elems * (if h.fp32 then 4 else 2)
  let (n, start) := rotaryOf st h.rope
  ((chunks sz h.count data).zipIdx).map fun x =>
    let row := elemWords h.fp32 x.1
    if st.ropeStored && n != 0 then rotateRow false h.interleaved h.theta start n (h.first + x.2) row else row

/-- The rows of every stream of a layer. -/
def layerRows (h : AppendHead) (d : Desc) : List Nat → List Byte → List (Nat × List (List F32))
  | [], _ => []
  | i :: is, data =>
    match d.streams[i]? with
    | none => []
    | some st =>
      let sz := h.count * st.elems * (if h.fp32 then 4 else 2)
      (i, appendRows h st (data.take sz)) :: layerRows h d is (data.drop sz)

/-- Bytes of DATA that the layer's geometry implies (R107). -/
def appendDataLen (h : AppendHead) (d : Desc) : Nat :=
  ((layerStreams d h.layer).map fun i => match d.streams[i]? with
    | some st => h.count * st.elems * (if h.fp32 then 4 else 2)
    | none => 0).sum

/-- Geometry of an append at order 3 of Table 4.11: layer, body length, ROPE_ELEMS and, where it rotates, ROPE_THETA. -/
def appendGeometry (h : AppendHead) (d : Desc) (len : Nat) : Bool :=
  let sts := (layerStreams d h.layer).filterMap (d.streams[·]?)
  decide (h.layer < layerCount d) && len == 48 + 16 * h.nhash + appendDataLen h d &&
  (sts.all fun st => if st.kind = .latent then h.rope == 0 else decide (h.rope ≤ st.elems)) &&
  (thetaOk h.theta || !(sts.any fun st => st.ropeStored && (rotaryOf st h.rope).1 != 0))

/-- The plans of an append for each stream of its layer. -/
def appendPlans (s : State) (h : AppendHead) (d : Desc) (rows : List (Nat × List (List F32))) : List (Nat × StreamPlan) :=
  rows.filterMap fun x => (d.streams[x.1]?).map fun st => (x.1, planStream s d st h.first x.2)

/-- A coded stream needs a new page under a table slot of another CLASS (R176). -/
def wrongClass (s : State) (d : Desc) (plans : List (Nat × StreamPlan)) : Bool :=
  plans.any fun x => match d.streams[x.1]? with
    | some st => fmtCoded st.fmt && x.2.newPages != 0 && !tableFits s d.part st.fmt st.excTable
    | none => false

/-- The page entries that an append writes rows into and that exist before it. -/
def writtenEntries (d : Desc) (plans : List (Nat × StreamPlan)) : List (Nat × Nat) :=
  plans.flatMap fun x => match d.streams[x.1]? with
    | some st => ((x.2.puts.map (·.entry)).filter fun j => decide (j < st.entries.length)).dedup.map fun j => (x.1, j)
    | none => []

/-- What stands in the way of an append after its position checks (orders 6 to 8, 10 and 11), or the pages and MDBs it
needs, allocated. -/
def appendSpace (r : Req) (op m : Nat) (plans : List (Nat × StreamPlan)) (touched : List (Nat × Nat)) (full : Bool) (s : State) :
    Except State State :=
  let s1 := touched.foldl (fun s x => confirmStaged r.epoch m x.1 x.2 s) s
  match desc? s1 m with
  | none => .error s1
  | some d =>
    let ents := touched.filterMap fun x => ((d.streams[x.1]?).bind (·.entries[x.2]?)).map fun e => (x, e)
    if ents.any fun x => (locOf s1 d x.2).lost && !x.2.fetching then .error (answerLost r op m s1)
    else if ents.any fun x => x.2.fetching then .error (answerUnavailable r op m s1)
    else
      let gone := ents.filter fun x => (locOf s1 d x.2).swapped
      if !gone.isEmpty then .error (fault r op m (gone.map (·.1)) none s1)
      else if full then .error (answer r op stSpecFull 0 s1)
      else if 0xFFFFFFFF < d.serialNext + (plans.map fun x => x.2.newPages).sum then .error (answer r op stPosLimit 0 s1)
      else match allocPlans m true plans s1 with
        | none => .error (answer r op stPoolFull 0 s1)
        | some s2 => .ok s2

/-- Writes the rows of every plan as uncommitted ones. -/
def writeRows (m p0 count : Nat) (old : List (Nat × Nat)) (plans : List (Nat × StreamPlan)) (s : State) : State :=
  plans.foldl (fun s x =>
    let len := match old.find? (fun y => y.1 == x.1) with | some (_, k) => k | none => 0
    writePlan m x.1 p0 count true len x.2 s) s

/-- Chain lengths of a layer's streams. -/
def chainLens (d : Desc) (layer : Nat) : List (Nat × Nat) :=
  (layerStreams d layer).map fun i => (i, match d.streams[i]? with | some st => st.entries.length | none => 0)

/-- Counts of every conversion of an append. -/
def countPlans (n : Nat) (plans : List (Nat × StreamPlan)) (s : State) : State :=
  countConv n (plans.foldl (fun c x => c.add x.2.conv) {}) s

/-! ### KV_APPEND (R115) -/

/-- The rows of a KV_APPEND are in their pages `s`: the counts, and the step that commits them (R115, R389). -/
def appended (r : Req) (n m : Nat) (h : AppendHead) (d : Desc) (plans : List (Nat × StreamPlan)) (s : State) : State :=
  let old := chainLens d h.layer
  let s1 := countPlans n plans (writeRows m h.first h.count old plans s)
  let pubs := match desc? s1 m with
    | some d' => closingPages d' old h.first h.count (appendHashes r.body)
    | none => []
  startStep r 4 (statusBody stOk) m h.first h.count [h.layer] (.append m h.layer (h.first + h.count) pubs) (noteFreeOf r n s1)

/-- The plans of an append's rows. -/
def plansOf (s : State) (h : AppendHead) (d : Desc) (b : List Byte) : List (Nat × StreamPlan) :=
  appendPlans s h d (layerRows h d (layerStreams d h.layer) (b.drop (48 + 16 * h.nhash)))

/-- KV_APPEND of a request; `resumed`: it was held before. -/
def runKvAppend (resumed : Bool) (r : Req) (s : State) : State :=
  match reqPart s r with
  | none => s
  | some n =>
    let b := r.body
    let h := appendHead b
    match gate s n r 4 [h.seq] with
    | some (st, arg) => answer r 4 st arg s
    | none =>
      if !appendBytesOk false b then answer r 4 stFormat 0 s
      else match nameSeq r 4 n h.seq h.lg s with
        | .ended s1 => s1
        | .found m _ s1 =>
          match desc? s1 m with
          | none => s1
          | some d =>
            if (!resumed && earlierHeld s1 r) || changePending s1 m then holdAppend r 4 s1
            else if !appendGeometry h d b.length then answer r 4 stFormat 0 s1
            else
              let plans := plansOf s1 h d b
              let sts := (layerStreams d h.layer).filterMap (d.streams[·]?)
              if wrongClass s1 d plans then answer r 4 stFormat 0 s1
              else if 0xFFFFFFFF < h.first + h.count then answer r 4 stPosLimit 0 s1
              else if d.chrysalis.isSome || sts.any (fun st => st.tokens != h.first) then answer r 4 stNotPermitted 0 s1
              else if viewHolds s1 m h.layer h.first (h.first + h.count) then holdAppend r 4 s1
              else match appendSpace r 4 m plans (writtenEntries d plans) false s1 with
                | .error s2 => s2
                | .ok s2 => appended r n m h d plans s2

/-! ### KV_APPEND_SPEC (R214 to R217) -/

/-- The tag that a failed tail left is that of the request (Table 14.4): the request is answered and the tag cleared. -/
def keptTagAnswer (r : Req) (op m tag : Nat) (s : State) : Option State :=
  match desc? s m with
  | none => none
  | some d =>
    if tag = 0 ∨ d.repl.keptTag ≠ tag then none
    else some (answerUnavailable r op m (updDesc m (fun d => { d with repl := { d.repl with keptTag := 0 } }) s))

/-- WINDOW in force: the partition's default for 0 (Table 7.6). -/
def windowNs (s : State) (n w : Nat) : Nat :=
  if w ≠ 0 then w
  else
    let v := bitsOf (regWord s (0x01805000 + n * 0x20)) 31 0
    if v < 1000 ∨ 1000000000 < v then 10000000 else v

/-- Steps 2 and 3 of R215. -/
def specPosOk (d : Desc) (h : AppendHead) : Bool :=
  match d.chrysalis with
  | none => d.streams.all fun st => st.tokens == h.first
  | some c => d.specTag == h.tag && h.first == c.base + c.counts.getD h.layer 0

/-- The tail after an accepted append. -/
def growTail (m n arrival : Nat) (h : AppendHead) (s : State) : State :=
  match desc? s m with
  | none => s
  | some d =>
    match d.chrysalis with
    | some c =>
      updDesc m (fun d => { d with chrysalis := some { c with counts := c.counts.set h.layer (c.counts.getD h.layer 0 + h.count) } }) s
    | none =>
      let zero := List.replicate (layerCount d) 0
      updPart n (fun p => { p with specOpened := sat32 (p.specOpened + 1) })
        (updDesc m (fun d =>
          { d with chrysalis := some { base := h.first, counts := zero.set h.layer h.count }
                   specTag := h.tag
                   specDeadline := arrival + windowNs s n (h.param % 2 ^ 32) }) s)

/-- The rows of a KV_APPEND_SPEC are in their pages `s`: the tail grows and the request is answered (R215). -/
def appendedSpec (r : Req) (n m : Nat) (h : AppendHead) (d : Desc) (plans : List (Nat × StreamPlan)) (s : State) : State :=
  let s1 := growTail m n r.arrival h (countPlans n plans (writeRows m h.first h.count (chainLens d h.layer) plans s))
  noteFree n (respond r 5 stOk 0 (statusBody stOk)
    (chargeAt n r.arrival (fun c => { c with appendTokens := sat64 (c.appendTokens + h.count) }) s1))

/-- Uncommitted tokens of a layer. -/
def tailCount (d : Desc) (layer : Nat) : Nat := match d.chrysalis with | some c => c.counts.getD layer 0 | none => 0

/-- KV_APPEND_SPEC of a request. -/
def runKvAppendSpec (resumed : Bool) (r : Req) (s : State) : State :=
  match reqPart s r with
  | none => s
  | some n =>
    let b := r.body
    let h := appendHead b
    match gate s n r 5 [h.seq] with
    | some (st, arg) => answer r 5 st arg s
    | none =>
      if !appendBytesOk true b then answer r 5 stFormat 0 s
      else match nameSeq r 5 n h.seq h.lg s with
        | .ended s1 => s1
        | .found m _ s1 =>
          match desc? s1 m with
          | none => s1
          | some d =>
            if (!resumed && earlierHeld s1 r) || changePending s1 m then holdAppend r 5 s1
            else if !appendGeometry h d b.length then answer r 5 stFormat 0 s1
            else
              let plans := plansOf s1 h d b
              if wrongClass s1 d plans then answer r 5 stFormat 0 s1
              else if 0xFFFFFFFF < h.first + h.count then answer r 5 stPosLimit 0 s1
              else match keptTagAnswer r 5 m h.tag s1 with
              | some s2 => s2
              | none =>
                if !specPosOk d h then answer r 5 stNotPermitted 0 s1
                else if viewHolds s1 m h.layer h.first (h.first + h.count) then holdAppend r 5 s1
                else match appendSpace r 5 m plans (writtenEntries d plans) (decide (16 < tailCount d h.layer + h.count)) s1 with
                  | .error s2 => s2
                  | .ok s2 => appendedSpec r n m h d plans s2

/-! ### SPEC_COMMIT and SPEC_ABORT (R221 to R223) -/

/-- A body of Table 7.4 without reserved encodings; `top` is the largest COUNT, of which SPEC_ABORT has no reserved one. -/
def specBytesOk (b : List Byte) (top : Nat) : Bool :=
  b.length == 24 && decide (fieldAt b 0xA 2 ≤ top) && fieldAt b 0x10 8 != 0

/-- COUNT of a SPEC_ABORT holds no reserved encoding: an obligation says that it is 0 (R221, R2). -/
def abortTop : Nat := 65535

/-- SPEC_COMMIT of a request. -/
def runSpecCommit (resumed : Bool) (r : Req) (s : State) : State :=
  match reqPart s r with
  | none => s
  | some p =>
    let b := r.body
    let seq := fieldAt b 0 5
    let k := fieldAt b 0xA 2
    let tag := fieldAt b 0x10 8
    match gate s p r 6 [seq] with
    | some (st, arg) => answer r 6 st arg s
    | none =>
      if !specBytesOk b 16 then answer r 6 stFormat 0 s
      else match nameSeq r 6 p seq (fieldAt b 8 1) s with
        | .ended s1 => s1
        | .found m _ s1 =>
          match desc? s1 m, keptTagAnswer r 6 m tag s1 with
          | none, _ => s1
          | some _, some s2 => s2
          | some d, none =>
            if (!resumed && earlierHeld s1 r) || changePending s1 m then holdAppend r 6 s1
            else match d.chrysalis with
              | none =>
                if k = 0 then
                  respond r 6 stOk 0 (specBody stOk (minTokens d) 0)
                    (updPart p (fun q => { q with specCommitted := sat32 (q.specCommitted + 1) }) s1)
                else answerAt r 6 m stNotPermitted 0 s1
              | some c =>
                if d.specTag ≠ tag ∨ (List.range (layerCount d)).any (fun i => decide (c.counts.getD i 0 < k)) then
                  answerAt r 6 m stNotPermitted 0 s1
                else
                  startStep r 6 (specBody stOk (c.base + k) (specCount d - k)) m c.base k (List.range (layerCount d))
                    (.commit m k) s1

/-- SPEC_ABORT of a request. -/
def runSpecAbort (resumed : Bool) (r : Req) (s : State) : State :=
  match reqPart s r with
  | none => s
  | some p =>
    let b := r.body
    let seq := fieldAt b 0 5
    match gate s p r 7 [seq] with
    | some (st, arg) => answer r 7 st arg s
    | none =>
      if !specBytesOk b abortTop then answer r 7 stFormat 0 s
      else if fieldAt b 0xA 2 ≠ 0 then answer r 7 stNotPermitted 0 s
      else match nameSeq r 7 p seq (fieldAt b 8 1) s with
        | .ended s1 => s1
        | .found m _ s1 =>
          match desc? s1 m with
          | none => s1
          | some d =>
            if (!resumed && earlierHeld s1 r) || changePending s1 m then holdAppend r 7 s1
            else match d.chrysalis with
              | none => respond r 7 stOk 0 (specBody stOk (minTokens d) 0) s1
              | some _ =>
                if d.specTag ≠ fieldAt b 0x10 8 then answerAt r 7 m stNotPermitted 0 s1
                else respond r 7 stOk 0 (specBody stOk (minTokens d) (specCount d)) (dropTail m s1)

/-- TAIL_DEADLINE_DROP: the node carries out the discard of a tail whose deadline has come (R224). -/
def execTailDeadlineDrop (m : Nat) (s : State) : Host.Outcome State Fault Refusal :=
  if !serving s then done s s else done s (expireTail m s.tb.now s)

/-! ### HELD_APPEND_RESUME -/

/-- A held request can go on: no earlier one of its descriptor waits, and nothing holds it any more. -/
def canResume (s : State) (before : List HeldAppend) (x : HeldAppend) : Bool :=
  !(before.any fun y => appendKey y.req == appendKey x.req) &&
  match reqPart s x.req with
  | none => true
  | some n =>
    match dirSearch s n (seqKey x.req.tenant (fieldAt x.req.body 0 5) (fieldAt x.req.body 8 1)) with
    | none => true
    | some (_, en) =>
      let m := dataMdb en.data.toNat
      let a := fieldAt x.req.body 0xC 4
      !changePending s m && ((x.op != 4 && x.op != 5) ||
        !viewHolds s m (appendHead x.req.body).layer a (a + fieldAt x.req.body 0xA 2))

/-- The first held request that can go on, with those before and after it. -/
def pickHeld (s : State) : List HeldAppend → List HeldAppend → Option (HeldAppend × List HeldAppend)
  | _, [] => none
  | before, x :: rest => if canResume s before x then some (x, before ++ rest) else pickHeld s (before ++ [x]) rest

/-- Runs a held request again. -/
def runHeld (x : HeldAppend) (s : State) : State :=
  if x.op = 4 then runKvAppend true x.req s
  else if x.op = 5 then runKvAppendSpec true x.req s
  else if x.op = 6 then runSpecCommit true x.req s
  else runSpecAbort true x.req s

/-- HELD_APPEND_RESUME: the oldest held append, commit or abort that can go on does (R57, R222, R225, R410). -/
def execHeldAppendResume (s : State) : Host.Outcome State Fault Refusal :=
  if !serving s then done s s
  else match pickHeld s [] s.fab.heldAppends with
  | none => done s s
  | some (x, rest) => done s (runHeld x { s with fab := { s.fab with heldAppends := rest } })

end Sys2Proof.Machine
end

