-- ==== Sys2Proof/Machine/Operands.lean ====
section
/-!
DEFINITION. The operands of attention requests: the attention block (Table 4.2), its ranges, the arrays behind it (Table 4.3),
the BWD header (Table 4.10) and the MERGE body (Table 4.9).
-/

namespace Sys2Proof.Machine

open Sys2Proof

/-- The attention block (Table 4.2). -/
structure AttBlock where
  seq : Nat
  lg : Nat
  layer : Nat
  headFirst : Nat
  headCount : Nat
  qhTotal : Nat
  rows : Nat
  qflags : Nat
  path : Nat
  qpos : Nat
  scale : F32
  softcap : F32
  mask : Nat
  alibi : Nat
  rope : Nat
  maskParam : Nat
  theta : F32
  hook : Nat
  width : Nat
  wset : Nat
  tag : Nat
  bmFirst : Nat
  bmLen : Nat
  deriving DecidableEq, Repr

def attBlock (b : List Byte) : AttBlock :=
  { seq := fieldAt b 0 5, lg := fieldAt b 8 1, layer := fieldAt b 9 1 % 16, headFirst := fieldAt b 0xA 2 % 512,
    headCount := fieldAt b 0xC 2 % 512, qhTotal := fieldAt b 0xE 2 % 512, rows := fieldAt b 0x10 2 % 8192,
    qflags := fieldAt b 0x12 1 % 16, path := fieldAt b 0x13 1 % 4, qpos := fieldAt b 0x14 4, scale := BitVec.ofNat 32 (fieldAt b 0x18 4),
    softcap := BitVec.ofNat 32 (fieldAt b 0x1C 4), mask := fieldAt b 0x20 1 % 32, alibi := fieldAt b 0x21 1 % 4,
    rope := fieldAt b 0x22 2, maskParam := fieldAt b 0x24 4, theta := BitVec.ofNat 32 (fieldAt b 0x28 4),
    hook := fieldAt b 0x2C 2, width := fieldAt b 0x2E 1, wset := fieldAt b 0x2F 1, tag := fieldAt b 0x30 8,
    bmFirst := fieldAt b 0x38 4, bmLen := fieldAt b 0x3C 4 }

/-- QFMT, OFMT, QROT and ROPE_PAIR. -/
def AttBlock.qFp32 (a : AttBlock) : Bool := bitOf a.qflags 0
def AttBlock.oBf16 (a : AttBlock) : Bool := bitOf a.qflags 1
def AttBlock.qrot (a : AttBlock) : Bool := bitOf a.qflags 2
def AttBlock.interleaved (a : AttBlock) : Bool := bitOf a.qflags 3
/-- Mask kind, BLOCK_FULL and BM_OUT. -/
def AttBlock.kind (a : AttBlock) : Nat := a.mask % 8
def AttBlock.blockFull (a : AttBlock) : Bool := bitOf a.mask 3
def AttBlock.bmOut (a : AttBlock) : Bool := bitOf a.mask 4
/-- The request names a hook. -/
def AttBlock.hooked (a : AttBlock) : Bool := a.hook != 0xFFFF

/-- A finite FP32 value above 0. -/
def finitePos (w : F32) : Bool := !f32Bad w && !f32IsZero w && !f32Neg w

/-- The values of Table 4.2 that no reserved encoding holds (R108, R110, R121), for an opcode and the SPEC flag (R213). -/
def attBlockOk (op : Nat) (spec : Bool) (b : List Byte) : Bool :=
  let a := attBlock b
  decide (64 ≤ b.length) &&
  decide (1 ≤ a.headCount) && decide (a.headCount ≤ 256) && decide (1 ≤ a.qhTotal) && decide (a.qhTotal ≤ 256) &&
  decide (1 ≤ a.rows) && decide (a.rows ≤ (if op = 1 then 16 else 4096)) && decide (a.path ≤ 2) &&
  finitePos a.scale && (a.softcap == 0#32 || finitePos a.softcap) && decide (a.kind ≤ 4) &&
  decide (a.alibi ≤ 1) && a.rope % 2 == 0 && decide (a.rope ≤ 256) &&
  (if a.kind = 2 ∨ a.kind = 3 then a.maskParam != 0 else a.maskParam == 0) &&
  (decide (a.hook < 4096) || a.hook == 0xFFFF) && decide (1 ≤ a.width) && decide (a.width ≤ 16) &&
  (if a.kind = 4 then a.bmLen % 64 == 0 && decide (64 ≤ a.bmLen) && decide (a.bmLen ≤ 65536) else a.bmLen == 0) &&
  (if op = 1 then (a.tag != 0) == spec else a.tag == 0 && !spec)

/-! ### Geometry (R109, R111) -/

/-- The stored geometry that a request meets: KV heads, query dimension, output dimension. -/
structure AttGeo where
  latent : Bool
  heads : Nat
  elems : Nat
  rotary : Nat
  qdim : Nat
  odim : Nat
  deriving DecidableEq, Repr

/-- G, the group size. -/
def groupSize (a : AttBlock) (g : AttGeo) : Nat := a.qhTotal / g.heads

/-- R109. -/
def headsOk (a : AttBlock) (g : AttGeo) : Bool :=
  let k := groupSize a g
  a.qhTotal % g.heads == 0 && a.headFirst % k == 0 && a.headCount % k == 0 && decide (a.headFirst + a.headCount ≤ a.qhTotal)

/-- The KV heads that a request reads. -/
def kvHeads (a : AttBlock) (g : AttGeo) : List Nat :=
  let k := groupSize a g
  (List.range (a.headCount / k)).map (a.headFirst / k + ·)

/-- Key and value stream of KV head `k` of a layer; the one stream of a latent layer twice. -/
def kvStreams (d : Desc) (layer : Nat) (g : AttGeo) (k : Nat) : Nat × Nat :=
  let is := layerStreams d layer
  if g.latent then (is.getD 0 0, is.getD 0 0) else (is.getD (2 * k) 0, is.getD (2 * k + 1) 0)

/-! ### Arrays (Table 4.3) -/

/-- Bytes of an element of QFMT. -/
def AttBlock.qSize (a : AttBlock) : Nat := if a.qFp32 then 4 else 2

/-- The offset behind the block of an opcode: ATT_BACKWARD has its BWD header. -/
def arraysAt (op : Nat) : Nat := if op = 3 then 80 else 64

/-- Bytes of one array entry for each row and head. -/
def perRow (a : AttBlock) (n : Nat) : Nat := a.rows * a.headCount * n

/-- The length that the block and the stored geometry imply (R107). -/
def attLength (op : Nat) (a : AttBlock) (g : AttGeo) : Nat :=
  let q := pad8 (perRow a (g.qdim * a.qSize))
  let bm := a.rows * a.bmLen / 8
  if op = 3 then 80 + q + pad8 (perRow a (g.odim * a.qSize)) + 2 * pad8 (perRow a 4) + bm else 64 + q + bm

/-- Vectors of an array: `n` elements each, in QFMT. -/
def attVectors (a : AttBlock) (n : Nat) (bs : List Byte) : List (List F32) :=
  (chunks (n * a.qSize) (a.rows * a.headCount) bs).map (elemWords a.qFp32)

/-- FP32 words of an array with one entry for each row and head. -/
def attWords (a : AttBlock) (bs : List Byte) : List F32 :=
  (chunks 4 (a.rows * a.headCount) bs).map fun x => BitVec.ofNat 32 (leNat x)

/-- The arrays of a request: Q, DO, LSE2, DELTA and BITMAP. -/
structure AttArrays where
  q : List (List F32)
  dO : List (List F32) := []
  lse : List F32 := []
  delta : List F32 := []
  bitmap : List Byte := []
  deriving DecidableEq, Repr

def attArrays (op : Nat) (a : AttBlock) (g : AttGeo) (b : List Byte) : AttArrays :=
  let b0 := b.drop (arraysAt op)
  let qn := pad8 (perRow a (g.qdim * a.qSize))
  let b1 := b0.drop qn
  let q := attVectors a g.qdim b0
  if op = 3 then
    let dn := pad8 (perRow a (g.odim * a.qSize))
    let wn := pad8 (perRow a 4)
    { q := q, dO := attVectors a g.odim b1, lse := attWords a (b1.drop dn), delta := attWords a (b1.drop (dn + wn)),
      bitmap := b1.drop (dn + 2 * wn) }
  else { q := q, bitmap := b1 }

/-- The BWD header (Table 4.10): BLOCK_INDEX, FLUSH, FLUSH_FIRST, FLUSH_END. -/
structure BwdHead where
  index : Nat
  flush : Bool
  first : Nat
  stop : Nat
  deriving DecidableEq, Repr

def bwdHead (b : List Byte) : BwdHead :=
  { index := fieldAt b 64 2, flush := bitOf (fieldAt b 66 1) 0, first := fieldAt b 72 4, stop := fieldAt b 76 4 }

def bwdHeadOk (b : List Byte) : Bool := decide (80 ≤ b.length)

/-! ### MERGE (Table 4.9) -/

/-- The head of a MERGE body. -/
structure MergeHead where
  count : Nat
  rows : Nat
  heads : Nat
  dim : Nat
  inBf16 : Bool
  outBf16 : Bool
  normalize : Bool
  deriving DecidableEq, Repr

def mergeHead (b : List Byte) : MergeHead :=
  { count := fieldAt b 0 2, rows := fieldAt b 2 2, heads := fieldAt b 4 2, dim := fieldAt b 6 2,
    inBf16 := bitOf (fieldAt b 8 1) 0, outBf16 := bitOf (fieldAt b 8 1) 1, normalize := bitOf (fieldAt b 8 1) 2 }

/-- Bytes of a tuple record: m, l and o, padded (R113). -/
def recordSize (dim : Nat) (bf16 : Bool) : Nat := pad8 (8 + dim * (if bf16 then 2 else 4))

def mergeOk (b : List Byte) : Bool :=
  let h := mergeHead b
  let n := h.count * h.rows * h.heads
  decide (2 ≤ h.count) && decide (h.count ≤ 64) && decide (1 ≤ h.rows) && decide (h.rows ≤ 4096) && decide (1 ≤ h.heads) &&
  decide (h.heads ≤ 256) && h.dim % 32 == 0 && decide (64 ≤ h.dim) && decide (h.dim ≤ 1024) &&
  decide (n ≤ 1048576) && b.length == 16 + n * recordSize h.dim h.inBf16

end Sys2Proof.Machine
end

