-- ==== Sys2Proof/Machine/Skipper.lean ====
section
/-!
DEFINITION. The Skipper instruction set as a score hook runs it (R243, R244, R255 to R259): the classes of instruction
words, their results and cycles, and one call of a program.
-/

namespace Sys2Proof.Machine

open Sys2Proof

/-! ### Instruction words (Tables 8.8 to 8.11) -/

/-- The class of an instruction word. -/
inductive WordClass where
  | defined
  | undefined
  | system
  deriving DecidableEq, Repr

def wOp (w : Nat) : Nat := bitsOf w 31 26
/-- rd, zd, d, or ra of the B format. -/
def wD (w : Nat) : Nat := bitsOf w 25 21
/-- ra, za, a, or rb of the B format. -/
def wA (w : Nat) : Nat := bitsOf w 20 16
def wB (w : Nat) : Nat := bitsOf w 15 11
def wC (w : Nat) : Nat := bitsOf w 10 6
def wImm (w : Nat) : Nat := bitsOf w 15 0
def wLane (w : Nat) : Nat := bitsOf w 15 12
/-- A signed field of `n` bits. -/
def signedOf (n v : Nat) : Int := if v < 2 ^ (n - 1) then v else (v : Int) - 2 ^ n

/-- R256: defined, undefined, or of the system class. -/
def wordClass (w : Nat) : WordClass :=
  let op := wOp w
  let f6 := bitsOf w 5 0
  let ok := fun (b : Bool) => if b then WordClass.defined else WordClass.undefined
  if op = 0x01 then ok (decide (bitsOf w 10 0 ≤ 15))
  else if op = 0x06 then ok (bitsOf w 15 8 == 0 && bitsOf w 7 6 != 3)
  else if op = 0x07 then ok (wA w == 0)
  else if 0x02 ≤ op ∧ op ≤ 0x08 then .defined
  else if 0x10 ≤ op ∧ op ≤ 0x16 then .defined
  else if 0x18 ≤ op ∧ op ≤ 0x1D then .defined
  else if 0x20 ≤ op ∧ op ≤ 0x27 then .defined
  else if op = 0x28 then ok (wD w == 0 && wImm w == 0)
  else if op = 0x29 then ok (bitsOf w 25 0 == 0)
  else if op = 0x30 then
    ok (decide (f6 ≤ 15) && wC w == 0 && (wB w == 0 || !([6, 7, 8, 9, 14, 15].contains f6)))
  else if op = 0x31 then ok (decide (f6 ≤ 11) && wC w == 0)
  else if op = 0x32 then ok (decide (f6 ≤ 4) && wC w == 0 && wB w == 0)
  else if op = 0x33 then ok (f6 == 0)
  else if op = 0x34 then
    ok (decide (f6 ≤ 4) && bitsOf w 11 6 == 0 && (wLane w == 0 || f6 == 1 || f6 == 2) && (f6 != 4 || wA w == 0))
  else if 0x3C ≤ op ∧ op ≤ 0x3F then .system
  else .undefined

/-! ### Lane functions (Table 8.11, R257) -/

/-- floor of a square root, bit by bit. -/
def isqrtBits (n : Nat) : Nat → Nat → Nat
  | 0, r => r
  | k + 1, r =>
    let t := r + 2 ^ k
    isqrtBits n k (if t * t ≤ n then t else r)

/-- squareRoot of IEEE 754-2019, rounded once. -/
def fSqrt (w : F32) : F32 :=
  match f32Num w with
  | .nan => f32Nan
  | .inf s => if s then f32Nan else f32Inf false
  | .fin s m e =>
    if m = 0 then w
    else if s then f32Nan
    else
      -- m × 2^e = n × 2^(2 h) with n of 64 bits or more
      let odd := e % 2 ≠ 0
      let n := (if odd then 2 * m else m) * 2 ^ 64
      let h : Int := (if odd then e - 1 else e) / 2 - 32
      let q := isqrtBits n 64 0
      f32Of (.fin false (2 * q + bnat (q * q != n)) (h - 1))

/-- The integer part downward of a finite number: sign and magnitude. -/
def floorNum (s : Bool) (m : Nat) (e : Int) : Bool × Nat :=
  if 0 ≤ e then (s, m * 2 ^ e.toNat)
  else
    let d := 2 ^ (-e).toNat
    (s, if s then ceilDiv' m d else m / d)

/-- The largest integer value not above a word. -/
def fFloor (w : F32) : F32 :=
  match f32Num w with
  | .nan => f32Nan
  | .inf _ => w
  | .fin s m e => let r := floorNum s m e; f32Of (.fin r.1 r.2 0)

/-- VFMIN. -/
def fMin (a b : F32) : F32 :=
  if f32IsNan a || f32IsNan b then f32Nan
  else if fLt a b then a else if fLt b a then b else if f32Neg a then a else b

/-- Equality of FP32 values: the zeros are equal, NaN is equal to nothing. -/
def fEq (a b : F32) : Bool := !f32IsNan a && !f32IsNan b && !fLt a b && !fLt b a

/-- VCVTFI. -/
def fToInt (w : F32) : F32 :=
  match f32Num w with
  | .nan => 0#32
  | .inf s => if s then 0x80000000#32 else 0x7FFFFFFF#32
  | .fin s m e =>
    let p := pow2frac e
    let v := roundDiv (m * p.1) p.2
    if s then (if 2 ^ 31 ≤ v then 0x80000000#32 else -(BitVec.ofNat 32 v))
    else if 2 ^ 31 ≤ v then 0x7FFFFFFF#32 else BitVec.ofNat 32 v

/-- VSINT and VCOST: sin and cos of the fractional part of an angle in turns, taken exactly. -/
def fTurns (w : F32) : F32 × F32 :=
  match f32Num w with
  | .fin s m e =>
    if 0 ≤ e then fSinCosOf 0 0
    else
      let d := 2 ^ (-e).toNat
      let r := m % d
      fSinCosOf (if s && r != 0 then d - r else r) e
  | _ => (f32Nan, f32Nan)

def maskOf (b : Bool) : F32 := if b then 0xFFFFFFFF#32 else 0#32
/-- A NaN is the canonical one. -/
def canonical (w : F32) : F32 := if f32IsNan w then f32Nan else w

def vfp (f : Nat) (a b : F32) : F32 :=
  if f = 0 then fAdd a b
  else if f = 1 then fSub a b
  else if f = 2 then fMul a b
  else if f = 3 then fDiv a b
  else if f = 4 then fMin a b
  else if f = 5 then fMax a b
  else if f = 6 then (if f32IsNan a then f32Nan else fNegate a)
  else if f = 7 then (if f32IsNan a then f32Nan else fAbs a)
  else if f = 8 then fSqrt a
  else if f = 9 then fFloor a
  else if f = 10 then maskOf (fEq a b)
  else if f = 11 then maskOf (fLt a b)
  else if f = 12 then maskOf (fLt a b || fEq a b)
  else if f = 13 then maskOf (f32IsNan a || f32IsNan b)
  else if f = 14 then fToInt a
  else fOfInt a.toInt

def vint (f : Nat) (a b : F32) : F32 :=
  let k := b.toNat % 32
  if f = 0 then a + b
  else if f = 1 then a - b
  else if f = 2 then a &&& b
  else if f = 3 then a ||| b
  else if f = 4 then a ^^^ b
  else if f = 5 then a <<< k
  else if f = 6 then a >>> k
  else if f = 7 then a.sshiftRight k
  else if f = 8 then maskOf (a == b)
  else if f = 9 then maskOf (decide (a.toInt < b.toInt))
  else if f = 10 then maskOf (decide (a.toNat < b.toNat))
  else a * b

def vfn (f : Nat) (a : F32) : F32 :=
  if f = 0 then fExp2 a
  else if f = 1 then fLog2 a
  else if f = 2 then fTanh a
  else if f = 3 then (fTurns a).1
  else (fTurns a).2

/-! ### Scalar functions (Table 8.10) -/

def alu (f : Nat) (a b : BitVec 64) : BitVec 64 :=
  let k := b.toNat % 64
  if f = 0 then a + b
  else if f = 1 then a - b
  else if f = 2 then a &&& b
  else if f = 3 then a ||| b
  else if f = 4 then a ^^^ b
  else if f = 5 then a <<< k
  else if f = 6 then a >>> k
  else if f = 7 then a.sshiftRight k
  else if f = 8 then a * b
  else if f = 9 then BitVec.ofNat 64 (a.toNat * b.toNat / 2 ^ 64)
  else if f = 10 then BitVec.ofNat 64 (bnat (decide (a.toInt < b.toInt)))
  else if f = 11 then BitVec.ofNat 64 (bnat (decide (a.toNat < b.toNat)))
  else if f = 12 then (if b.toInt < a.toInt then b else a)
  else if f = 13 then (if a.toInt < b.toInt then b else a)
  else if f = 14 then (if b.toNat < a.toNat then b else a)
  else (if a.toNat < b.toNat then b else a)

/-! ### One call -/

/-- A partition program as its image holds it (Table 8.4). -/
structure HookProg where
  budget : Nat
  code : List Byte
  data : List Byte
  fwd : Nat
  grad : Nat
  deriving DecidableEq, Repr

/-- The parts of a program image. -/
def hookProg (img : List Byte) : HookProg :=
  let cl := fieldAt img 8 4
  let dl := fieldAt img 0xC 4
  { budget := fieldAt img 4 2, code := (img.drop 64).take cl, data := (img.drop (64 + (cl + 63) / 64 * 64)).take dl,
    fwd := fieldAt img 0x10 4, grad := fieldAt img 0x14 4 }

/-- The registers, the scratch and the cycles of a call. -/
structure Skip where
  x : List (BitVec 64)
  z : List (List F32)
  pc : Nat
  scratch : List Byte := zeroBytes 4096
  cycles : Nat := 0
  deriving DecidableEq, Repr

/-- How a call stands after an instruction. -/
inductive SkipEnd where
  | running (k : Skip)
  /-- HRET, with z0 and the cycles used -/
  | returned (z0 : List F32) (cycles : Nat)
  /-- stopped (R243) -/
  | stopped
  deriving DecidableEq, Repr

def Skip.xr (k : Skip) (i : Nat) : BitVec 64 := if i = 0 then 0#64 else k.x.getD i 0#64
def Skip.zr (k : Skip) (i : Nat) : List F32 := k.z.getD i (List.replicate 16 0#32)
def Skip.setX (k : Skip) (i : Nat) (v : BitVec 64) : Skip := if i = 0 then k else { k with x := k.x.set i v }
def Skip.setZ (k : Skip) (i : Nat) (v : List F32) : Skip := { k with z := k.z.set i v }

/-- `n` bytes at an address of data or scratch; none where the access stops the call (R257, R259). -/
def hookLoad (p : HookProg) (k : Skip) (a n : Nat) : Option (List Byte) :=
  if a % n ≠ 0 then none
  else if 0x100000 ≤ a ∧ a + n ≤ 0x100000 + p.data.length then some (sliceBytes p.data (a - 0x100000) n)
  else if 0x200000 ≤ a ∧ a + n ≤ 0x201000 then some (sliceBytes k.scratch (a - 0x200000) n)
  else none

def hookStore (k : Skip) (a : Nat) (bs : List Byte) : Option Skip :=
  let n := bs.length
  if a % n ≠ 0 ∨ a < 0x200000 ∨ 0x201000 < a + n then none
  else
    let o := a - 0x200000
    some { k with scratch := k.scratch.take o ++ bs ++ k.scratch.drop (o + n) }

/-- The next instruction, `c` cycles later. -/
def Skip.next (k : Skip) (c : Nat) : SkipEnd := .running { k with pc := k.pc + 4, cycles := k.cycles + c }
/-- A jump; a target outside the code stops the call at its fetch. -/
def Skip.jump (k : Skip) (t : Int) (c : Nat) : SkipEnd :=
  if t < 0 then .stopped else .running { k with pc := t.toNat, cycles := k.cycles + c }

/-- ra + imm16 modulo 2^64. -/
def Skip.addr (k : Skip) (w scale : Nat) : Nat :=
  (k.xr (wA w) + BitVec.ofInt 64 (signedOf 16 (wImm w) * scale)).toNat

/-- A branch condition. -/
def branchTaken (op : Nat) (a b : BitVec 64) : Bool :=
  if op = 0x20 then a == b
  else if op = 0x21 then a != b
  else if op = 0x22 then decide (a.toInt < b.toInt)
  else if op = 0x23 then decide (b.toInt ≤ a.toInt)
  else if op = 0x24 then decide (a.toNat < b.toNat)
  else decide (b.toNat ≤ a.toNat)

/-- The result of the I-format arithmetic, opcodes 0x02 to 0x08. -/
def immResult (op : Nat) (a : BitVec 64) (imm : Nat) : BitVec 64 :=
  let se := BitVec.ofInt 64 (signedOf 16 imm)
  let ze := BitVec.ofNat 64 imm
  let sh := imm % 64
  if op = 0x02 then a + se
  else if op = 0x03 then a &&& ze
  else if op = 0x04 then a ||| ze
  else if op = 0x05 then a ^^^ ze
  else if op = 0x06 then
    (if bitsOf imm 7 6 = 0 then a <<< sh else if bitsOf imm 7 6 = 1 then a >>> sh else a.sshiftRight sh)
  else if op = 0x07 then BitVec.ofInt 64 (signedOf 32 (imm * 65536))
  else BitVec.ofNat 64 (bnat (decide (a.toInt < se.toInt)))

/-- Size and signedness of the scalar loads 0x10 to 0x16. -/
def loadForm (op : Nat) : Nat × Bool :=
  if op = 0x10 then (1, true) else if op = 0x11 then (1, false)
  else if op = 0x12 then (2, true) else if op = 0x13 then (2, false)
  else if op = 0x14 then (4, true) else if op = 0x15 then (4, false)
  else (8, false)

/-- Cycles of the vector instructions (Table 8.12). -/
def vecCycles (op f : Nat) : Nat :=
  if op = 0x30 then (if f = 3 ∨ f = 8 then 8 else 2)
  else if op = 0x31 then (if f = 11 then 3 else 2)
  else if op = 0x32 then (if f = 0 then 6 else if f = 1 then 8 else if f = 2 then 12 else 10)
  else 2

/-- One instruction. -/
def hookStep (p : HookProg) (k : Skip) : SkipEnd :=
  if k.pc % 4 ≠ 0 ∨ p.code.length < k.pc + 4 then .stopped
  else
    let w := fieldAt p.code k.pc 4
    if wordClass w ≠ .defined then .stopped
    else
      let op := wOp w
      let f6 := bitsOf w 5 0
      let d := wD w
      let a := k.xr (wA w)
      if op = 0x01 then
        let f := bitsOf w 10 0
        (k.setX d (alu f a (k.xr (wB w)))).next (if f = 8 ∨ f = 9 then 3 else 1)
      else if op ≤ 0x08 then (k.setX d (immResult op a (wImm w))).next 1
      else if op ≤ 0x16 then
        let (n, sg) := loadForm op
        match hookLoad p k (k.addr w 1) n with
        | none => .stopped
        | some bs =>
          let v := leNat bs
          (k.setX d (if sg then BitVec.ofInt 64 (signedOf (8 * n) v) else BitVec.ofNat 64 v)).next 4
      else if op ≤ 0x1B then
        match hookStore k (k.addr w 1) (leBytes (2 ^ (op - 0x18)) (k.xr d).toNat) with
        | none => .stopped
        | some k1 => k1.next 1
      else if op = 0x1C then
        match hookLoad p k (k.addr w 64) 64 with
        | none => .stopped
        | some bs => (k.setZ d ((chunks 4 16 bs).map fun b => BitVec.ofNat 32 (leNat b))).next 4
      else if op = 0x1D then
        match hookStore k (k.addr w 64) ((k.zr d).flatMap fun v => leBytes 4 v.toNat) with
        | none => .stopped
        | some k1 => k1.next 1
      else if op ≤ 0x25 then
        if branchTaken op (k.xr d) (k.xr (wA w)) then k.jump (k.pc + 4 * signedOf 16 (wImm w)) 3 else k.next 1
      else if op = 0x26 then k.jump (k.pc + 4 * signedOf 26 (bitsOf w 25 0)) 3
      else if op = 0x27 then
        (k.setX 31 (BitVec.ofNat 64 (k.pc + 4))).jump (k.pc + 4 * signedOf 26 (bitsOf w 25 0)) 3
      else if op = 0x28 then k.jump a.toNat 3
      else if op = 0x29 then .returned (k.zr 0) (k.cycles + 1)
      else
        let za := k.zr (wA w)
        let zb := k.zr (wB w)
        let c := vecCycles op f6
        if op = 0x30 then (k.setZ d (List.zipWith (vfp f6) za zb)).next c
        else if op = 0x31 then (k.setZ d (List.zipWith (vint f6) za zb)).next c
        else if op = 0x32 then (k.setZ d (za.map (vfn f6))).next c
        else if op = 0x33 then
          (k.setZ d ((List.range 16).map fun i =>
            if za.getD i 0#32 ≠ 0#32 then zb.getD i 0#32 else (k.zr (wC w)).getD i 0#32)).next 2
        else if f6 = 0 then (k.setZ d (List.replicate 16 (a.setWidth 32))).next 2
        else if f6 = 1 then (k.setX d ((za.getD (wLane w) 0#32).setWidth 64)).next 2
        else if f6 = 2 then (k.setZ d ((k.zr d).set (wLane w) (a.setWidth 32))).next 2
        else if f6 = 3 then (k.setZ d za).next 2
        else (k.setZ d ((List.range 16).map fun i => BitVec.ofNat 32 i)).next 2

/-- Runs a call until it returns or has used more than its cycles: each instruction takes at least one. -/
def hookLoop (p : HookProg) (limit : Nat) : Nat → Skip → Option (List F32)
  | 0, _ => none
  | fuel + 1, k =>
    match hookStep p k with
    | .stopped => none
    | .returned z c => if c ≤ limit then some z else none
    | .running k1 => if limit < k1.cycles then none else hookLoop p limit fuel k1

/-- One call for up to 16 consecutive key positions (R243): the 16 lanes of z0, or none where the call is stopped or
overruns 16 × BUDGET cycles (R244). -/
def hookCall (p : HookProg) (grad : Bool) (s3 : List F32) (kpos qpos h i : Nat) : Option (List F32) :=
  let n := s3.length
  let z1 := s3 ++ List.replicate (16 - n) 0xFF800000#32
  let z3 := (List.range 16).map fun k => BitVec.ofNat 32 (kpos + k)
  let x0 : List (BitVec 64) := List.replicate 32 0#64
  let x := ((((x0.set 1 (BitVec.ofNat 64 qpos)).set 2 (BitVec.ofNat 64 h)).set 3 (BitVec.ofNat 64 i)).set 4
    (BitVec.ofNat 64 n)).set 5 0x100000#64
  let zz : List (List F32) := List.replicate 32 (List.replicate 16 0#32)
  let limit := 16 * p.budget
  hookLoop p limit (limit + 1) { x := x, z := (zz.set 1 z1).set 3 z3, pc := if grad then p.grad else p.fwd }

end Sys2Proof.Machine
end

