-- ==== Sys2Proof/Machine/Score.lean ====
section
/-!
DEFINITION. The arithmetic of attention to the bit: dot products and tree sums (R119), the score pipeline (R118 to R123),
weights and the merge of tuples (R131 to R134), the tuple of a node (R133), and the sums of backward (R138, R139).
-/

namespace Sys2Proof.Machine

open Sys2Proof

def f32NegInf : F32 := 0xFF800000#32
/-- LOG2E of Table 4.7. -/
def log2e : F32 := 0x3FB8AA3B#32

/-! ### Sums (R119) -/

/-- Adjacent pairs combined, an unpaired last element carried up. -/
def pairUp {α : Type} (f : α → α → α) : List α → List α
  | a :: b :: rest => f a b :: pairUp f rest
  | l => l

/-- The pairwise tree over a list: `fuel` levels are enough for 2^fuel elements. -/
def treeUp {α : Type} (f : α → α → α) : Nat → List α → List α
  | 0, l => l
  | fuel + 1, l => if l.length ≤ 1 then l else treeUp f fuel (pairUp f l)

/-- The one value left by the tree; a default where the list is empty. -/
def treeOf {α : Type} (f : α → α → α) (d : α) (l : List α) : α := (treeUp f (Nat.log2 l.length + 1) l).headD d

/-- A tree sum of 64 places, +0 beyond the end. -/
def tree64 (l : List F32) : F32 := treeOf fAdd f32Zero (l ++ List.replicate (64 - l.length) f32Zero)

/-- The left fold of chunk sums. -/
def foldSum : List F32 → F32
  | [] => f32Zero
  | c :: cs => cs.foldl fAdd c

/-- dot(a, b) of R119 with the scale of the second vector's row (R153). -/
def dotRow (a : List Num) (b : StoredRow) : F32 :=
  let prods := List.zipWith (fun x y => f32Of (numMul x y)) a b.elems
  let sums := (chunks 32 prods.length prods).map (treeOf fAdd f32Zero)
  match b.scale with
  | .none => foldSum sums
  | .final w => fMul (foldSum sums) w
  | .perChunk ws => foldSum (List.zipWith fMul sums ws)

/-- dot(a, b) of two vectors of words. -/
def dotWords (a b : List F32) : F32 := dotRow (a.map f32Num) ⟨b.map f32Num, .none⟩

/-- A row of words with no scale. -/
def plainRow (ws : List F32) : StoredRow := ⟨ws.map f32Num, .none⟩

/-! ### Weights and tuples (R131, R132) -/

/-- e(x, m) of R131. -/
def weight (x m : F32) : F32 :=
  if f32IsNan x || f32IsNan m then f32Nan
  else if x == m || fEq x m then f32One
  else if x == f32NegInf then f32Zero
  else fExp2 (fSub x m)

/-- A partial tuple, and whether NAN_SEEN is set by forming it (R134). -/
structure Tup where
  m : F32
  l : F32
  o : List F32
  bad : Bool := false
  deriving DecidableEq, Repr

/-- The tuple of no visible position. -/
def tupNone (dim : Nat) : Tup := ⟨f32NegInf, f32Zero, List.replicate dim f32Zero, false⟩

/-- merge(a, b) of R132. -/
def mergeTup (a b : Tup) : Tup :=
  let m := fMax a.m b.m
  let bad := a.bad || b.bad
  if m == f32NegInf then { tupNone a.o.length with bad := bad }
  else
    let ca := weight a.m m
    let cb := weight b.m m
    let l := fAdd (fMul ca a.l) (fMul cb b.l)
    let o := List.zipWith (fun x y => fAdd (fMul ca x) (fMul cb y)) a.o b.o
    ⟨m, l, o, bad || f32Bad l || o.any f32Bad⟩

/-- The pairwise tree of R133 step 4. -/
def mergeTree (dim : Nat) (ts : List Tup) : Tup := treeOf mergeTup (tupNone dim) ts

/-! ### Visibility (R121, R122) -/

/-- The position is visible to row `i` of a request in a stream. -/
def visible (a : AttBlock) (st : Stream) (bitmap : List Byte) (i kpos : Nat) : Bool :=
  let qpos := a.qpos + i
  let ring := !st.ring || decide (kpos < st.sinks) || decide (qpos < kpos + st.window)
  let kind :=
    if a.kind = 0 then true
    else if a.kind = 1 then decide (kpos ≤ qpos)
    else if a.kind = 2 then decide (kpos < a.maskParam) || decide (kpos ≤ qpos)
    else if a.kind = 3 then kpos / a.maskParam == qpos / a.maskParam && (a.blockFull || decide (kpos ≤ qpos))
    else if a.bmFirst ≤ kpos ∧ kpos < a.bmFirst + a.bmLen then
      let b := kpos - a.bmFirst
      bitOf ((bitmap.getD (i * a.bmLen / 8 + b / 8) 0#8).toNat) (b % 8)
    else a.bmOut && decide (kpos ≤ qpos)
  kind && ring

/-! ### Scores (R118) -/

/-- One key position of a sub-block: its position, its key row as step 2 forms it, its value row, and its visibility. -/
structure KeyPos where
  pos : Nat
  key : StoredRow
  val : List F32
  vis : Bool
  deriving DecidableEq, Repr

/-- The score of one position: s1 (for backward), s3, u, whether a step sets NAN_SEEN, and whether the position is masked:
hidden, or masked by the hook (R123). -/
structure Scored where
  s1 : F32
  s3 : F32
  u : F32
  bad : Bool
  masked : Bool
  deriving DecidableEq, Repr

/-- Steps 3 to 6 of Table 4.7. -/
def rawScore (a : AttBlock) (q : List Num) (h i : Nat) (k : KeyPos) : Scored :=
  let s0 := dotRow q k.key
  let s1 := fMul s0 a.scale
  let s2 := if f32IsZero a.softcap then s1 else fMul a.softcap (fTanh (fDiv s1 a.softcap))
  let s3 := if a.alibi = 0 then s2
    else fAdd s2 (fMul (alibiSlope h a.qhTotal) (fOfInt ((k.pos : Int) - ((a.qpos + i : Nat) : Int))))
  ⟨s1, s3, f32NegInf, f32Bad s0 || f32Bad s1 || f32Bad s2 || f32Bad s3, true⟩

/-- The hook's outputs for the scores of a sub-block, in runs of 16 positions; none where a call is stopped. -/
def hookBlock (p : HookProg) (grad : Bool) (qpos h i : Nat) : List (List (Nat × F32)) → Option (List F32)
  | [] => some []
  | run :: rest =>
    match hookCall p grad (run.map (·.2)) ((run.map (·.1)).headD 0) qpos h i with
    | none => none
    | some z => (hookBlock p grad qpos h i rest).map fun zs => z.take run.length ++ zs

/-- Runs of 16 consecutive positions of a sub-block with their s3. -/
def hookRuns (ks : List KeyPos) (ss : List Scored) : List (List (Nat × F32)) :=
  chunks 16 ks.length ((ks.zip ss).map fun x => (x.1.pos, x.2.s3))

/-- The scores of a sub-block for one query row and head; none where the hook overruns (R123). Steps 3 to 7 are taken at every
position; step 8 hides a position that is not visible, and its -inf sets nothing (R134). -/
def scoreBlock (a : AttBlock) (hook : Option HookProg) (q : List Num) (h i : Nat) (ks : List KeyPos) : Option (List Scored) :=
  let raw : List Scored := ks.map (rawScore a q h i)
  let s4s : Option (List F32) := match hook with
    | none => some (raw.map Scored.s3)
    | some p => hookBlock p false (a.qpos + i) h i (hookRuns ks raw)
  s4s.map fun s4 =>
    (ks.zip (raw.zip s4)).map fun x =>
      let s4 := x.2.2
      let u := if x.1.vis then fMul s4 log2e else f32NegInf
      let masks := hook.isSome && s4 == f32NegInf
      { x.2.1 with
        u := u
        bad := x.2.1.bad || (!masks && (f32Bad s4 || (x.1.vis && f32Bad u)))
        masked := !x.1.vis || masks }

/-- The tuple of a sub-block (R133 step 3); one whose every position is masked gives (-inf, 0, +0). -/
def blockTup (dim : Nat) (ks : List KeyPos) (ss : List Scored) : Tup :=
  let us := ss.map (·.u)
  let bad := ss.any (·.bad)
  let m := us.foldl fMax f32NegInf
  if ss.all (·.masked) then { tupNone dim with bad := bad }
  else
    let ps := us.map fun u => weight u m
    let l := tree64 ps
    let bs := ps.map bf16
    let o := (List.range dim).map fun e => tree64 (List.zipWith (fun p k => fMul p (k.val.getD e f32Zero)) bs ks)
    ⟨m, l, o, bad || f32Bad l || o.any f32Bad⟩

/-- The tuple of a node for one query row and head over its sub-blocks (R133); none where the hook overruns. -/
def nodeTup (a : AttBlock) (hook : Option HookProg) (dim : Nat) (q : List Num) (h i : Nat) (blocks : List (List KeyPos)) :
    Option Tup :=
  (blocks.mapM fun ks => (scoreBlock a hook q h i ks).map (blockTup dim ks)).map (mergeTree dim)

/-! ### The query (step 1 of Table 4.7, R126) -/

/-- The elements of a weight set's matrix of a layer and a head: row `n`, column `e`. -/
def wsetWord (w : WSet) (layer head n e : Nat) : F32 :=
  f32OfBf16 (fieldAt w.image (64 + 2 * (((layer * w.heads + head) * w.qn + n) * w.l + e)) 2)

/-- The query of step 1, before its rounding to BF16. -/
def formQuery (a : AttBlock) (g : AttGeo) (wset : Option WSet) (layer h i : Nat) (q : List F32) : List F32 :=
  match wset with
  | some w =>
    let qr := if a.qrot then rotateRow false a.interleaved a.theta w.qn g.rotary (a.qpos + i) q else q
    let qn := (q.take w.qn).map f32Num
    (List.range w.l).map (fun e => dotRow qn (plainRow ((List.range w.qn).map fun n => wsetWord w layer h n e))) ++ qr.drop w.qn
  | none => if a.qrot then rotateRow false a.interleaved a.theta 0 a.rope (a.qpos + i) q else q

/-! ### Backward (R138, R139) -/

/-- What one position gives for one query row and head: weight p, bf16(ds0), and whether NAN_SEEN is set. -/
structure BwdTerm where
  p : F32
  ds : F32
  vis : Bool
  bad : Bool
  deriving DecidableEq, Repr

/-- The terms of a sub-block (R138); none where the hook is stopped. -/
def bwdBlock (a : AttBlock) (hook : Option HookProg) (q : List Num) (dO : List F32) (lse delta : F32) (h i : Nat)
    (ks : List KeyPos) : Option (List BwdTerm) :=
  match scoreBlock a hook q h i ks with
  | none => none
  | some ss =>
    let gs : Option (List F32) := match hook with
      | none => some (ks.map fun _ => f32One)
      | some p => hookBlock p true (a.qpos + i) h i (hookRuns ks ss)
    gs.map fun gs =>
      (ks.zip (ss.zip gs)).map fun x =>
        if !x.1.vis then ⟨f32Zero, f32Zero, false, false⟩
        else
          let s := x.2.1
          let p := weight s.u lse
          let dp := dotWords (dO.map bf16) x.1.val
          let df := fSub dp delta
          let ds4 := fMul p df
          let ds2 := if hook.isSome then fMul ds4 x.2.2 else ds4
          let t := fTanh (fDiv s.s1 a.softcap)
          let ds1 := if f32IsZero a.softcap then ds2 else fMul ds2 (fSub f32One (fMul t t))
          let ds0 := fMul ds1 a.scale
          ⟨p, bf16 ds0, true, s.bad || f32Bad dp || f32Bad df⟩

/-- dq of one query row and head over its sub-blocks: tree sums of 64 places, then the pairwise tree. -/
def bwdDq (n : Nat) (blocks : List (List KeyPos × List BwdTerm)) : List F32 :=
  let parts := blocks.map fun b =>
    (List.range n).map fun e => tree64 (List.zipWith (fun k t =>
      if t.vis then fMul t.ds (k.key.values.getD e f32Zero) else f32Zero) b.1 b.2)
  treeOf (List.zipWith fAdd) (List.replicate n f32Zero) parts

/-- Adds tree-summed blocks of 64 contributions to an accumulator row, in ascending block order. -/
def addBlocks (acc : List F32) (terms : List (List F32)) : List F32 :=
  (chunks 64 terms.length terms).foldl (fun acc blk =>
    acc.zipIdx.map fun x => fAdd x.1 (tree64 (blk.map fun t => t.getD x.2 f32Zero))) acc

/-- The latent accumulator row: of each block the dk contribution, then the dv contribution in the first `l` elements. -/
def addLatent (l : Nat) (acc : List F32) (dk dv : List (List F32)) : List F32 :=
  ((chunks 64 dk.length dk).zip (chunks 64 dv.length dv)).foldl (fun acc blk =>
    acc.zipIdx.map fun x =>
      let y := fAdd x.1 (tree64 (blk.1.map fun t => t.getD x.2 f32Zero))
      if x.2 < l then fAdd y (tree64 (blk.2.map fun t => t.getD x.2 f32Zero)) else y) acc

/-- dQ for the query as sent (R138): the inverse rotation, and for a latent head the product with W_h. -/
def formDq (a : AttBlock) (g : AttGeo) (wset : Option WSet) (layer h i : Nat) (dq : List F32) : List F32 :=
  match wset with
  | some w =>
    let dqr := if a.qrot then rotateRow true a.interleaved a.theta w.l g.rotary (a.qpos + i) dq else dq
    let dqa := dq.take w.l
    (List.range w.qn).map (fun n => dotWords ((List.range w.l).map fun e => wsetWord w layer h n e) dqa) ++ dqr.drop w.l
  | none => if a.qrot then rotateRow true a.interleaved a.theta 0 a.rope (a.qpos + i) dq else dq

/-! ### Output -/

/-- Elements in OFMT: FP32, or rounded once to BF16. -/
def outWords (bf : Bool) (ws : List F32) : List Byte :=
  if bf then ws.flatMap fun w => leBytes 2 (bf16Of w) else ws.flatMap fun w => leBytes 4 w.toNat

def padTo8 (bs : List Byte) : List Byte := bs ++ zeroBytes (pad8 bs.length - bs.length)

/-- A tuple record (R113). -/
def tupRecord (bf : Bool) (t : Tup) : List Byte := padTo8 (leBytes 4 t.m.toNat ++ leBytes 4 t.l.toNat ++ outWords bf t.o)

/-- The 32-byte prefix with OK (Table 4.4). -/
def okPrefix (nan moss : Bool) (rows headFirst headCount dim : Nat) (bf : Bool) (seen snap : Nat) : List Byte :=
  leBytes 1 stOk ++ leBytes 1 (bnat nan + 2 * bnat moss) ++ leBytes 2 rows ++ leBytes 2 headFirst ++ leBytes 2 headCount ++
  leBytes 2 dim ++ leBytes 1 (bnat bf) ++ leBytes 1 seen ++ leBytes 4 snap ++ zeroBytes 16

/-! ### MERGE (R136) -/

/-- A tuple record read from MERGE inputs; NAN_SEEN if a value of it is NaN or +inf. -/
def tupOf (bf : Bool) (dim : Nat) (bs : List Byte) : Tup :=
  let w := fun (o : Nat) => (BitVec.ofNat 32 (fieldAt bs o 4) : F32)
  let o := elemWords (!bf) ((bs.drop 8).take (dim * (if bf then 2 else 4)))
  let worst := fun (x : F32) => f32IsNan x || x == f32Inf false
  ⟨w 0, w 4, o, worst (w 0) || worst (w 4) || o.any worst⟩

/-- LSE2 and the normalised output of a tuple, and NAN_SEEN. -/
def normalizeTup (t : Tup) : F32 × List F32 × Bool :=
  if f32IsNan t.m then (f32Nan, t.o.map fun _ => f32Nan, true)
  else if f32IsZero t.l then (f32NegInf, t.o.map fun _ => f32Zero, t.bad)
  else
    let lg := fLog2 t.l
    let lse := fAdd t.m lg
    (lse, t.o.map fun x => fDiv x t.l, t.bad || f32Bad t.m || f32Bad lg || f32Bad lse)

/-- The response body of a MERGE. -/
def mergeAnswer (b : List Byte) : List Byte :=
  let h := mergeHead b
  let per := h.rows * h.heads
  let size := recordSize h.dim h.inBf16
  let outs := (List.range per).map fun k =>
    let t := mergeTree h.dim ((List.range h.count).map fun j => tupOf h.inBf16 h.dim ((b.drop (16 + (j * per + k) * size)).take size))
    if h.normalize then
      let r := normalizeTup t
      (padTo8 (leBytes 4 r.1.toNat ++ outWords h.outBf16 r.2.1), r.2.2)
    else (tupRecord h.outBf16 t, t.bad)
  okPrefix (outs.any (·.2)) false h.rows 0 h.heads h.dim h.outBf16 0 0 ++ outs.flatMap (·.1)

end Sys2Proof.Machine
end

