-- ==== Sys2Proof/Machine/Work.lean ====
section
/-!
DEFINITION. Running requests and their jobs (chapter 8): how the work of a request is cut into engine commands, jobs and
page tasks, where a job is placed, and how a request ends when its last job has completed.
-/

namespace Sys2Proof.Machine

open Sys2Proof

/-! ### Engine commands (R235) -/

/-- Runs of equal commands that cover a depth `k` in MMA commands of at most 128 cycles, `t` tiles of each (DESIGN
CHOICE, log 41: the cut that the kernels make). -/
def mmaCuts (k t : Nat) : List (EngCmd × Nat) :=
  [(.mma .bf16 128, t * (k / 128)), (.mma .bf16 (k % 128), if k % 128 = 0 then 0 else t)].filter fun x => x.2 != 0

/-- Tiles of 64 by 64. -/
def tiles (a b : Nat) : Nat := ceilDiv' a 64 * ceilDiv' b 64

/-- Commands for `n` key positions of `e` elements against `q` query rows: the scores and their STAT commands. -/
def keyCmds (n q e : Nat) : List (EngCmd × Nat) := mmaCuts e (tiles n q) ++ [(.stat, tiles n q)]

/-- Commands for `n` value positions of `dim` elements. -/
def valueCmds (n q dim : Nat) : List (EngCmd × Nat) := mmaCuts (ceilDiv' n 32 * 32) (tiles dim q)

/-- Commands that copy `n` bytes. -/
def copyCmds (n : Nat) : List (EngCmd × Nat) := if n = 0 then [] else [(.xfer, ceilDiv' n 8192)]

/-- Commands repeated `k` times. -/
def repeatCmds (k : Nat) (cs : List (EngCmd × Nat)) : List (EngCmd × Nat) := cs.map fun x => (x.1, k * x.2)

/-- Takes the first command of a list of runs, and what is left. -/
def takeCmd : List (EngCmd × Nat) → Option (EngCmd × List (EngCmd × Nat))
  | [] => none
  | (c, n) :: rest =>
    if n = 0 then takeCmd rest else some (c, if n = 1 then rest else (c, n - 1) :: rest)

/-- Positions of runs. -/
def viewLength (vs : List (Nat × Nat)) : Nat := (vs.map fun v => v.2 - v.1).sum

/-- The engine commands of a page task on the Atlas path. -/
def taskCmds (p : TaskPlan) : List (EngCmd × Nat) :=
  if p.moss then []
  else
    let n := viewLength p.views
    copyCmds p.moveBytes ++ (if p.keyElems = 0 then [] else repeatCmds p.keyTimes (keyCmds n p.rows p.keyElems)) ++
      (if p.valElems = 0 then [] else repeatCmds p.valTimes (valueCmds n p.rows p.valElems))

/-! ### Query frames and passes (R128, R231) -/

/-- Query frames of 1 MiB that an operand of `rows` rows of `e` BF16 elements asks for. -/
def framesFor (rows e : Nat) : Nat := max 1 (ceilDiv' (rows * e * 2) 1048576)

/-- Query rows that `k` frames hold. -/
def frameRows (k e : Nat) : Nat := max 1 (k * 1048576 / max 1 (2 * e))

/-- Query rows of each pass, ascending. -/
def passRows (rows e k : Nat) : List Nat :=
  let r := frameRows k e
  (List.range (max 1 (ceilDiv' rows r))).map fun i => min r (rows - i * r)

/-- Query rows that the query store holds at once (R186). -/
def queryRows (elems : Nat) : Nat := max 1 (32768 / (2 * max 1 elems))

/-- The page tasks of a job that holds `k` query frames: each pass reads the pages of the Atlas path again. -/
def passPlan (x : Job) (k : Nat) : List TaskPlan :=
  (x.plan.filter (·.moss)) ++
    (passRows x.rows x.elems k).flatMap fun r => (x.plan.filter fun p => !p.moss).map fun p => { p with rows := r }

/-! ### Cores -/

/-- The die group of a core, and of a page (R18). -/
def coreGroup (c : Nat) : Nat := c / 16
def pageGroup (p : Nat) : Nat := pagePc p / 192

def coreOf (s : State) (c : Nat) : Core := mget {} s.sched.cores c
def updCore (c : Nat) (f : Core → Core) (s : State) : State :=
  { s with sched := { s.sched with cores := mset s.sched.cores c (f (coreOf s c)) } }
def attDie (s : State) (d : Nat) : AttDie := mget {} s.sched.attDies d
def updAttDie (d : Nat) (f : AttDie → AttDie) (s : State) : State :=
  { s with sched := { s.sched with attDies := mset s.sched.attDies d (f (attDie s d)) } }

def job? (s : State) (j : Nat) : Option Job := mfind s.sched.jobs j
def setJob (j : Nat) (x : Job) (s : State) : State := { s with sched := { s.sched with jobs := mset s.sched.jobs j x } }
def updJob (j : Nat) (f : Job → Job) (s : State) : State :=
  match job? s j with
  | some x => setJob j (f x) s
  | none => s
def task? (s : State) (t : Nat) : Option PageTask := mfind s.sched.tasks t

/-- The jobs of a core, with their numbers, in placement order. -/
def jobsOn (s : State) (c : Nat) : List (Nat × Job) :=
  (coreOf s c).jobs.filterMap fun j => (job? s j).map fun x => (j, x)

/-- Query frames held on a core, and how many BE jobs hold. -/
def framesTaken (s : State) (c : Nat) : List Nat := (jobsOn s c).flatMap fun x => x.2.frames
def framesHeld (s : State) (c : Nat) : Nat := (framesTaken s c).length
def beFramesHeld (s : State) (c : Nat) : Nat := (((jobsOn s c).filter fun x => !x.2.lc).map fun x => x.2.frames.length).sum

/-- ATD_SCHEDCFG.BE_JOBS and QF_BE of a core's die (Table 8.6). -/
def beJobsMax (s : State) (c : Nat) : Nat := min 8 (max 1 (bitsOf (regWord s (0x00C00000 + c / 4 * 0x10000)) 3 0))
def qfBe (s : State) (c : Nat) : Nat := max 1 (bitsOf (regWord s (0x00C00000 + c / 4 * 0x10000)) 9 8)

/-- The frond table gives the core owned slots. -/
def hasOwnedSlots (s : State) (c : Nat) : Bool :=
  match frondTable s with
  | some f => f.entries.any fun e => e.kind == 0 && e.index == c
  | none => false

/-- The query frames that frond entries name on a core, as a mask. -/
def frondFrames (s : State) (c : Nat) : Nat :=
  match frondTable s with
  | some f => (f.entries.filter fun e => e.kind == 0 && e.index == c).foldl (fun m e => m ||| e.frames) 0
  | none => 0

/-- The free query frames in the order in which a job that no frond entry names frames for takes them: those that frond entries name
come last (DESIGN CHOICE, log 43). -/
def freeFrames (s : State) (c : Nat) : List Nat :=
  let free := (List.range 4).filter fun i => !(framesTaken s c).contains i
  (free.filter fun i => !bitOf (frondFrames s c) i) ++ free.filter fun i => bitOf (frondFrames s c) i

/-- Query frames that a BE job may take on a core (R248). -/
def beFramesFree (s : State) (c : Nat) : Nat :=
  let free := (freeFrames s c).length
  if hasOwnedSlots s c then min free (qfBe s c - beFramesHeld s c) else free

/-- The core has a free command queue, where the job uses the engine (R234). -/
def queueFree (s : State) (x : Job) (c : Nat) : Bool := !x.engine || decide ((jobsOn s c).countP (fun y => y.2.engine) < 16)

/-- The core is free for a job that no frond entry places: a BE job (R248), or the intake of an LC request, which takes none of the
shares of BE work. -/
def coreFree (s : State) (x : Job) (c : Nat) : Bool :=
  !dieLost s (c / 4) && queueFree s x c &&
  (if x.lc then !(freeFrames s c).isEmpty
   else decide ((jobsOn s c).countP (fun y => !y.2.lc) < beJobsMax s c) && decide (0 < beFramesFree s c)) &&
  (match part? s x.part with
    | some p => !p.conf || bitOf p.tdmCores c
    | none => true)

/-! ### The operand buffer (R231, R232) -/

/-- Blocks of 512 lines of a query frame, and of a page frame. -/
def queryBlocks (f : Nat) : List Nat := (List.range 16).map (16 * f + ·)
def pageBlock (f : Nat) : Nat := 64 + f

/-- The block of the work region that a job writes (DESIGN CHOICE, log 69). -/
def workBlock (j : Nat) : Nat := 112 + j % 16

/-- A write of blocks sets their valid bits and the writer's tag (R232). -/
def writeBlocks (c n : Nat) (bs : List Nat) (s : State) : State :=
  updCore c (fun y => { y with obuf := bs.foldl (fun m b => mset m b n) y.obuf }) s

/-- Reads of blocks for partition `n`: each that is not valid under its tag is answered with zeros and counts in TAGMISS (R232). -/
def readBlocks (c n : Nat) (bs : List Nat) (s : State) : State :=
  let miss := bs.countP fun b => mfind (coreOf s c).obuf b != some n
  if miss = 0 then s else updAttDie (c / 4) (fun d => { d with tagMiss := sat32 (d.tagMiss + miss) }) s

/-- The job streams pages: its page tasks on the Atlas path, or the values of a lane on the Moss path. -/
def streaming (s : State) (j : Nat) (x : Job) : Bool :=
  let mine := s.sched.tasks.filter fun t => t.2.job == j
  (x.plan.any fun p => !p.moss) || (mine.any fun t => !t.2.moss) ||
    (x.plan.isEmpty && mine.isEmpty && ((x.cmds.any fun c => c.1 != .signal) || x.queue.any fun c => c.2 != .signal))

/-- The free page frames of a core. -/
def freePageFrames (s : State) (c : Nat) : List Nat :=
  let taken := (jobsOn s c).flatMap fun x => x.2.pageFrames
  (List.range 48).filter fun f => !taken.contains f

/-- A placed job takes its two page frames when it begins to stream pages, and lets them go when it has done so (R231). -/
def settleFrames (j : Nat) (s : State) : State :=
  match job? s j with
  | none => s
  | some x =>
    match x.core with
    | none => s
    | some c =>
      if streaming s j x then
        if x.pageFrames.isEmpty then
          let fs := (freePageFrames s c).take 2
          writeBlocks c x.part (fs.map pageBlock) (setJob j { x with pageFrames := fs } s)
        else s
      else if x.pageFrames.isEmpty then s
      else setJob j { x with pageFrames := [] } s

/-! ### Command queues (R234, R254) -/

/-- The next command that the job's Skipper core enqueues, and what its source has left: that of its oldest page task that has one, or,
once its page tasks are done, one of its own. -/
def nextSource (s : State) (j : Nat) (x : Job) : Option (Option Nat × EngCmd × List (EngCmd × Nat)) :=
  let mine := s.sched.tasks.filter fun t => t.2.job == j
  match firstSome (fun (t : Nat × PageTask) => (takeCmd t.2.cmds).map fun c => (some t.1, c.1, c.2)) mine with
  | some c => some c
  | none => if x.plan.isEmpty && mine.isEmpty then (takeCmd x.cmds).map fun c => (none, c.1, c.2) else none

/-- A command goes from its source into the queue. -/
def enqueueCmd (j : Nat) (src : Option Nat) (c : EngCmd) (rest : List (EngCmd × Nat)) (s : State) : State :=
  let push : Job → Job := fun y => { y with queue := y.queue ++ [(src, c)] }
  match src with
  | none => updJob j (fun y => push { y with cmds := rest }) s
  | some t =>
    updJob j push (match task? s t with
      | some x => { s with sched := { s.sched with tasks := mset s.sched.tasks t { x with cmds := rest } } }
      | none => s)

/-- The Skipper core of a job fills its command queue, which holds 64 at most (`fuel`: how many more at most). -/
def enqueueAll (j : Nat) : Nat → State → State
  | 0, s => s
  | fuel + 1, s =>
    match job? s j with
    | none => s
    | some x =>
      if !x.engine || x.core.isNone || decide (64 ≤ x.queue.length) then s
      else match nextSource s j x with
        | none => s
        | some (src, c, rest) => enqueueAll j fuel (enqueueCmd j src c rest s)

/-- The queue of a job has a command ready. -/
def queueReady (s : State) (j : Nat) : Bool := (job? s j).any fun x => !x.queue.isEmpty

/-- The job's Skipper core keeps the page frames and the command queue up to date; a queue that becomes ready ends the idling of the
engine (R236). -/
def feedJob (j : Nat) (s : State) : State :=
  let s1 := enqueueAll j 64 (settleFrames j s)
  if !queueReady s j && queueReady s1 j then
    match (job? s1 j).bind (·.core) with
    | some c => updCore c (fun y => { y with idleUntil := 0 }) s1
    | none => s1
  else s1

/-! ### Placement (R247, R248, R312) -/

/-- A job is placed on core `c` with its query frames: the passes follow (R128, R248), and the lines it writes carry its partition's
tag (R232). -/
def placeJob (j c : Nat) (fs : List Nat) (s : State) : State :=
  match job? s j with
  | none => s
  | some x =>
    let y := { x with core := some c, frames := fs, placed := s.sched.nextPlaced, plan := passPlan x fs.length }
    let s1 := chargeReads x.part x.readBytes { s with sched := { s.sched with nextPlaced := s.sched.nextPlaced + 1 } }
    feedJob j (writeBlocks c x.part (fs.flatMap queryBlocks ++ [workBlock j])
      (updCore c (fun k => { k with jobs := k.jobs ++ [j] }) (setJob j y s1)))

/-- The distinct cores of a frond in a table, ascending, with the query frames its entries give there. -/
def frondCores (f : FrondTable) (n : Nat) : List (Nat × Nat) :=
  (List.range 64).filterMap fun c =>
    let es := f.entries.filter fun e => e.kind == 0 && e.frond == n && e.index == c
    if es.isEmpty then none else some (c, es.foldl (fun m e => m ||| e.frames) 0)

/-- The query frames that a mask names. -/
def maskFrames (m : Nat) : List Nat := (List.range 4).filter fun i => bitOf m i

/-- The frond occurrence that an LC request owns (R311). -/
def ownedOccurrence (s : State) (r : Req) : Option (Nat × Nat) :=
  match r.origin with
  | .fabric c m _ => (s.fronds.taken.find? fun x => x.2.2.1 == c && x.2.2.2 == m).map fun x => (x.1, x.2.1)
  | .ring _ _ _ => none

/-- The cores of the jobs of an LC request, in placement order; none where R312 cannot place one of them. -/
def lcCores (s : State) (r : Req) (jobs : List Job) : Option (List (Nat × Nat)) :=
  match frondTable s, ownedOccurrence s r with
  | some f, some (n, _) =>
    let cs := frondCores f n
    if decide (jobs.length ≤ cs.length) && cs.all (fun x => !dieLost s (x.1 / 4)) && (jobs.zip cs).all (fun x => coreGroup x.2.1 == x.1.group) then some (cs.take jobs.length)
    else none
  | _, _ => if jobs.isEmpty then some [] else none

/-- An LC request whose jobs cannot be placed is answered SCHEDULE_FAULT and counts as refused (R311). -/
def scheduleFault (r : Req) (op : Nat) (s : State) : State :=
  answer r op stScheduleFault 0
    { s with fronds := { s.fronds with admitted := s.fronds.admitted - 1, refused := sat32 (s.fronds.refused + 1) } }

/-! ### Holders of programs and weight sets (R242, R353) -/

def holdProgs (n : Nat) (hooks : List Nat) (wset : Option Nat) (up : Bool) (s : State) : State :=
  let step := fun (k : Nat) => if up then k + 1 else k - 1
  updPart n (fun p =>
    { p with
      progs := p.progs.map fun x => if hooks.contains x.number then { x with holders := step x.holders } else x
      wsets := p.wsets.map fun x => if wset = some x.id then { x with holders := step x.holders } else x }) s

/-- Codes of PROG_UNLOAD and WSET_UNLOAD (Table 12.7). -/
def codeProgUnload : Nat := 0x22
def codeWsetUnload : Nat := 0x24

/-- Completes the started ring command of a partition with a code and an ARG0 value. -/
def completeUnload (n code arg : Nat) (s : State) : State :=
  match s.host.rings.find? fun x => x.1 / 8 == n && x.2.fetched.any fun f => f.started && f.code == code && f.arg0 == arg with
  | none => s
  | some (k, x) =>
    match x.fetched.find? fun f => f.started && f.code == code && f.arg0 == arg with
    | none => s
    | some f => complete n (k % 8) f.idx stOk 0 s

/-- The attention requests of a partition that wait with their hook check behind them: stalled, or waiting in an accumulator set. -/
def checkedReqs (s : State) (n : Nat) : List Req :=
  ((s.fab.stalled.filter fun x => x.op == 1 || x.op == 2 || x.op == 3).map (·.req) ++
    s.accSets.flatMap fun a => (a.held ++ a.turn).map (·.req)).filter fun r => reqPart s r == some n

/-- A request that waits holds program `k`, or weight set `k` (Table 4.2). -/
def waitsOnProg (s : State) (n k : Nat) : Bool :=
  (checkedReqs s n).any fun r => (attBlock r.body).hooked && (attBlock r.body).hook == k
def waitsOnWset (s : State) (n k : Nat) : Bool := (checkedReqs s n).any fun r => (attBlock r.body).wset == k

/-- KiB that a program takes in a store (R239), from its header: code up to the next 64 bytes, and data. -/
def codeSpan (img : List Byte) : Nat := (fieldAt img 8 4 + 63) / 64 * 64
def progKib (img : List Byte) : Nat := ceilDiv' (codeSpan img + fieldAt img 0xC 4) 4096 * 4

/-- The free 4 KiB blocks of the 768 KiB for partition programs in every program store. -/
def storeFree (s : State) : List Nat := (List.range 192).filter fun b => (mfind s.sched.store b).isNone

/-- A program is written into the program stores of all cores, its lines under the partition's tag (R239, R242). -/
def storeProg (n k : Nat) (img : List Byte) (s : State) : State :=
  let bs := (storeFree s).take (progKib img / 4)
  { s with sched := { s.sched with store := bs.foldl (fun m b => mset m b (n, k)) s.sched.store } }

/-- A program leaves the stores. -/
def unstoreProg (n k : Nat) (s : State) : State :=
  { s with sched := { s.sched with store := s.sched.store.filter fun x => x.2 != (n, k) } }

/-- Unloads that no request holds back any more end: the unload is measured, the program or weight set freed, and its
command completes. -/
def settleUnloads (n : Nat) (s : State) : State :=
  match part? s n with
  | none => s
  | some p =>
    let progFree : Prog → Bool := fun x => x.unloading && x.holders == 0 && !waitsOnProg s n x.number
    let wsetFree : WSet → Bool := fun x => x.unloading && x.holders == 0 && !waitsOnWset s n x.id
    let ps := p.progs.filter progFree
    let ws := p.wsets.filter wsetFree
    let s1 := ps.foldl (fun s x => unstoreProg n x.number (measure n 1 1 x.number x.image s)) s
    let s2 := ws.foldl (fun s x => measure n 2 1 x.id x.image s) s1
    let s3 := updPart n (fun p =>
      { p with progs := p.progs.filter fun x => !progFree x
               wsets := p.wsets.filter fun x => !wsetFree x }) s2
    let s4 := ps.foldl (fun s x => completeUnload n codeProgUnload x.number s) s3
    ws.foldl (fun s x => completeUnload n codeWsetUnload x.id s) s4

/-! ### Starting and ending a run -/

/-- What a request hands to its jobs. -/
structure RunPlan where
  body : List Byte
  mdbs : List Nat := []
  hooks : List Nat := []
  wset : Option Nat := none
  undo : Option (Nat × Nat × Option AccSet) := none
  jobs : List Job
  deriving DecidableEq, Repr

/-- Adds the jobs of a run, numbered in placement order (R247). -/
def addJobs (k : Nat) : List Job → State → State
  | [], s => s
  | x :: xs, s =>
    let j := s.sched.nextJob
    addJobs k xs { s with sched := { s.sched with jobs := mset s.sched.jobs j { x with run := k }, nextJob := j + 1 } }

/-- The core and the frames that its frond entries name for an LC job are free: a command queue, and those frames. -/
def lcPlaceFree (s : State) (x : Job) : Option (Nat × List Nat) :=
  x.lcPlace.bind fun y =>
    if queueFree s x y.1 && (maskFrames y.2).all fun i => !(framesTaken s y.1).contains i then some (y.1, maskFrames y.2) else none

/-- The LC jobs of a run take their cores and frames; one whose command queue or frames another job still holds waits for them. -/
def placeLc (first : Nat) (occ : Option (Nat × Nat)) (cores : List (Nat × Nat)) (s : State) : State :=
  cores.zipIdx.foldl (fun s x =>
    let j := first + x.2
    let s1 := updJob j (fun y => { y with frond := occ, lcPlace := some x.1 }) s
    match (job? s1 j).bind (lcPlaceFree s1) with
    | some (c, fs) => placeJob j c fs s1
    | none => s1) s

/-- The intake job of a request, in the die group of the network die that received it (R247); a request of the host takes group 0
(DESIGN CHOICE, log 84). None where no core of the group is left (log 84). -/
def intakeGroup (r : Req) : Nat := match r.origin with | .fabric _ _ p => p / 2 | .ring _ _ _ => 0
def intakeJobs (s : State) (r : Req) : List Job :=
  if (List.range 4).all fun i => dieLost s (4 * intakeGroup r + i) then []
  else [{ run := 0, part := 0, lc := false, group := intakeGroup r, engine := false, items := [.intake] }]

/-- One job for each group's part of the final merge tree, where the lanes of a request lie in several groups (DESIGN CHOICE,
log 84). -/
def mergeJobs (jobs : List Job) : List Job :=
  let gs := (List.range 4).filter fun g => jobs.any fun x => x.group == g
  if gs.length ≤ 1 then []
  else gs.map fun g => { run := 0, part := 0, lc := false, group := g, engine := false, items := [.merge] }

/-- A request whose work is left to jobs, its intake the first; without any it is answered at once. -/
def startRun (r : Req) (op n : Nat) (p : RunPlan) (s : State) : State :=
  if p.jobs.isEmpty then respond r op stOk 0 p.body s
  else
    let k := s.sched.nextRun
    let run : Running := ⟨r, op, n, p.body, p.mdbs, p.hooks, p.wset, p.undo⟩
    let intake := intakeJobs s r
    let first := s.sched.nextJob + intake.length
    let s1 := holdProgs n p.hooks p.wset true
      { s with sched := { s.sched with runs := mset s.sched.runs k run, nextRun := k + 1 } }
    let s2 := addJobs k ((intake ++ p.jobs).map fun x => { x with part := n, lc := r.lc }) s1
    if r.lc then placeLc first (ownedOccurrence s r) ((lcCores s r p.jobs).getD []) s2 else s2

/-- A page task ends: its hold on the page goes (R51). -/
def endTask (t : Nat) (s : State) : State :=
  match task? s t with
  | none => s
  | some x =>
    settleHeld x.page { s with sched := { s.sched with tasks := mdel s.sched.tasks t } }

/-- A job leaves its core and the table. -/
def dropJob (j : Nat) (s : State) : State :=
  { s with sched :=
    { s.sched with
      jobs := mdel s.sched.jobs j
      cores := s.sched.cores.map fun x => (x.1, { x.2 with jobs := x.2.jobs.filter (· != j) }) } }

/-- The run leaves the table, and what it holds is let go. -/
def dropRun (k : Nat) (x : Running) (s : State) : State :=
  settleUnloads x.part (holdProgs x.part x.hooks x.wset false
    { s with sched := { s.sched with runs := mdel s.sched.runs k } })

/-- A run whose jobs have all completed is answered. -/
def finishRun (k : Nat) (s : State) : State :=
  match mfind s.sched.runs k with
  | none => s
  | some x => if s.sched.jobs.any (fun y => y.2.run == k) then s else respond x.req x.op stOk 0 x.body (dropRun k x s)

/-- Nothing of the job is left to do. -/
def jobEnded (s : State) (j : Nat) (x : Job) : Bool :=
  x.core.isSome && x.plan.isEmpty && (takeCmd x.cmds).isNone && x.queue.isEmpty && x.items.isEmpty &&
    !(s.sched.tasks.any fun t => t.2.job == j)

/-- A job goes on with what is left of it; one that has nothing left completes, and with the last one its request. -/
def settleJob (j : Nat) (s : State) : State :=
  let s1 := feedJob j s
  match job? s1 j with
  | none => s1
  | some x => if jobEnded s1 j x then finishRun x.run (dropJob j s1) else s1

/-- The accumulator set of a layer put back as it was before a backward request, with the requests held since (R112, R140). -/
def undoSet (u : Nat × Nat × Option AccSet) (s : State) : State :=
  let here := fun (a : AccSet) => a.mdb == u.1 && a.layer == u.2.1
  let now := s.accSets.filter here
  let held := now.flatMap (·.held)
  let turn := now.flatMap (·.turn)
  let rest := s.accSets.filter fun a => !here a
  match u.2.2, desc? s u.1 with
  | some a, some _ => { s with accSets := rest ++ [{ a with held := held, turn := turn }] }
  | none, some _ =>
    held.foldl (fun s h => refuse h.req 3 stNotPermitted s)
      { s with accSets := if turn.isEmpty then rest else rest ++ [{ mdb := u.1, layer := u.2.1, turn := turn }] }
  | _, none => (held ++ turn).foldl (fun s h => refuse h.req 3 stNotPermitted s) { s with accSets := rest }

/-- Tasks leave a Moss unit; a chunk body under way runs to its end (R196). -/
def leaveMoss (ts : List Nat) (c : PcCtl) : PcCtl :=
  { c with
    mossQ := c.mossQ.filter fun q => !ts.contains q.1
    mossCur := match c.body with
      | .moss _ _ _ => c.mossCur
      | _ => c.mossCur.filter fun q => !ts.contains q.1 }

/-- A run goes with its tasks and jobs, and no state of the sequence has changed. -/
def cancelRun (k : Nat) (x : Running) (s : State) : State :=
  let js := (s.sched.jobs.filter fun y => y.2.run == k).map (·.1)
  let ts := (s.sched.tasks.filter fun y => js.contains y.2.job).map (·.1)
  let s1 := js.foldl (fun s j => dropJob j s) (ts.foldl (fun s t => endTask t s) s)
  let s2 := { s1 with mem := { s1.mem with pcs := s1.mem.pcs.map fun y => (y.1, leaveMoss ts y.2) } }
  dropRun k x (match x.undo with | some u => undoSet u s2 | none => s2)

/-- A run ends with a status other than OK. -/
def failRun (k st : Nat) (body : List Byte) (s : State) : State :=
  match mfind s.sched.runs k with
  | none => s
  | some x => respond x.req x.op st 0 body (cancelRun k x s)

end Sys2Proof.Machine
end

