-- ==== Sys2Proof/Machine/Attend.lean ====
section
/-!
DEFINITION. The attention requests and MERGE (chapter 4): what a request reads, the paths and the division of its work,
the partial tuples it answers, and the backward pass with its accumulator sets.
-/

namespace Sys2Proof.Machine

open Sys2Proof

/-! ### What a request reads (R109, R124, R125) -/

/-- A loaded weight set of a partition; `holds`: the request holds it, so an unload that waits does not hide it (R353). -/
def wsetFor (holds : Bool) (s : State) (n k : Nat) : Option WSet :=
  match part? s n with
  | some p => p.wsets.find? fun w => w.id == k && (holds || !w.unloading)
  | none => none

/-- A loaded partition program; `holds`: the request holds it, so an unload that waits does not hide it (R242). -/
def progFor (holds : Bool) (s : State) (n k : Nat) : Option HookProg :=
  match part? s n with
  | some p => (p.progs.find? fun x => x.number == k && (holds || !x.unloading)).map fun x => hookProg x.image
  | none => none

/-- The hook check of order 1 (R123): none where the hook is missing or has no gradient entry. -/
def hookFor (holds : Bool) (s : State) (n op : Nat) (a : AttBlock) : Option (Option HookProg) :=
  if !a.hooked then some none
  else match progFor holds s n a.hook with
    | none => none
    | some p => if op = 3 ∧ p.grad = 0xFFFFFFFF then none else some (some p)

/-- The hook check of a request that reaches it. -/
def hookOf (s : State) (n op : Nat) (a : AttBlock) : Option (Option HookProg) := hookFor false s n op a

/-- The stored geometry of a layer as a request meets it; none where order 3 of Table 4.11 refuses it. A weight set without the
stream's layer or the request's heads is refused with those whose QN or L does not match (DESIGN CHOICE, log 91). -/
def layerGeo (d : Desc) (a : AttBlock) (w : Option WSet) : Option AttGeo :=
  match (layerStreams d a.layer).filterMap (d.streams[·]?) with
  | [] => none
  | st :: rest =>
    if st.kind = .latent then
      match w with
      | none => none
      | some w =>
        if a.rope = 0 ∧ w.l + st.ropeElems = st.elems ∧ st.layer < w.layers ∧ a.headFirst + a.headCount ≤ w.heads then
          some { latent := true, heads := 1, elems := st.elems, rotary := st.ropeElems, qdim := w.qn + st.ropeElems, odim := w.l }
        else none
    else if a.wset ≠ 0 ∨ st.elems < a.rope then none
    else
      some { latent := false, heads := (st :: rest).countP fun x => x.kind == .keys, elems := st.elems, rotary := a.rope,
             qdim := st.elems, odim := st.elems }

/-- What an attention request reads of its descriptor. -/
structure Reading where
  geo : AttGeo
  wset : Option WSet
  hook : Option HookProg
  /-- KV head, key stream, value stream -/
  heads : List (Nat × Nat × Nat)
  deriving DecidableEq, Repr

/-- The streams that a request uses. -/
def usedStreams (x : Reading) : List Nat := (x.heads.flatMap fun h => [h.2.1, h.2.2]).dedup

def keyStreams (d : Desc) (x : Reading) : List Stream := x.heads.filterMap fun h => d.streams[h.2.1]?

/-- A key row of the stream is rotated when it is read (step 2 of Table 4.7). -/
def rotatedAtRead (g : AttGeo) (st : Stream) : Bool := !st.ropeStored && g.rotary != 0

/-- ROPE_THETA serves where the node rotates a query or a key row of the request; it is not looked at where it rotates none
(DESIGN CHOICE, log 91). -/
def attThetaOk (d : Desc) (a : AttBlock) (x : Reading) : Bool :=
  thetaOk a.theta || x.geo.rotary == 0 || !(a.qrot || (keyStreams d x).any (rotatedAtRead x.geo))

/-- MOSS_EN of the memory base die of a page (Table 6.7). -/
def mossEnabled (s : State) (p : Nat) : Bool := bitOf (regWord s (0x00800000 + pagePc p / 64 * 0x10000)) 16

/-- The key streams are Moss-eligible for the request (R127). -/
def mossEligible (s : State) (op : Nat) (d : Desc) (x : Reading) : Bool :=
  op == 1 && (keyStreams d x).all fun st =>
    !fmtCoded st.fmt && st.fmt != 1 && !rotatedAtRead x.geo st &&
    st.entries.all fun e => let l := locOf s d e; l.swapped || l.lost || mossEnabled s l.page

/-- The path of a request: Moss or not; none where PATH asks for a path that the streams do not support. -/
def pathOf (s : State) (op : Nat) (a : AttBlock) (d : Desc) (x : Reading) : Option Bool :=
  let ok := mossEligible s op d x
  if a.path = 1 then (if ok then some true else none)
  else some (a.path == 0 && ok && decide (groupSize a x.geo * a.rows ≤ 8))

/-- The smallest TOKENS of the streams used: the snapshot of R50. -/
def snapshot (d : Desc) (x : Reading) : Nat :=
  match (usedStreams x).filterMap (d.streams[·]?) with
  | [] => 0
  | st :: rest => rest.foldl (fun m y => min m y.tokens) st.tokens

/-- C of R125 and R219. -/
def tailSeen (d : Desc) (op : Nat) (a : AttBlock) (arrival : Nat) : Nat :=
  match d.chrysalis with
  | some c => if op = 1 ∧ a.tag ≠ 0 ∧ a.tag = d.specTag ∧ arrival < d.specDeadline then c.counts.getD a.layer 0 else 0
  | none => 0

/-- The read range as runs of positions (R125). -/
def readRange (a : AttBlock) (st : Stream) (hi0 : Nat) : List (Nat × Nat) :=
  let top := a.qpos + a.rows
  let clip := a.kind == 1 || (a.kind == 2 && decide (a.maskParam ≤ top)) || (a.kind == 3 && !a.blockFull)
  let hi := if clip then min hi0 top else hi0
  (if st.ring then [(0, min st.sinks hi), (max st.sinks (a.qpos + 1 - st.window), hi)] else [(0, hi)]).filter
    fun x => decide (x.1 < x.2)

/-- The positions of runs, ascending. -/
def positions (rs : List (Nat × Nat)) : List Nat := rs.flatMap fun x => (List.range (x.2 - x.1)).map (x.1 + ·)

/-- Q_POS of a request on a ring stream (R125). -/
def ringPosOk (a : AttBlock) (p : Nat) (d : Desc) (x : Reading) : Bool :=
  ((usedStreams x).filterMap (d.streams[·]?)).all fun st => !st.ring || decide (p ≤ a.qpos + st.tokPerPage)

/-- The page entries that the range touches: stream and index. -/
def touchedEntries (d : Desc) (x : Reading) (ps : List Nat) : List (Nat × Nat) :=
  (usedStreams x).flatMap fun i => match d.streams[i]? with
    | some st => (entriesOf st ps).map fun j => (i, j)
    | none => []

/-! ### Segments and sub-blocks (R133) -/

/-- Consecutive positions that lie in one key page and one value page stay together. -/
def cutSegs : List (Nat × Nat × Nat) → List (List (Nat × Nat × Nat))
  | [] => []
  | x :: xs =>
    match cutSegs xs with
    | (y :: ys) :: rest =>
      if y.1 = x.1 + 1 ∧ y.2 = x.2 then (x :: y :: ys) :: rest else [x] :: (y :: ys) :: rest
    | l => [x] :: l

/-- Sub-blocks of 64 positions of a head's read range. -/
def subBlocks (ks vs : Stream) (ps : List Nat) : List (List Nat) :=
  (cutSegs (ps.map fun p => (p, (placeIn ks p).1, (placeIn vs p).1))).flatMap fun seg =>
    chunks 64 seg.length (seg.map (·.1))

/-- The rows of a position: the key as step 2 of Table 4.7 forms it, and the value (R124, R153). -/
def keyPosAt (s : State) (d : Desc) (a : AttBlock) (g : AttGeo) (ks vs : Stream) (p : Nat) : Option KeyPos :=
  match readRow s d ks p with
  | none => none
  | some k =>
    let key :=
      if rotatedAtRead g ks then
        plainRow (rotateRow false a.interleaved a.theta (if g.latent then g.elems - g.rotary else 0) g.rotary p k.values)
      else k
    if g.latent then some ⟨p, key, k.values.take g.odim, true⟩
    else (readRow s d vs p).map fun v => ⟨p, key, v.values, true⟩

/-- The sub-blocks of a head with their rows; none where a stored block is corrupt. -/
def headBlocks (s : State) (d : Desc) (a : AttBlock) (g : AttGeo) (ks vs : Stream) (ps : List Nat) :
    Option (List (List KeyPos)) :=
  (subBlocks ks vs ps).mapM fun blk => blk.mapM (keyPosAt s d a g ks vs)

/-- One KV head of a request: its streams and its sub-blocks. -/
structure HeadRead where
  kv : Nat
  key : Nat
  val : Nat
  ks : Stream
  vs : Stream
  ps : List Nat
  blocks : List (List KeyPos)
  deriving DecidableEq, Repr

/-- Reads every head of a request; a corrupt stored block gives the position of its row (R172). -/
def readHeads (s : State) (d : Desc) (a : AttBlock) (x : Reading) (hi : Nat) : List (Nat × Nat × Nat) → Except Nat (List HeadRead)
  | [] => .ok []
  | (k, i, j) :: rest =>
    match d.streams[i]?, d.streams[j]? with
    | some ks, some vs =>
      let ps := positions (readRange a ks hi)
      match headBlocks s d a x.geo ks vs ps with
      | none => .error ((ps.find? fun p => (keyPosAt s d a x.geo ks vs p).isNone).getD 0)
      | some bs =>
        match readHeads s d a x hi rest with
        | .error p => .error p
        | .ok l => .ok (⟨k, i, j, ks, vs, ps, bs⟩ :: l)
    | _, _ => readHeads s d a x hi rest

/-! ### The forward pass -/

/-- The blocks as query row `i` sees them. -/
def seenBy (a : AttBlock) (ks : Stream) (bitmap : List Byte) (i : Nat) (blocks : List (List KeyPos)) : List (List KeyPos) :=
  blocks.map fun b => b.map fun k => { k with vis := visible a ks bitmap i k.pos }

/-- The query of a row and a head after step 1 of Table 4.7. -/
def queryOf (a : AttBlock) (x : Reading) (layer h i : Nat) (q : List F32) : List F32 :=
  (formQuery a x.geo x.wset layer h i q).map bf16

/-- The tuple of one query row and head, with NAN_SEEN; none where the hook is stopped. -/
def forwardOne (a : AttBlock) (x : Reading) (hr : HeadRead) (arr : AttArrays) (h i : Nat) : Option Tup :=
  let q := queryOf a x hr.ks.layer h i (arr.q.getD (i * a.headCount + (h - a.headFirst)) [])
  (nodeTup a x.hook x.geo.odim (q.map f32Num) h i (seenBy a hr.ks arr.bitmap i hr.blocks)).map fun t =>
    { t with bad := t.bad || q.any f32Bad }

/-- The rows and heads of a request in the index order of R111. -/
def rowHeads (a : AttBlock) : List (Nat × Nat) :=
  (List.range a.rows).flatMap fun i => (List.range a.headCount).map fun k => (i, a.headFirst + k)

/-- The head that a query head reads. -/
def headOf (a : AttBlock) (x : Reading) (hs : List HeadRead) (h : Nat) : Option HeadRead :=
  hs.find? fun y => y.kv == h / groupSize a x.geo

/-- Every tuple of a request; none where the hook is stopped. -/
def forwardAll (a : AttBlock) (x : Reading) (hs : List HeadRead) (arr : AttArrays) : Option (List Tup) :=
  (rowHeads a).mapM fun z => (headOf a x hs z.2).bind fun hr => forwardOne a x hr arr z.2 z.1

/-! ### Work division (R128) -/

/-- A page of a stream that the read range touches: its entry, its positions as runs, and its rows from the first to the end of them. -/
structure PageRead where
  entry : Nat
  page : Nat
  coded : Bool
  views : List (Nat × Nat)
  pageRows : Nat
  deriving DecidableEq, Repr

/-- Rows from the least to the greatest of a list. -/
def rowSpan (l : List Nat) : Nat := match l with | [] => 0 | r :: rs => rs.foldl max r + 1 - rs.foldl min r

/-- The pages of a stream over the read range, in page-list order: one for each page, also where its positions form two runs. -/
def pageReads (s : State) (d : Desc) (st : Stream) (ps : List Nat) : List PageRead :=
  let segs := cutSegs (ps.map fun p => (p, (placeIn st p).1, 0))
  (sortBy (fun a b => decide (a ≤ b)) (entriesOf st ps)).filterMap fun j =>
    let mine := segs.filter fun seg => (seg.head?).any fun y => y.2.1 == j
    (st.entries[j]?).map fun e =>
      { entry := j
        page := (locOf s d e).page
        coded := fmtCoded st.fmt
        views := mine.filterMap fun seg => (seg.head?).map fun y => (y.1, y.1 + seg.length)
        pageRows := rowSpan (mine.flatten.map fun y => (placeIn st y.1).2) }

/-- The value page starts at a position of the key page. -/
def startsIn (y z : PageRead) : Bool :=
  (z.views.head?).any fun v => y.views.any fun u => decide (u.1 ≤ v.1) && decide (v.1 < u.2)

/-- A page of a lane: a key page of its group with the group's value pages that start in it, or a value page whose key page lies in
another group (R19, R128). -/
structure LanePage where
  key : Option PageRead
  vals : List PageRead
  deriving DecidableEq, Repr

/-- The pages of a lane in page-list order. -/
def lanePages (g : Nat) (keys vals : List PageRead) : List LanePage :=
  keys.flatMap fun y =>
    let mine := vals.filter fun z => pageGroup z.page == g && startsIn y z
    if pageGroup y.page = g then [⟨some y, mine⟩] else mine.map fun z => ⟨none, [z]⟩

/-- Bytes that XFER commands copy for a page: those of a coded page, or of a page that is read for another group. -/
def moveBytesOf (y : PageRead) (away : Bool) : Nat := if y.coded || away then pageSize else 0

/-- The page task of a key page on the Atlas path; a latent row is also its value. -/
def keyTask (m op : Nat) (x : Reading) (hr : HeadRead) (y : PageRead) : TaskPlan :=
  let k := if op = 3 then 3 else 1
  { page := y.page, mdb := m, stream := hr.key, views := y.views, moss := false, keyElems := x.geo.elems, keyTimes := k,
    valElems := if x.geo.latent then x.geo.odim else 0, valTimes := k, moveBytes := moveBytesOf y false, rows := 0,
    pageRows := y.pageRows, readBytes := pageSize }

/-- The page task of a value page; `away`: its rows go to a core of another group, which forms the products (R128). -/
def valueTask (m op : Nat) (x : Reading) (hr : HeadRead) (away : Bool) (z : PageRead) : TaskPlan :=
  { page := z.page, mdb := m, stream := hr.val, views := z.views, moss := false, valElems := if away then 0 else x.geo.odim,
    valTimes := if op = 3 then 2 else 1, moveBytes := moveBytesOf z away, rows := 0, pageRows := z.pageRows,
    readBytes := pageSize }

/-- Work items of a job of a lane: the walk of its pages, rotation at read, hooks and packing (DESIGN CHOICE, log 84: one item of each,
and one hook item for each page). -/
def laneItems (a : AttBlock) (x : Reading) (hr : HeadRead) (moss : Bool) (pages : Nat) : List ItemKind :=
  [.gather] ++ (if rotatedAtRead x.geo hr.ks then [.rotate] else []) ++ (if moss then [.dispatch] else []) ++
    (if a.hooked then List.replicate pages .hook else []) ++ [.pack]

/-- The sub-lane jobs of a lane: `WIDTH` slices of its pages. The products of values that lie in another group are the job's own
commands. -/
def atlasLane (m op : Nat) (a : AttBlock) (x : Reading) (hr : HeadRead) (group : Nat) (keys vals : List PageRead) : List Job :=
  let pages := lanePages group keys vals
  let n := pages.length
  let q := groupSize a x.geo * a.rows
  (List.range a.width).filterMap fun k =>
    let mine := (pages.drop (k * n / a.width)).take ((k + 1) * n / a.width - k * n / a.width)
    if mine.isEmpty then none
    else
      let plan := mine.flatMap fun y => match y.key with
        | some k => keyTask m op x hr k :: y.vals.map (valueTask m op x hr false)
        | none => y.vals.map (valueTask m op x hr true)
      let away := mine.flatMap fun y => match y.key with
        | some k => vals.filter fun z => startsIn k z && pageGroup z.page != group
        | none => []
      some { run := 0, part := 0, lc := false, group := group, engine := true, rows := q, elems := x.geo.elems, plan := plan,
             cmds := away.flatMap (fun z => repeatCmds (if op = 3 then 2 else 1) (valueCmds (viewLength z.views) q x.geo.odim)) ++
               [(.signal, 1)]
             items := laneItems a x hr false mine.length }

/-- The queries of a KV head's rows in ascending n, as the Moss unit holds them (R186). -/
def laneQueries (a : AttBlock) (x : Reading) (hr : HeadRead) (arr : AttArrays) : List (List F32) :=
  ((rowHeads a).filter fun z => z.2 / groupSize a x.geo == hr.kv).map fun z =>
    queryOf a x hr.ks.layer z.2 z.1 (arr.q.getD (z.1 * a.headCount + (z.2 - a.headFirst)) [])

/-- The raw scores of positions of views, by query row (R188, R189). -/
def rawScores (hr : HeadRead) (qs : List (List F32)) (views : List (Nat × Nat)) : List (List F32) :=
  let ks := hr.blocks.flatten.filter fun k => views.any fun v => decide (v.1 ≤ k.pos) && decide (k.pos < v.2)
  qs.map fun q => ks.map fun k => dotRow (q.map f32Num) k.key

/-- The job of a lane on the Moss path: one page task for each key page of its group (R128, R187), and the post-processing: the
transforms of those pages' scores, and the products of the group's value pages, to which the transformed scores come. -/
def mossLane (m : Nat) (a : AttBlock) (x : Reading) (hr : HeadRead) (group : Nat) (keys vals : List PageRead) (arr : AttArrays) :
    List Job :=
  let mine := keys.filter fun y => pageGroup y.page == group
  let vs := if x.geo.latent then mine else vals.filter fun z => pageGroup z.page == group
  if mine.isEmpty && vs.isEmpty then []
  else
    let q := groupSize a x.geo * a.rows
    let qs := laneQueries a x hr arr
    let plan : List TaskPlan := mine.map fun y =>
      { page := y.page, mdb := m, stream := hr.key, views := y.views, moss := true, keyElems := x.geo.elems, rows := q,
        pageRows := y.pageRows, readBytes := ceilDiv' q (queryRows x.geo.elems) * y.pageRows * rowSize hr.ks.fmt x.geo.elems
        scores := rawScores hr qs y.views }
    let post := mine.map (fun y => (EngCmd.stat, tiles (viewLength y.views) q)) ++
      vs.flatMap fun z => valueCmds (viewLength z.views) q x.geo.odim
    [{ run := 0, part := 0, lc := false, group := group, engine := true, plan := plan, cmds := post ++ [(.signal, 1)],
       readBytes := pageSize * vs.length
       items := laneItems a x hr true mine.length }]

/-- The jobs of an attention request, in ascending (lane, sub-lane) order (R247), and its final merge (R133). -/
def attJobs (s : State) (m op : Nat) (moss : Bool) (d : Desc) (a : AttBlock) (x : Reading) (hs : List HeadRead) (arr : AttArrays) :
    List Job :=
  let lanes := hs.flatMap fun hr =>
    let keys := pageReads s d hr.ks hr.ps
    let vals := if x.geo.latent then [] else pageReads s d hr.vs hr.ps
    (List.range 4).flatMap fun g => if moss then mossLane m a x hr g keys vals arr else atlasLane m op a x hr g keys vals
  lanes ++ mergeJobs lanes

/-! ### Accumulator sets (R139 to R141) -/

/-- Bytes of the flexible area of a pseudo-channel (Table 2.1). -/
def flexBytes : Nat := 23068672

/-- Bytes of a weight set in each pseudo-channel of its partition: the load is spread evenly (DESIGN CHOICE, log 42). -/
def wsetShare (p : Part) (w : WSet) : Nat := ceilDiv' w.image.length (max 1 p.pcs.length)

/-- Bytes of the flexible area in use: projection weights and accumulators (R34). -/
def flexUsed (s : State) (g : Nat) : Nat :=
  (s.parts.map fun x => if x.2.pcs.contains g then (x.2.wsets.map (wsetShare x.2)).sum else 0).sum +
    (s.accSets.map fun a => ((a.pages.filter fun y => pagePc y.1 == g).map (·.2)).sum).sum

def accSet? (s : State) (m layer : Nat) : Option AccSet := s.accSets.find? fun a => a.mdb == m && a.layer == layer
def setAccSet (x : AccSet) (s : State) : State :=
  { s with accSets := (s.accSets.filter fun a => !(a.mdb == x.mdb && a.layer == x.layer)) ++ [x] }
/-- A set that holds nothing is not there. -/
def putAccSet (x : AccSet) (s : State) : State :=
  if !x.opened && x.held.isEmpty && x.turn.isEmpty then
    { s with accSets := s.accSets.filter fun a => !(a.mdb == x.mdb && a.layer == x.layer) }
  else setAccSet x s
def dropAccSet (m layer : Nat) (s : State) : State :=
  { s with accSets := s.accSets.filter fun a => !(a.mdb == m && a.layer == layer) }

/-- An ATT_BACKWARD of the set is still at work. -/
def setBusy (s : State) (m layer : Nat) : Bool :=
  s.sched.runs.any fun x => match x.2.undo with | some u => u.1 == m && u.2.1 == layer | none => false

/-- The accumulator row of a stream's position; zeros before its first contribution. -/
def accRow (x : AccSet) (i p e : Nat) : List F32 :=
  match x.rows.find? fun y => y.1 == i && y.2.1 == p with
  | some y => y.2.2
  | none => List.replicate e f32Zero

/-- Writes an accumulator row, keeping the rows in ascending stream and position. -/
def putAccRow (i p : Nat) (ws : List F32) : List (Nat × Nat × List F32) → List (Nat × Nat × List F32)
  | [] => [(i, p, ws)]
  | y :: ys =>
    if y.1 = i ∧ y.2.1 = p then (i, p, ws) :: ys
    else if i < y.1 ∨ (i = y.1 ∧ p < y.2.1) then (i, p, ws) :: y :: ys
    else y :: putAccRow i p ws ys

/-- Positions of a head that receive a contribution: visible to some row. -/
def contributed (a : AttBlock) (hr : HeadRead) (bitmap : List Byte) : List Nat :=
  hr.ps.filter fun p => (List.range a.rows).any fun i => visible a hr.ks bitmap i p

/-- The allocations that contributions ask for beyond those the set has: page and bytes (R139). -/
def accNeeds (s : State) (d : Desc) (x : AccSet) (items : List (Nat × List Nat)) : List (Nat × Nat) :=
  items.flatMap fun it => match d.streams[it.1]? with
    | none => []
    | some st => (entriesOf st it.2).filterMap fun j => (st.entries[j]?).bind fun e =>
        let p := (locOf s d e).page
        let rows := if fmtCoded st.fmt then entryRows e else st.tokPerPage
        let have_ := ((x.pages.filter fun y => y.1 == p).map (·.2)).sum
        if rows * st.elems * 4 ≤ have_ then none else some (p, rows * st.elems * 4 - have_)

/-- The allocations fit in the flexible areas of their pseudo-channels. -/
def accFits (s : State) (needs : List (Nat × Nat)) : Bool :=
  ((needs.map fun y => pagePc y.1).dedup).all fun g =>
    decide (flexUsed s g + ((needs.filter fun y => pagePc y.1 == g).map (·.2)).sum ≤ flexBytes)

/-! ### The backward pass (R138) -/

/-- One query row and head of a backward request: its query, its dO and its terms by sub-block. -/
structure BwdRow where
  h : Nat
  i : Nat
  q : List F32
  dO : List F32
  terms : List (List BwdTerm)
  deriving DecidableEq, Repr

/-- The rows of a KV head in ascending n (R139), whose blocks of 64 start here (DESIGN CHOICE, log 32); none where the hook is stopped. -/
def bwdRows (a : AttBlock) (x : Reading) (hr : HeadRead) (arr : AttArrays) : Option (List BwdRow) :=
  let g := groupSize a x.geo
  let hs := ((List.range g).map (hr.kv * g + ·)).filter fun h => decide (a.headFirst ≤ h) && decide (h < a.headFirst + a.headCount)
  (hs.flatMap fun h => (List.range a.rows).map fun i => (h, i)).mapM fun z =>
    let k := z.2 * a.headCount + (z.1 - a.headFirst)
    let q := queryOf a x hr.ks.layer z.1 z.2 (arr.q.getD k [])
    let dO := arr.dO.getD k []
    let lse := arr.lse.getD k f32Nan
    let delta := arr.delta.getD k f32Nan
    ((seenBy a hr.ks arr.bitmap z.2 hr.blocks).mapM fun ks =>
      bwdBlock a x.hook (q.map f32Num) dO lse delta z.1 z.2 ks).map fun ts => ⟨z.1, z.2, q, dO.map bf16, ts⟩

/-- dQ of a row as the requester receives it. -/
def bwdRowDq (a : AttBlock) (x : Reading) (hr : HeadRead) (row : BwdRow) : List F32 :=
  formDq a x.geo x.wset hr.ks.layer row.h row.i (bwdDq x.geo.elems (hr.blocks.zip row.terms))

/-- The contributions of the rows to one position: dk and dv terms in ascending n, +0 where the position is hidden. -/
def dkTerms (e : Nat) (rows : List (BwdRow × BwdTerm)) : List (List F32) :=
  rows.map fun z => if z.2.vis then z.1.q.map (fMul z.2.ds) else List.replicate e f32Zero
def dvTerms (e : Nat) (rows : List (BwdRow × BwdTerm)) : List (List F32) :=
  rows.map fun z => if z.2.vis then z.1.dO.map (fMul (bf16 z.2.p)) else List.replicate e f32Zero

/-- Adds the contributions to one position of a head. -/
def addPosition (x : Reading) (hr : HeadRead) (rows : List (BwdRow × BwdTerm)) (p : Nat) (set : AccSet) : AccSet :=
  if !(rows.any fun z => z.2.vis) then set
  else if x.geo.latent then
    let row := addLatent x.geo.odim (accRow set hr.key p x.geo.elems) (dkTerms x.geo.elems rows) (dvTerms x.geo.odim rows)
    { set with rows := putAccRow hr.key p row set.rows }
  else
    let r1 := putAccRow hr.key p (addBlocks (accRow set hr.key p x.geo.elems) (dkTerms x.geo.elems rows)) set.rows
    { set with rows := putAccRow hr.val p (addBlocks (accRow set hr.val p x.geo.odim) (dvTerms x.geo.odim rows)) r1 }

/-- Adds every contribution of a head to the set. -/
def addHead (x : Reading) (hr : HeadRead) (rows : List BwdRow) (set : AccSet) : AccSet :=
  let flat := rows.map fun r => (r, r.terms.flatten)
  (hr.blocks.flatten.zipIdx).foldl (fun set k =>
    addPosition x hr (flat.filterMap fun z => (z.2[k.2]?).map fun t => (z.1, t)) k.1.pos set) set

/-- Runs of consecutive positions: first and count. -/
def posRuns : List Nat → List (Nat × Nat)
  | [] => []
  | p :: ps =>
    match posRuns ps with
    | (q, n) :: rest => if q = p + 1 then (p, n + 1) :: rest else (p, 1) :: (q, n) :: rest
    | [] => [(p, 1)]

/-- What FLUSH returns for one stream (R141); its NRUNS and pairs are padded together (DESIGN CHOICE, log 91). -/
def flushStream (set : AccSet) (bf : Bool) (i a b : Nat) : List Byte :=
  let rows := set.rows.filter fun y => y.1 == i && decide (a ≤ y.2.1) && decide (y.2.1 < b)
  let runs := posRuns (rows.map fun y => y.2.1)
  padTo8 (leBytes 4 runs.length ++ runs.flatMap fun y => leBytes 4 y.1 ++ leBytes 4 y.2) ++
    padTo8 (rows.flatMap fun y => outWords bf y.2.2)

/-- The positions of a head to which some row adds a contribution. -/
def addedTo (rows : List BwdRow) (hr : HeadRead) : List Nat :=
  let flat := rows.map fun r => r.terms.flatten
  (hr.blocks.flatten.zipIdx.filter fun k => flat.any fun ts => (ts[k.2]?).any (·.vis)).map fun k => k.1.pos

/-- What an applied backward request gives: its body, the set after it, and NAN_SEEN. -/
def bwdResult (d : Desc) (a : AttBlock) (x : Reading) (rows : List (HeadRead × List BwdRow)) (head : BwdHead)
    (p : Nat) (set : AccSet) : List Byte × AccSet :=
  let set1 := rows.foldl (fun set z => addHead x z.1 z.2 set) set
  let dqs := rows.flatMap fun z => z.2.map fun r => (r.h, r.i, bwdRowDq a x z.1 r)
  let dq := (rowHeads a).map fun z => match dqs.find? fun y => y.1 == z.2 && y.2.1 == z.1 with
    | some y => y.2.2
    | none => List.replicate x.geo.qdim f32Zero
  let touched := rows.flatMap fun z => (addedTo z.2 z.1).flatMap fun q => [(z.1.key, q), (z.1.val, q)]
  let bad := dq.any (·.any f32Bad) ||
    (rows.any fun z => z.2.any fun r => r.q.any f32Bad || r.terms.any (·.any (·.bad))) ||
    set1.rows.any fun y => touched.contains (y.1, y.2.1) && y.2.2.any f32Bad
  let flush := if head.flush then (layerStreams d a.layer).flatMap fun i => flushStream set1 a.oBf16 i head.first head.stop else []
  (okPrefix bad false a.rows a.headFirst a.headCount x.geo.odim a.oBf16 0 p ++ padTo8 (dq.flatMap (outWords a.oBf16)) ++ flush, set1)

/-! ### Checks from order 6 on, and the work -/

/-- A hook that overruns ends its request (R244): the program number is logged. -/
def hookStopped (r : Req) (op n : Nat) (a : AttBlock) (s : State) : State :=
  answer r op stScheduleFault 0 (logEvent 0x0502 srcCt (some n) a.hook [] s)

/-- A stored block that stays corrupt (R172), in a row of the layer at position `p`, committed or of an open tail: the lane stalls, the
position of the row is recorded, and the request answered DATA_LOST. -/
def corruptStored (r : Req) (op m layer p : Nat) (d : Desc) (s : State) : State :=
  let bad := fun (st : Stream) => st.layerIdx == layer && fmtCoded st.fmt && (readRow s d st p).isNone
  let page := ((d.streams.find? bad).bind fun st => (st.entries[(placeIn st p).1]?).map fun e => (locOf s d e).page).getD 0
  let g := pageGroup page
  let (k, s0) := freeTick s
  let s1 := updAttDie (4 * g) (fun x => { x with corrupt := sat32 (x.corrupt + 1), stall := sat32 (x.stall + Config.stallCycles k) })
    (recordLost m p (p + 1) (some page) s0)
  answerLost r op m (logEvent 0x0501 (4 * g) (some d.part) (16 * g) [page] s1)

/-- Orders 6 to 8 of Table 4.11: the pages of the read range are there; or the request is answered, or waits with what it has
`seen` (R50). -/
def pagesReady (r : Req) (op m : Nat) (rs : List (Nat × Nat)) (touched : List (Nat × Nat)) (seen : Seen) (s : State) :
    Except State State :=
  match desc? s m with
  | none => .error s
  | some d =>
    let ents := touched.filterMap fun x => ((d.streams[x.1]?).bind (·.entries[x.2]?)).map fun e => (x, e)
    let meets := d.loss && rs.any fun y => decide (y.1 < d.lostEnd) && decide (d.lostFirst < y.2)
    if meets || ents.any (fun x => (locOf s d x.2).lost && !x.2.fetching) then .error (answerLost r op m s)
    else if ents.any (fun x => x.2.fetching) then .error (answerUnavailable r op m s)
    else
      let s1 := touched.foldl (fun s x => confirmStaged r.epoch m x.1 x.2 s) s
      match desc? s1 m with
      | none => .error s1
      | some d1 =>
        let gone := touched.filter fun x => match (d1.streams[x.1]?).bind (·.entries[x.2]?) with
          | some e => (locOf s1 d1 e).swapped
          | none => false
        if gone.isEmpty then .ok s1 else .error (fault r op m gone (some seen) s1)

/-- A forward request whose sums `ts` are done starts its jobs, which answer it when they end (R120, R142). -/
def attended (r : Req) (op n m : Nat) (a : AttBlock) (x : Reading) (moss : Bool) (p c : Nat) (d : Desc) (hs : List HeadRead)
    (ts : List Tup) (s : State) : State :=
  let body := okPrefix (ts.any (·.bad)) moss a.rows a.headFirst a.headCount x.geo.odim a.oBf16 c p ++
    ts.flatMap (tupRecord a.oBf16)
  startRun r op n { body := body, mdbs := [m], hooks := (if a.hooked then [a.hook] else []),
                    wset := x.wset.map (·.id), jobs := attJobs s m op moss d a x hs (attArrays op a x.geo r.body) } s

/-- ATT_DECODE and ATT_PREFILL from their read range on. -/
def runForward (r : Req) (op n m : Nat) (a : AttBlock) (x : Reading) (moss : Bool) (p c : Nat) (s : State) : State :=
  match desc? s m with
  | none => s
  | some d =>
    match readHeads s d a x (p + c) x.heads with
    | .error q => corruptStored r op m a.layer q d s
    | .ok hs =>
      match forwardAll a x hs (attArrays op a x.geo r.body) with
      | none => hookStopped r op n a s
      | some ts =>
        if r.lc && (lcCores s r (attJobs s m op moss d a x hs (attArrays op a x.geo r.body))).isNone then scheduleFault r op s
        else attended r op n m a x moss p c d hs ts s

/-- The accumulator set that a backward request finds, or a new one (R139). -/
def setAt (s : State) (m : Nat) (a : AttBlock) : AccSet := (accSet? s m a.layer).getD { mdb := m, layer := a.layer }

/-- The rows that a backward request contributes to (R138). -/
def backwardNeeds (s : State) (d : Desc) (m : Nat) (a : AttBlock) (x : Reading) (hs : List HeadRead) (b : List Byte) :
    List (Nat × Nat) :=
  accNeeds s d (setAt s m a) (hs.flatMap fun hr =>
    let ps := contributed a hr (attArrays 3 a x.geo b).bitmap
    if x.geo.latent then [(hr.key, ps)] else [(hr.key, ps), (hr.val, ps)])

/-- The rows of every head of a backward request; none where a hook overruns. -/
def backwardRows (a : AttBlock) (x : Reading) (hs : List HeadRead) (b : List Byte) : Option (List (HeadRead × List BwdRow)) :=
  hs.mapM fun hr => (bwdRows a x hr (attArrays 3 a x.geo b)).map fun rows => (hr, rows)

/-- A backward request is applied to its set (R139 to R141); a flush ends the set. -/
def backwardApplied (r : Req) (n m : Nat) (a : AttBlock) (x : Reading) (p : Nat) (head : BwdHead) (d : Desc) (hs : List HeadRead)
    (rows : List (HeadRead × List BwdRow)) (s : State) : State :=
  let before := accSet? s m a.layer
  let set0 := setAt s m a
  let out := bwdResult d a x rows head p { set0 with pages := set0.pages ++ backwardNeeds s d m a x hs r.body }
  let s1 := updDesc m (fun d => { d with repl := { d.repl with failedSets := d.repl.failedSets.filter (· != a.layer) } }) s
  let s2 := if head.flush then putAccSet { mdb := m, layer := a.layer, turn := set0.turn } s1
    else setAccSet { out.2 with next := (set0.next + 1) % 65536, opened := true } s1
  let s3 := if head.flush then set0.held.foldl (fun s h => refuse h.req 3 stNotPermitted s) s2 else s2
  startRun r 3 n { body := out.1, mdbs := [m], hooks := (if a.hooked then [a.hook] else []), wset := x.wset.map (·.id),
                   undo := some (m, a.layer, before.bind (fun y => if y.opened then some { y with held := [], turn := [] } else none)),
                   jobs := attJobs s m 3 false d a x hs (attArrays 3 a x.geo r.body) } s3

/-- ATT_BACKWARD once it is its turn (R140, R141). -/
def runBackward (r : Req) (n m : Nat) (a : AttBlock) (x : Reading) (p : Nat) (head : BwdHead) (s : State) : State :=
  match desc? s m with
  | none => s
  | some d =>
    match readHeads s d a x p x.heads with
    | .error q => corruptStored r 3 m a.layer q d s
    | .ok hs =>
      if !accFits s (backwardNeeds s d m a x hs r.body) then answer r 3 stPoolFull 0 s
      else match backwardRows a x hs r.body with
        | none => hookStopped r 3 n a s
        | some rows =>
          if r.lc && (lcCores s r (attJobs s m 3 false d a x hs (attArrays 3 a x.geo r.body))).isNone then scheduleFault r 3 s
          else backwardApplied r n m a x p head d hs rows s

/-- What R140 makes of a request. -/
inductive Turn where
  | apply
  | hold
  | refuse
  | wait
  deriving DecidableEq, Repr

/-- The turn of a request (R140). One that comes while a request of its set is at work waits until that ends, and counts among the
held ones only then (log 79). -/
def bwdTurn (s : State) (m layer index : Nat) : Turn :=
  if setBusy s m layer then .wait
  else match (accSet? s m layer).bind fun x => if x.opened then some x else none with
  | none => if index ≠ 0 then .refuse else .apply
  | some set =>
    let d := (index + 65536 - set.next) % 65536
    if d = 0 then .apply
    else if d ≤ 8 ∧ set.held.length < 8 then .hold
    else .refuse

/-- The request is held in its set. -/
def holdBackward (r : Req) (m : Nat) (a : AttBlock) (index p : Nat) (views : List (Nat × Nat × Nat)) (s : State) : State :=
  let set := setAt s m a
  setAccSet { set with held := set.held ++ [⟨index, r, p, views⟩] } s

/-- The request waits for the one of its set that is at work. -/
def waitBackward (r : Req) (m : Nat) (a : AttBlock) (index p : Nat) (views : List (Nat × Nat × Nat)) (s : State) : State :=
  let set := setAt s m a
  setAccSet { set with turn := set.turn ++ [⟨index, r, p, views⟩] } s

/-- The views of a request: stream, first position and end. -/
def attViews (d : Desc) (a : AttBlock) (x : Reading) (hi : Nat) : List (Nat × Nat × Nat) :=
  (usedStreams x).flatMap fun i => match d.streams[i]? with
    | some st => (readRange a st hi).map fun y => (i, y.1, y.2)
    | none => []

/-- The ranges of positions that a request reads up to `hi`. -/
def readRanges (d : Desc) (a : AttBlock) (x : Reading) (hi : Nat) : List (Nat × Nat) :=
  match x.heads.head?.bind fun h => d.streams[h.2.1]? with
  | some st => readRange a st hi
  | none => []

/-- An attention request whose layer and arrays fit (orders 4 to 12); `seen` is what a request that has waited read of its
descriptor (R50). -/
def runAttAt (r : Req) (op n m : Nat) (a : AttBlock) (x : Reading) (moss : Bool) (seen : Option Seen) (d : Desc) (s : State) :
    State :=
  let p := (seen.map (·.tokens)).getD (snapshot d x)
  let c := (seen.map (·.tail)).getD (tailSeen d op a r.arrival)
  let views := attViews d a x (p + c)
  let head := bwdHead r.body
  if 0xFFFFFFFE < a.qpos + a.rows - 1 then answer r op stPosLimit 0 s
  else match (if op = 1 then keptTagAnswer r op m a.tag s else none) with
    | some s1 => s1
    | none =>
      if op = 3 ∧ head.index ≠ 0 ∧ d.repl.failedSets.contains a.layer then answerUnavailable r op m s
      else if !ringPosOk a p d x then answer r op stNotPermitted 0 s
      else
        let turn := if op = 3 then bwdTurn s m a.layer head.index else .apply
        match turn with
        | .refuse => answer r op stNotPermitted 0 s
        | .hold => holdBackward r m a head.index p views s
        | .wait => waitBackward r m a head.index p views s
        | .apply =>
          let rs := readRanges d a x (p + c)
          match pagesReady r op m rs (touchedEntries d x (positions rs)) ⟨p, c, views⟩ s with
          | .error s1 => s1
          | .ok s1 =>
            if op = 3 then runBackward r n m a x p head s1 else runForward r op n m a x moss p c s1

/-- What the bytes of an attention request decide alone (order 1 of Table 4.11), its hook apart. -/
def attBytesOk (op : Nat) (r : Req) : Bool :=
  let a := attBlock r.body
  attBlockOk op r.spec r.body && !(op == 3 && !bwdHeadOk r.body) && !(a.qrot && a.rope != 0 && !thetaOk a.theta)

/-- What an attention request reads its layer as (orders 2 and 3 of Table 4.11); none where the layer does not fit. -/
def readingOf (holds : Bool) (s : State) (n : Nat) (a : AttBlock) (hook : Option HookProg) (d : Desc) : Option Reading :=
  let w := wsetFor holds s n a.wset
  (if a.layer < layerCount d then layerGeo d a w else none).map fun g =>
    { geo := g, wset := if g.latent then w else none, hook := hook,
      heads := (kvHeads a g).map fun k => (k, kvStreams d a.layer g k) }

/-- An attention request (R142): ATT_DECODE 1, ATT_PREFILL 2, ATT_BACKWARD 3. One that has waited behind its hook check `holds` its
program and weight set (R242), and has `seen` its descriptor where it got so far (R50). -/
def runAtt (op : Nat) (holds : Bool) (seen : Option Seen) (r : Req) (s : State) : State :=
  match reqPart s r with
  | none => s
  | some n =>
    let b := r.body
    let a := attBlock b
    match gate s n r op [a.seq] with
    | some (st, arg) => answer r op st arg s
    | none =>
      match hookFor holds s n op a with
      | none => answer r op stFormat 0 s
      | some hook =>
        if !attBytesOk op r then
          answer r op stFormat 0 s
        else match nameSeq r op n a.seq a.lg s with
          | .ended s1 => s1
          | .found m _ s1 =>
            match desc? s1 m with
            | none => s1
            | some d =>
              match readingOf holds s1 n a hook d with
              | none => answer r op stFormat 0 s1
              | some x =>
                match pathOf s1 op a d x with
                | none => answer r op stFormat 0 s1
                | some moss =>
                  if !headsOk a x.geo || !attThetaOk d a x || b.length != attLength op a x.geo then answer r op stFormat 0 s1
                  else runAttAt r op n m a x moss seen d s1

/-! ### Held backward requests -/

/-- The request of a set that is taken up next while none of the set is at work, and whether R140 lets it run: a held one that is due
or can never be, else the first that waited for its turn. -/
def nextHeld (s : State) (set : AccSet) : Option (HeldBwd × Bool) :=
  if setBusy s set.mdb set.layer then none
  else
    let d := fun (h : HeldBwd) => (h.index + 65536 - set.next) % 65536
    match set.held.find? fun h => d h == 0, set.held.find? fun h => decide (32768 ≤ d h), set.turn with
    | some h, _, _ => some (h, true)
    | none, some h, _ => some (h, false)
    | none, none, h :: _ => some (h, true)
    | none, none, [] => none

/-- Takes up the waiting requests whose turn has come (`fuel` bounds how many). -/
def drainHeld : Nat → State → State
  | 0, s => s
  | fuel + 1, s =>
    match firstSome (fun set => (nextHeld s set).map fun x => (set, x)) s.accSets with
    | none => s
    | some (set, h, go) =>
      let s1 := putAccSet { set with held := set.held.erase h, turn := set.turn.erase h } s
      drainHeld fuel (if go then runAtt 3 true (some ⟨h.snap, 0, h.views⟩) h.req s1 else refuse h.req 3 stNotPermitted s1)

/-- Unloads that a waiting request held back end where it has gone (R242). -/
def settleAllUnloads (s : State) : State := (s.parts.map (·.1)).foldl (fun s n => settleUnloads n s) s

/-- Waiting requests are taken up after work has ended. -/
def afterWork (s : State) : State :=
  settleAllUnloads (drainHeld (1 + (s.accSets.map fun a => a.held.length + a.turn.length).sum) s)

/-- BACKWARD_HOLD_TIMEOUT: a request still held when [arrival, arrival + 10 ms) ends is answered NOT_PERMITTED (R140). -/
def execBackwardHoldTimeout (m layer index : Nat) (s : State) : Host.Outcome State Fault Refusal :=
  if !serving s then done s s
  else match accSet? s m layer with
  | none => done s s
  | some set =>
    match set.held.find? fun h => h.index == index && decide (h.req.arrival + 10000000 ≤ s.tb.now) with
    | none => done s s
    | some h => done s (settleAllUnloads (refuse h.req 3 stNotPermitted (setAccSet { set with held := set.held.erase h } s)))

/-! ### MERGE (R136) -/

/-- The job of a MERGE, for the attention cores of its intake group. -/
def mergeJob (r : Req) : Job :=
  { run := 0, part := 0, lc := false, group := intakeGroup r, engine := false,
    items := List.replicate (mergeHead r.body).count .merge ++ [.pack] }

/-- MERGE of a request: the sums run on the attention cores of its intake group. -/
def runMerge (r : Req) (s : State) : State :=
  match reqPart s r with
  | none => s
  | some n =>
    match gate s n r 0x30 [] with
    | some (st, arg) => answer r 0x30 st arg s
    | none =>
      if !mergeOk r.body then answer r 0x30 stFormat 0 s
      else if r.lc && (lcCores s r [mergeJob r]).isNone then scheduleFault r 0x30 s
      else startRun r 0x30 n { body := mergeAnswer r.body, jobs := [mergeJob r] } s

end Sys2Proof.Machine
end

