-- ==== Sys2Proof/Machine/Buffers.lean ====
section
/-!
DEFINITION. Registration of buffers (R292, R293), by host software and by firmware: the inboxes (R400) and the placement
buffer (R319); and the return of zeroed pages to the pool, from which firmware's buffers fill (R52).
-/

namespace Sys2Proof.Machine

open Sys2Proof

/-- Pages that a buffer in HBM needs. -/
def bufPages (b : Buf) : Nat := ceilDiv' b.length pageSize

/-- A registration takes effect: GEN moves, LAST_BUMP is its time, and the command that asked for it completes. -/
def activateBuf (i at_ : Nat) (s : State) : State :=
  let b := bufOf s i
  let gen := match b.gen with | none => 0 | some g => (g + 1) % 256
  let s1 := setBuf i { b with state := .valid, gen := some gen, lastBump := some at_, cmd := none } s
  match b.cmd with
  | some (n, r, idx) => complete n r idx stOk gen s1
  | none => s1

/-- A registration that holds all it needs: at once, or pending until LAST_BUMP + MIN_REUSE. -/
def startReg (i : Nat) (s : State) : State :=
  let b := bufOf s i
  let t := match b.lastBump with | none => s.tb.now | some l => max s.tb.now (l + minReuse s)
  if t ≤ s.tb.now then activateBuf i t s
  else updNetDie 0 (fun d => { d with reuseWaits := sat32 (d.reuseWaits + 1) })
    (setBuf i { b with state := .pending, effectAt := t } s)

/-- Firmware takes pages for a buffer as long as the pool has some (R319). -/
def fillPages : Nat → Nat → State → State
  | 0, _, s => s
  | fuel + 1, i, s =>
    let b := bufOf s i
    if bufPages b ≤ b.pages.length then s
    else match allocPage b.part b.pages.length none s with
      | none => s
      | some (p, s1) => fillPages fuel i (setBuf i { b with pages := b.pages ++ [p] } s1)

/-- Firmware's registration of one buffer goes as far as the pool lets it. -/
def fillBuf (i : Nat) (s : State) : State :=
  let s1 := fillPages (bufPages (bufOf s i)) i s
  let b := bufOf s1 i
  let s2 := if i < 64 then updPart b.part (fun p => { p with placement := b.pages }) s1 else s1
  if b.pages.length < bufPages b then s2
  else match allocOtherMdbs b.part (ceilDiv' b.pages.length 30) s2 with
    | none => s2
    | some (ms, s3) => startReg i (setBuf i { b with mdbs := ms } s3)

/-- Firmware asks for a buffer in HBM. -/
def firmwareReg (i n len : Nat) (write : Bool) (s : State) : State :=
  let b := bufOf s i
  fillBuf i (setBuf i
    { state := .pending, write := write, read := !write, hbm := true, part := n, gen := b.gen, length := len,
      lastBump := b.lastBump, firmware := true } s)

/-- A registration of firmware that still lacks pages or MDBs. -/
def lacking (b : Buf) : Bool := b.firmware && b.state == .pending && b.mdbs.isEmpty

/-- Pages became free: firmware's buffers of the partition fill. -/
def fillBuffers (n : Nat) (s : State) : State :=
  (s.fab.bufs.filter fun x => x.2.part == n && lacking x.2).foldl (fun s x => fillBuf x.1 s) s

/-- A buffer is free again; GEN and LAST_BUMP stay, its pages and page list go (R293). -/
def releaseBuf (i : Nat) (s : State) : State :=
  let b := bufOf s i
  let s1 := freeMdbs b.mdbs (releasePages b.pages (setBuf i { gen := b.gen, lastBump := b.lastBump } s))
  if i < 64 then updPart b.part (fun p => { p with placement := [] }) s1 else s1

/-- Host software may not register an index that firmware keeps for itself (R319, R400). -/
def firmwareIndex (i : Nat) : Bool := decide (i < 64) || (decide (4096 ≤ i) && decide (i < 8192))

/-- BUF_REG_EFFECT: a pending registration takes effect once MIN_REUSE has passed since the last change (R293). -/
def execBufRegEffect (index : Nat) (s : State) : Host.Outcome State Fault Refusal :=
  if !serving s then done s s
  else
    let b := bufOf s index
    if b.state = .pending ∧ !lacking b ∧ b.effectAt ≤ s.tb.now then done s (activateBuf index b.effectAt s) else done s s

/-- The ROWZERO of the page-free path over a page (R52). -/
def zeroCmd (p : Nat) : RowCmd := { op := .zero, issuer := .pageFree, dstBg := pageBg p, dstRow := pageRow p }

/-- The page's ROWZERO is queued, or runs. -/
def zeroQueued (s : State) (p : Nat) : Bool :=
  let c := pcCtl s (pagePc p)
  c.rowQ.contains (zeroCmd p) || c.body == .row (zeroCmd p)

/-- PAGE_FREE: the ROWZERO of a released page that nothing holds is queued (R51, R52); the page returns to the free bitmap when its slot
ends. -/
def execPageFree (page : Nat) (s : State) : Host.Outcome State Fault Refusal :=
  if !serving s || zeroQueued s page then done s s
  else match mfind s.pages page with
  | some r =>
    if r.use = .zeroing ∨ (r.use = .held ∧ !pageHeld s page) then
      done s (updPc (pagePc page) (fun c => { c with rowQ := c.rowQ ++ [zeroCmd page] }) (settleHeld page s))
    else done s s
  | none => done s s

end Sys2Proof.Machine
end

