-- ==== Sys2Proof/Machine/Ecc.lean ====
section
/-!
DEFINITION. The code of the DRAM rows (R204): Reed-Solomon over GF(2^8) with field polynomial x^8 + x^4 + x^3 + x^2 + 1 and
generator roots α^0 to α^7, 64 data symbols and 8 check symbols. Symbol i is the coefficient of x^(71 - i) (DESIGN CHOICE, log 85).
-/

namespace Sys2Proof.Machine

open Sys2Proof

/-! ### The field -/

/-- Twice an element: times α. -/
def gfDouble (a : Nat) : Nat := if a < 128 then 2 * a else (2 * a) ^^^ 0x11D

/-- Product of two elements, bit by bit of the second (`n` bits). -/
def gfMulBits : Nat → Nat → Nat → Nat
  | 0, _, _ => 0
  | n + 1, a, b => (if b % 2 = 1 then a else 0) ^^^ gfMulBits n (gfDouble a) (b / 2)

def gfMul (a b : Nat) : Nat := gfMulBits 8 a b

/-- α^k. -/
def gfExp : Nat → Nat
  | 0 => 1
  | k + 1 => gfDouble (gfExp k)

/-- The inverse a^254 = a^2 · a^4 · … · a^128. -/
def gfInv (a : Nat) : Nat :=
  let a2 := gfMul a a
  let a4 := gfMul a2 a2
  let a8 := gfMul a4 a4
  let a16 := gfMul a8 a8
  let a32 := gfMul a16 a16
  let a64 := gfMul a32 a32
  let a128 := gfMul a64 a64
  gfMul a2 (gfMul a4 (gfMul a8 (gfMul a16 (gfMul a32 (gfMul a64 a128)))))

/-- Sum of products. -/
def gfDot (as_ bs : List Nat) : Nat := (List.zipWith gfMul as_ bs).foldl (· ^^^ ·) 0

/-! ### The encoder -/

/-- Coefficients of a polynomial times (x + r), highest first. -/
def gfTimes (r : Nat) (p : List Nat) : List Nat := List.zipWith (· ^^^ ·) (p ++ [0]) (0 :: p.map (gfMul r))

/-- The generator (x + α^0) … (x + α^7), highest coefficient first. -/
def rsGenerator : List Nat := (List.range 8).foldl (fun p i => gfTimes (gfExp i) p) [1]

/-- One step of the division by the generator `1 :: g`: the remainder `r` takes in the next data symbol. -/
def rsStep (g r : List Nat) (d : Nat) : List Nat :=
  let f := d ^^^ r.headD 0
  List.zipWith (fun a b => a ^^^ gfMul f b) (r.drop 1 ++ [0]) g

/-- The check bytes of a data unit: the remainder of its polynomial times x^8. -/
def rsCheck (d : List Byte) : List Byte :=
  (d.foldl (fun r b => rsStep (rsGenerator.drop 1) r b.toNat) (List.replicate 8 0)).map fun x => BitVec.ofNat 8 x

/-! ### The decoder -/

/-- The eight syndromes of a codeword: its polynomial at α^0 to α^7. -/
def rsSyndromes (cw : List Byte) : List Nat :=
  (List.range 8).map fun j => cw.foldl (fun acc b => gfMul acc (gfExp j) ^^^ b.toNat) 0

/-- The syndromes that errors at some symbols give; by linearity they are those of any codeword with these errors. -/
def errSyndromes (errs : List (Nat × Byte)) : List Nat :=
  (List.range 8).map fun j => errs.foldl (fun acc e => acc ^^^ gfMul e.2.toNat (gfExp (j * (71 - e.1)))) 0

/-- Solves a linear system of `n` rows, each with its right-hand side last; none where it has no one solution. -/
def gfSolve : Nat → List (List Nat) → Option (List Nat)
  | 0, _ => some []
  | n + 1, rows =>
    match rows.find? fun r => r.headD 0 != 0 with
    | none => none
    | some p =>
      let k := gfInv (p.headD 0)
      let p1 := (p.drop 1).map (gfMul k)
      let rest := (rows.erase p).map fun r => List.zipWith (fun a b => a ^^^ gfMul (r.headD 0) b) (r.drop 1) p1
      (gfSolve n rest).map fun xs => (gfDot p1 xs ^^^ p1.getLastD 0) :: xs

/-- An error of exactly `v` symbols that gives the syndromes: symbol and value of each; none where there is none. -/
def rsLocate (syn : List Nat) (v : Nat) : Option (List (Nat × Nat)) :=
  match gfSolve v ((List.range v).map fun i => (List.range (v + 1)).map fun k => syn.getD (i + k) 0) with
  | none => none
  | some sigma =>
    let at_ := (List.range 72).filter fun p =>
      let x := gfExp (71 - p)
      (sigma ++ [1]).reverse.foldl (fun acc c => gfMul acc x ^^^ c) 0 == 0
    if at_.length ≠ v then none
    else
      match gfSolve v ((List.range v).map fun j => at_.map (fun p => gfExp (j * (71 - p))) ++ [syn.getD j 0]) with
      | none => none
      | some es =>
        let fits := (List.range 8).all fun j => gfDot (at_.map fun p => gfExp (j * (71 - p))) es == syn.getD j 0
        if fits && es.all (· != 0) then some (at_.zip es) else none

/-- What the decoder takes for the errors: the pattern of at most 3 symbols that gives the syndromes; none where there is none, and the
codeword is uncorrectable. -/
def rsErrors (syn : List Nat) : Option (List (Nat × Nat)) :=
  if syn.all (· == 0) then some []
  else match rsLocate syn 1 with
    | some e => some e
    | none => match rsLocate syn 2 with
      | some e => some e
      | none => rsLocate syn 3

/-- The outcome of reading a codeword with errors at some symbols. -/
def readOutcome (errs : List (Nat × Byte)) : ReadOutcome :=
  match rsErrors (errSyndromes errs) with
  | some [] => .clean
  | some _ => .correctable
  | none => .uncorrectable

/-- The 64 data bytes that the decoder gives for stored data bytes read with errors at some symbols; more than 3 wrong symbols may be
taken for another codeword. -/
def decodedData (data : List Byte) (errs : List (Nat × Byte)) : List Byte :=
  let fix := (rsErrors (errSyndromes errs)).getD []
  data.zipIdx.map fun x =>
    let e := match errs.find? fun y => y.1 == x.2 with | some y => y.2 | none => 0#8
    let f := match fix.find? fun y => y.1 == x.2 with | some y => BitVec.ofNat 8 y.2 | none => 0#8
    x.1 ^^^ e ^^^ f

end Sys2Proof.Machine
end

