-- ==== Sys2Proof/Machine/Schedule.lean ====
section
/-!
DEFINITION. The scheduling commands of chapter 8: the placement of jobs, the creation and end of page tasks, the issue of
engine commands, Skipper work items, context switches, and the re-read of a corrupt coded block.
-/

namespace Sys2Proof.Machine

open Sys2Proof

/-! ### Placement (R248, R249) -/

/-- The core and the query frames that a waiting job can take now: an LC job those that its frond entry names, another job those of the
first free core of its group. -/
def placeFor (s : State) (x : Job) : Option (Nat × List Nat) :=
  if x.lcPlace.isSome then lcPlaceFree s x
  else (((List.range 16).map (16 * x.group + ·)).find? (coreFree s x)).map fun c =>
    let most := if x.lc then (freeFrames s c).length else beFramesFree s c
    (c, (freeFrames s c).take (min (min 4 (framesFor x.rows x.elems)) most))

/-- A waiting job of a group that finds its place now: the first such one in placement order, LC before BE, with the core and the
frames (DESIGN CHOICE, log 43: a job that finds none does not hold back a later one). -/
def placeable (s : State) (group : Nat) : Option (Nat × Nat × List Nat) :=
  let waiting := s.sched.jobs.filter fun x => x.2.core.isNone && x.2.group == group
  let order := (waiting.filter fun x => x.2.lc) ++ waiting.filter fun x => !x.2.lc
  firstSome (fun x => (placeFor s x.2).map fun y => (x.1, y.1, y.2)) order

/-- JOB_PLACE: a waiting job of a die group is placed on its frond core, or on the first free core of the group. -/
def execJobPlace (group : Nat) (s : State) : Host.Outcome State Fault Refusal :=
  if !serving s then done s s
  else match placeable s group with
  | none => done s s
  | some (j, c, fs) => done s (placeJob j c fs s)

/-! ### Page tasks (R245, R246) -/

/-- Page-task entries that a partition holds. -/
def tasksInUse (s : State) (n : Nat) : Nat := s.sched.tasks.countP fun x => x.2.part == n

/-- The next job of a partition that has a page task to create: LC before BE, in the order of placement (R246). -/
def nextTaskJob (s : State) (n : Nat) : Option (Nat × Job) :=
  let ready := sortBy (fun a b => decide (a.2.placed ≤ b.2.placed))
    (s.sched.jobs.filter fun x => x.2.part == n && x.2.core.isSome && !x.2.plan.isEmpty)
  ((ready.filter fun x => x.2.lc) ++ ready.filter fun x => !x.2.lc).head?

/-- A page task is created; on the Moss path it enters the queue of its page's unit, which holds at most 64. -/
def createTask (n j : Nat) (x : Job) (p : TaskPlan) (s : State) : State :=
  let g := pagePc p.page
  if p.moss ∧ 64 ≤ (pcCtl s g).mossQ.length then s
  else
    let k := s.sched.nextTask
    let steps := if p.moss then p.rows * p.pageRows * ceilDiv' p.keyElems 64 else 0
    let t : PageTask :=
      { part := n, page := p.page, job := j, mdb := p.mdb, stream := p.stream, views := p.views, moss := p.moss, lc := x.lc,
        rows := p.rows, elems := p.keyElems, keyRows := p.pageRows, cmds := taskCmds p, scores := p.scores }
    let s1 := chargeReads n p.readBytes (updJob j (fun y => { y with plan := y.plan.drop 1 })
      { s with sched := { s.sched with tasks := mset s.sched.tasks k t, nextTask := k + 1 } })
    if p.moss then updPc g (fun y => { y with mossQ := y.mossQ ++ [(k, steps)] }) s1 else feedJob j s1

/-- PAGE_TASK_CREATE: the next page task of a partition takes an entry, or its creation is stopped at the quota (R246). -/
def execPageTaskCreate (n : Nat) (s : State) : Host.Outcome State Fault Refusal :=
  if !serving s then done s s
  else match nextTaskJob s n, part? s n with
  | some (j, x), some p =>
    match x.plan with
    | [] => done s s
    | t :: _ =>
      if p.taskQuota * 4096 ≤ tasksInUse s n then
        done s (updPart n (fun p => { p with taskWaits := sat32 (p.taskWaits + 1) }) s)
      else done s (createTask n j x t s)
  | _, _ => done s s

/-- No command of a page task is left, in its list or in its job's queue. -/
def taskIssued (s : State) (t : Nat) (x : PageTask) : Bool :=
  (takeCmd x.cmds).isNone && !((job? s x.job).any fun y => y.queue.any fun c => c.1 == some t)

/-- PAGE_TASK_DONE: the last command of a page task on the Atlas path has completed, and its hold on the page ends (R51). -/
def execPageTaskDone (t : Nat) (s : State) : Host.Outcome State Fault Refusal :=
  if !serving s then done s s
  else match task? s t with
  | none => done s s
  | some x => if x.moss || !taskIssued s t x then done s s else done s (afterWork (settleJob x.job (endTask t s)))

/-! ### Engine issue (R236) -/

/-- Engine cycles of the timebase at a time in ns. -/
def engineCycle (ns : Nat) : Nat := ns * 5 / 2

/-- The job that owns the frond slot of a core at time `ns` (R312), if it runs there. -/
def slotOwner (s : State) (core ns : Nat) : Option Nat :=
  match frondTable s with
  | none => none
  | some f =>
    match f.entries.find? fun e => e.kind == 0 && e.index == core && inRun f e ns with
    | none => none
    | some e =>
      let k := match f.entries.find? fun a => a.kind == 2 && a.frond == e.frond with
        | some a => if a.first ≤ e.first then periodNo f ns else periodNo f ns - 1
        | none => periodNo f ns
      ((jobsOn s core).find? fun x => x.2.frond == some (e.frond, k)).map (·.1)

/-- The end of the slot that holds engine cycle `t`, in engine cycles: 250 to a slot. -/
def slotEnd (t : Nat) : Nat := (t / 250 + 1) * 250

/-- Whether a command of `c` cycles from `t` ends before the next slot begins that a job other than `me` owns; `n` slots are
looked at. -/
def endsBeforeOwned (s : State) (core t c : Nat) (me : Option Nat) : Nat → Nat → Bool
  | 0, _ => true
  | n + 1, start =>
    if t + c ≤ start then true
    else
      let o := slotOwner s core (start * 2 / 5)
      if o.isSome && o != me then false else endsBeforeOwned s core t c me n (start + 250)

/-- Step of 1 µs within the 100 µs frame. -/
def frameStep (ns : Nat) : Nat := ns % 100000 / 1000

/-- The confidential partition whose run holds a core at a time (R251). -/
def runPart (s : State) (core ns : Nat) : Option (Nat × Part) :=
  s.parts.find? fun x => x.2.conf && bitOf x.2.tdmCores core &&
    decide (x.2.tdmFirst ≤ frameStep ns) && decide (frameStep ns < x.2.tdmFirst + x.2.tdmCount)

/-- The time before a confidential run of the core in which it is kept idle for the switch (R251): 8,896 engine cycles; `h` in half
engine cycles, so that times in ns are exact too. -/
def beforeRun (s : State) (core h : Nat) : Bool :=
  s.parts.any (fun x => x.2.conf && bitOf x.2.tdmCores core && decide ((x.2.tdmFirst * 5000 + 500000 - h % 500000) % 500000 ≤ 17792)) &&
    (runPart s core (h / 5)).isNone

/-- End of a partition's run that holds time `ns`, in ns. -/
def runEnd (p : Part) (ns : Nat) : Nat := ns / 100000 * 100000 + (p.tdmFirst + p.tdmCount) * 1000

/-- The core's binding makes the queues and items of a partition active (R250): those of a confidential partition alone, or those of
all others. -/
def boundTo (s : State) (core n : Nat) : Bool :=
  match (coreOf s core).binding with
  | some m => if isConf s m || isConf s n then m == n else true
  | none => !isConf s n

/-- The first command of a job's queue (R234). -/
def nextCmd (x : Job) : Option (Option Nat × EngCmd) := x.queue.head?

/-- Ready queues of a core in the order of their placement: job, and its next command. -/
def readyQueues (s : State) (core : Nat) (f : Job → Bool) : List (Nat × Job × EngCmd) :=
  ((jobsOn s core).filter fun x => f x.2 && boundTo s core x.2.part).filterMap fun x => (nextCmd x.2).map fun c => (x.1, x.2, c.2)

/-- BE queues in round-robin order from the one placed after the last issued. -/
def beRotation (last : Nat) (l : List (Nat × Job × EngCmd)) : List (Nat × Job × EngCmd) :=
  (l.filter fun x => decide (last < x.2.1.placed)) ++ l.filter fun x => decide (x.2.1.placed ≤ last)

/-- The command that the engine of a core issues at engine cycle `t` (R236); none: it idles. -/
def chooseCmd (s : State) (core t : Nat) : Option (Nat × Job × EngCmd) :=
  let ns := t * 2 / 5
  match runPart s core ns with
  | some (n, p) =>
    let ready := readyQueues s core fun x => x.part == n
    ((ready.filter fun x => x.2.1.lc) ++ ready.filter fun x => !x.2.1.lc).find? fun x =>
      decide (t + x.2.2.cycles ≤ engineCycle (runEnd p ns))
  | none =>
    if beforeRun s core (2 * t) then none
    else
      let ready := readyQueues s core fun x => !isConf s x.part
      let owner := slotOwner s core ns
      let stop := slotEnd t
      let owned := match owner with
        | some j => ready.find? fun (x : Nat × Job × EngCmd) => x.1 == j
        | none => none
      let be := beRotation (coreOf s core).lastBe (ready.filter fun x => !x.2.1.lc)
      match owned with
      | some x =>
        if t + x.2.2.cycles ≤ stop ∨ slotOwner s core (stop * 2 / 5) = owner then some x else none
      | none =>
        if owner.isNone then
          match ready.find? fun (x : Nat × Job × EngCmd) => x.2.1.lc with
          | some x => if endsBeforeOwned s core t x.2.2.cycles (some x.1) 1000 stop then some x else none
          | none => be.find? fun x => endsBeforeOwned s core t x.2.2.cycles none 1000 stop
        else be.find? fun x => decide (t + x.2.2.cycles ≤ stop)

/-- The first command leaves its queue; it reads its job's query frames and its page's frames (R232), and SIGNAL writes the completion
word. -/
def takeIssued (core j : Nat) (x : Job) (c : EngCmd) (s : State) : State :=
  let s1 := updJob j (fun y => { y with queue := y.queue.drop 1, signalled := y.signalled || c == .signal }) s
  if c = .signal then s1
  else readBlocks core x.part (x.frames.map (16 * ·) ++ x.pageFrames.map pageBlock) s1

/-- The end of the last owned slot of an LC job on its core (R312, R313). -/
def lastOwnedEnd (f : FrondTable) (core n k : Nat) : Nat :=
  let es := f.entries.filter fun e => e.kind == 0 && e.frond == n && e.index == core
  match f.entries.find? fun a => a.kind == 2 && a.frond == n with
  | some a => es.foldl (fun m e => max m (runStart f a e k + e.len * 100)) 0
  | none => 0

/-- LC jobs whose last owned slot has ended with work left count as overruns (R313). -/
def noteOverruns (s : State) : State :=
  match frondTable s with
  | none => s
  | some f =>
    s.sched.jobs.foldl (fun s x => match x.2.lcPlace, x.2.frond with
      | some (c, _), some (n, k) =>
        if !x.2.overrun && decide (lastOwnedEnd f c n k ≤ s.tb.now) then
          updJob x.1 (fun y => { y with overrun := true })
            { s with fronds := { s.fronds with overruns := sat32 (s.fronds.overruns + 1) } }
        else s
      | _, _ => s) s

/-- The engine cycle at which a core's engine can issue next: within the present microsecond of the timebase (DESIGN CHOICE,
log 44), in the part of it that the clock step leaves open to starts (R479). -/
def issueCycle (s : State) (core : Nat) : Option Nat :=
  let t := max (max (coreOf s core).busyUntil (coreOf s core).idleUntil) (engineCycle s.tb.now)
  if t < s.tb.now / 1000 * 2500 + 625 * (4 - s.power.clockStep) then some t else none

/-- ENGINE_ISSUE: the engine of a core issues its next command, or idles until a queue becomes ready or the next slot begins. -/
def execEngineIssue (core : Nat) (s : State) : Host.Outcome State Fault Refusal :=
  if !serving s then done s s
  else
    let s0 := noteOverruns s
    match issueCycle s0 core with
    | none => done s s0
    | some t =>
      match chooseCmd s0 core t with
      | none => done s (updCore core (fun x => { x with idleUntil := slotEnd t }) s0)
      | some (j, x, c) =>
        let s1 := updCore core (fun y =>
          { y with
            lcCmds := if x.lc then sat32 (y.lcCmds + 1) else y.lcCmds
            beCmds := if x.lc then y.beCmds else sat32 (y.beCmds + 1)
            busy := sat64 (y.busy + c.cycles)
            busyUntil := t + c.cycles
            lastBe := if x.lc then y.lastBe else x.placed }) (takeIssued core j x c s0)
        let s2 := chargeAt x.part (tickTime s) (fun y => { y with engineCycles := sat64 (y.engineCycles + c.cycles) }) s1
        done s (afterWork (settleJob j s2))

/-! ### Work items and context switches (R238, R250) -/

/-- The first item of a job is ready: merging and packing follow the engine's completion word, or for a job that uses no engine the
engine work of its request; every other item is ready at once. -/
def itemReady (s : State) (x : Job) : Bool :=
  match x.items with
  | [] => false
  | .merge :: _ => if x.engine then x.signalled else !(s.sched.jobs.any fun y => y.2.run == x.run && y.2.engine)
  | .pack :: _ => if x.engine then x.signalled else !(s.sched.jobs.any fun y => y.2.run == x.run && y.2.engine)
  | _ => true

/-- The job whose item a Skipper core of a core takes next: the oldest ready LC item, else the oldest ready BE item; in a slot of an LC
job that has an item ready, none of another partition (R238). -/
def chooseItem (s : State) (core : Nat) : Option (Nat × Job) :=
  let ns := s.tb.now
  let ready := (jobsOn s core).filter fun x => itemReady s x.2 && boundTo s core x.2.part
  let fits := ready.filter fun x =>
    match runPart s core ns with
    | some (n, p) => x.2.part == n && decide (ns * 10 + 32768 ≤ runEnd p ns * 10)
    | none => !isConf s x.2.part && !beforeRun s core (5 * ns)
  let owner := (slotOwner s core ns).bind fun j => fits.find? fun (y : Nat × Job) => y.1 == j
  let mine : List (Nat × Job) := match owner with
    | some o => fits.filter fun y => y.2.part == o.2.part
    | none => fits
  ((mine.filter fun x => x.2.lc) ++ mine.filter fun x => !x.2.lc).head?

/-- Binds a Skipper core to a partition; a change from another one is a context switch, of at least its 512 cycles. -/
def bindSkipper (core skipper n : Nat) (s : State) : State :=
  match mfind (coreOf s core).skippers skipper with
  | some m =>
    if m = n then s
    else updCore core (fun x =>
      { x with skippers := mset x.skippers skipper n, switches := sat32 (x.switches + 1), switchMax := max x.switchMax 205 }) s
  | none => updCore core (fun x => { x with skippers := mset x.skippers skipper n }) s

/-- WORK_ITEM: a Skipper core takes the oldest ready item of its core's jobs, LC before BE, and runs it to its end. -/
def execWorkItem (core skipper : Nat) (s : State) : Host.Outcome State Fault Refusal :=
  if !serving s || decide (8 ≤ skipper) || decide (250 * (4 - s.power.clockStep) ≤ s.tb.now % 1000) then done s s
  else
    let s0 := noteOverruns s
    match chooseItem s0 core with
    | none => done s s0
    | some (j, x) =>
      let s1 := updJob j (fun y => { y with items := y.items.drop 1 }) (bindSkipper core skipper x.part s0)
      done s (afterWork (settleJob j s1))

/-- The longest context switch in ns, rounded up (R250). -/
def switchBound : Nat := 3559

/-- CONTEXT_SWITCH: a Skipper core, or with `none` the whole core, is bound to another partition; the switch takes `ns`, in which the
engine issues nothing. A core changes its clock generator at both ends of a confidential run (R480). -/
def execContextSwitch (core : Nat) (skipper : Option Nat) (n ns : Nat) (s : State) : Host.Outcome State Fault Refusal :=
  if !serving s || (part? s n).isNone then done s s
  else
    let conf := isConf s n || (match (coreOf s core).binding with | some m => isConf s m | none => false)
    let s1 := if skipper.isNone && conf then
        updAttDie (core / 4) (fun x => { x with clkSwitches := sat32 (x.clkSwitches + 1) }) s
      else s
    done s (updCore core (fun x =>
      let y := { x with switches := sat32 (x.switches + 1), switchMax := max x.switchMax (min ns switchBound) }
      match skipper with
      | some k => { y with skippers := mset y.skippers k n }
      | none =>
        { y with
          binding := some n
          skippers := (List.range 8).map fun k => (k, n)
          busyUntil := max y.busyUntil (engineCycle s.tb.now) + min 8896 ((min ns switchBound * 5 + 1) / 2) }) s1)

/-! ### Corrupt coded blocks (R172) -/

/-- The task runs on the core and reads the page. -/
def taskReads (s : State) (core page : Nat) (t : Nat × PageTask) : Bool :=
  t.2.page == page && (job? s t.2.job).any fun x => x.core == some core

/-- CORRUPT_BLOCK_REREAD: an expander of a core found a block of a page corrupt and stalled the engine; the block is read
again. `deterministic`: the task is LC work running in its owned slots. -/
def execCorruptBlockReread (core page block : Nat) (good deterministic : Bool) (stall : Nat) (s : State) :
    Host.Outcome State Fault Refusal :=
  if !serving s then done s s
  else
    let die := core / 4
    match s.sched.tasks.find? (taskReads s core page) with
    | none => done s s
    | some (_, t) =>
      let s1 := logEvent 0x0501 die (some t.part) core [page]
        (updAttDie die (fun x =>
          { x with corrupt := sat32 (x.corrupt + 1), stall := sat32 (x.stall + stall),
                   recovered := if good then sat32 (x.recovered + 1) else x.recovered }) s)
      let run := match job? s t.job with | some x => x.run | none => 0
      let op := match mfind s.sched.runs run with | some x => x.op | none => 1
      if good then
        if t.lc && deterministic then done s (afterWork (failRun run stScheduleFault (refusedBody op stScheduleFault) s1))
        else done s s1
      else
        match (desc? s t.mdb).bind fun d => (d.streams[t.stream]?).map fun st => (d, st) with
        | none => done s s1
        | some (d, st) =>
          let j := (placeIn st ((t.views.head?.map (·.1)).getD 0)).1
          let p := firstPosOf st j + block / max 1 (st.elems / 64)
          let s2 := recordLost t.mdb p (p + 1) (some page) s1
          let body := match desc? s2 t.mdb with
            | some e => lostBody op e.lostFirst e.lostEnd
            | none => lostBody op d.lostFirst d.lostEnd
          done s (afterWork (failRun run stDataLost body s2))

end Sys2Proof.Machine
end

