-- ==== Sys2Proof/Machine/Dram.lean ====
section
/-!
DEFINITION. The memory base dies (chapter 6): reserved slots and their grant (R191 to R196), refresh (R185), Moss tasks, row
operations and their ECC state (R200 to R208), the scrubber. One command is one decision of the controller; cycles within a
slot are left out (log 63).
-/

namespace Sys2Proof.Machine

open Sys2Proof

/-! ### Places -/

def pcDie (g : Nat) : Nat := g / 64

/-- MOSS_SLOTCFG.CHUNK_MAX as it is used (Table 6.7): rounded down to a multiple of 64, from 128 to 832. -/
def chunkMax (s : State) (d : Nat) : Nat :=
  min 832 (max 128 (bitsOf (regWord s (0x00800000 + d * 0x10000)) 9 0 / 64 * 64))

/-- One row of one bank as runs of HBM bytes: address and length (R181, R182). -/
def rowRuns (g bank row : Nat) : List (Nat × Nat) :=
  if row < 4480 then
    let base := g * pcBytes + (4 * row + bank / 8) * pageSize
    (List.range 64).map fun i => (base + 1024 * i + 128 * (bank % 8), 128)
  else [(g * pcBytes + poolBytes + 8192 * ((row - 4480) * 32 + bank), 8192)]

/-- The address of a codeword's data in a row (R181, R182). -/
def unitAddr (g bank row unit : Nat) : Nat :=
  match (rowRuns g bank row).find? fun _ => true with
  | some x => if row < 4480 then x.1 + 1024 * (unit / 2) + 64 * (unit % 2) else x.1 + 64 * unit
  | none => 0

/-- The check bytes of the unit at an address: those of the code of its data, but where a row operation has left others (R204, R205). -/
def unitCheck (s : State) (a : Nat) : List Byte :=
  match mfind s.mem.checks (a / 64) with
  | some bs => bs
  | none => rsCheck (hbmRead s a 64)

/-- The 1 KiB of check bytes of a row (R180). -/
def rowCheck (s : State) (g bank row : Nat) : List Byte := (List.range 128).flatMap fun u => unitCheck s (unitAddr g bank row u)

/-- A unit takes check bytes; none are kept where they are the code of its data. -/
def putCheck (a : Nat) (bs : List Byte) (s : State) : State :=
  let rest := mdel s.mem.checks (a / 64)
  { s with mem := { s.mem with checks := if bs = rsCheck (hbmRead s a 64) then rest else mset rest (a / 64) bs } }

def rowRead (s : State) (g bank row : Nat) : List Byte := (rowRuns g bank row).flatMap fun x => hbmRead s x.1 x.2

/-- Writes a row's bytes run by run. -/
def rowWrite : List (Nat × Nat) → List Byte → State → State
  | [], _, s => s
  | x :: xs, bs, s => rowWrite xs (bs.drop x.2) (hbmWrite x.1 (bs.take x.2) s)

/-- The banks of a row set: those of bank group `bg` that the mask selects. -/
def maskBanks (bg mask : Nat) : List Nat := ((List.range 8).filter fun k => bitOf mask k).map fun k => 8 * bg + k

def isStale (s : State) (g bank row : Nat) : Bool := s.mem.stale.contains (g, bank, row)
def isRepaired (s : State) (g bank row : Nat) : Bool := s.nv.repaired.contains (g, bank, row)

/-! ### What waits in the queues of a controller (R195, R197, R211) -/

def queuedIn (l : List (Nat × Nat)) (bg : Nat) : Nat := mget 0 l bg

/-- An ordinary command enters a bank group's queue, which holds at most 32; `late`: the commands that wait for the next body to end. -/
def enterQueue (late : Bool) (bg : Nat) (c : PcCtl) : PcCtl :=
  if 32 ≤ queuedIn c.ordinary bg + queuedIn c.late bg then { c with hub := mset c.hub bg (queuedIn c.hub bg + 1) }
  else if late then { c with late := mset c.late bg (queuedIn c.late bg + 1) }
  else { c with ordinary := mset c.ordinary bg (queuedIn c.ordinary bg + 1) }

/-- The source row sets of a row operation: bank group and row. -/
def rowSources (c : RowCmd) : List (Nat × Nat) :=
  match c.op with
  | .copySame => [(c.srcBg, c.srcRow)]
  | .copyOther => [(c.srcBg, c.srcRow)]
  | .and_ => [(c.srcBg, c.srcRow), (c.srcBg, c.src2Row)]
  | .or_ => [(c.srcBg, c.srcRow), (c.srcBg, c.src2Row)]
  | .xor_ => [(c.srcBg, c.srcRow), (c.srcBg, c.src2Row)]
  | _ => []

/-- A row that a row operation reads or writes, of those that wait for their slot after a CHECK (R202). -/
def rowPinned (c : PcCtl) (bank row : Nat) : Bool :=
  match c.next with
  | some r => ((r.dstBg, r.dstRow) :: rowSources r).contains (bank / 8, row)
  | none => false

/-- A write of firmware may issue: its row is not code-stale (R207) and no row operation between its CHECK and its end uses it. -/
def writeReady (s : State) (g : Nat) (x : Nat × Nat × Nat × List Byte) : Bool :=
  !isStale s g x.1 x.2.1 && !rowPinned (pcCtl s g) x.1 x.2.1

/-- Firmware's writes that may issue do. -/
def performWrites (g : Nat) (s : State) : State :=
  let ws := (pcCtl s g).writes
  (ws.filter fun x => writeReady s g x).foldl (fun s x => hbmWrite (unitAddr g x.1 x.2.1 x.2.2.1) x.2.2.2 s)
    (updPc g (fun c => { c with writes := ws.filter fun x => !writeReady s g x }) s)

/-- The queued ordinary commands issue, and those that waited beyond the queues take their places. -/
def issueOrdinary (g : Nat) (s : State) : State :=
  performWrites g (updPc g (fun c =>
    { c with ordinary := [], late := c.hub.foldl (fun l x => mset l x.1 (queuedIn l x.1 + min 32 x.2)) c.late,
             hub := (c.hub.map fun x => (x.1, x.2 - 32)).filter fun x => x.2 != 0 }) s)

/-- The row operation of firmware as the sequencer takes it (R200). -/
def fwCmd (op : FwOp) (srcBg srcRow src2Row dstBg dstRow mask : Nat) : RowCmd :=
  let o : RowOp := match op with
    | .zero => .zero
    | .copy => if srcBg = dstBg then .copySame else .copyOther
    | .and_ => .and_
    | .or_ => .or_
    | .xor_ => .xor_
    | .reencode => .reencode
  { op := o, issuer := .firmware, srcBg := srcBg, srcRow := srcRow, src2Row := src2Row, dstBg := dstBg, dstRow := dstRow, mask := mask }

/-- One command enters the queues of a controller. A read of a code-stale row is refused at once (R207): its completion carries no data,
and firmware reads again after the re-encode. -/
def arriveOne (g : Nat) (late : Bool) (s : State) : PcArrival → State
  | .ordinary bg _ => updPc g (enterQueue late bg) s
  | .fwRead bank row =>
    if isStale s g bank row then updMemDie (pcDie g) (fun d => { d with staleReads := sat32 (d.staleReads + 1) }) s
    else updPc g (enterQueue late (bank / 8)) s
  | .fwWrite bank row unit data =>
    updPc g (fun c => { enterQueue late (bank / 8) c with writes := c.writes ++ [(bank, row, unit, data)] }) s
  | .fwRow op sb sr s2 db dr m => updPc g (fun c => { c with rowQ := c.rowQ ++ [fwCmd op sb sr s2 db dr m] }) s

def arrive (g : Nat) (late : Bool) (l : List PcArrival) (s : State) : State := l.foldl (arriveOne g late) s

/-- What a command has waited for a slot of `slot` cycles that has just ended, `tail` of them after the edge (R199). -/
def waitOf (slot tail : Nat) : PcArrival → Nat
  | .ordinary _ ago => min slot (ago + tail)
  | _ => 0

/-- A slot of `slot` cycles ends: what arrived during it, and what waited for it from its grant on, have waited for it; all of it issues
in the yield phase that follows (R195). -/
def endSlot (g slot tail : Nat) (l : List PcArrival) (s : State) : State :=
  let w := (l.map (waitOf slot tail)).foldl max (if (pcCtl s g).late.isEmpty then 0 else slot)
  arrive g false l (updMemDie (pcDie g) (fun d => { d with waitMax := max d.waitMax w })
    (updPc g (fun c => { c with ordinary := c.late.foldl (fun o x => mset o x.1 (queuedIn o x.1 + x.2)) c.ordinary, late := [] }) s))

/-! ### Refresh (R185, R196) -/

def dueOf (c : PcCtl) (bg : Nat) : Nat := mget 0 c.due bg

def taskBg (s : State) (t : Nat) : Nat := match task? s t with | some x => pageBg x.page | none => 0

/-- The bank groups that a body works in. -/
def bodyIn (b : Body) (bg : Nat) : Bool :=
  match b with
  | .idle => false
  | .moss _ _ k => k == bg
  | .row c => c.dstBg == bg || (rowSources c).any fun x => x.1 == bg

/-- A bank group has other work: a body, or something queued for it. -/
def bgBusy (s : State) (c : PcCtl) (bg : Nat) : Bool :=
  bodyIn c.body bg || queuedIn c.ordinary bg != 0 || queuedIn c.late bg != 0 || (c.mossQ.any fun x => taskBg s x.1 == bg) ||
    (c.mossCur.any fun x => taskBg s x.1 == bg) || (c.next.toList ++ c.rowQ).any fun r => bodyIn (.row r) bg

/-- One refresh of a bank group issues. -/
def issueRefresh (g bg : Nat) (s : State) : State :=
  updPc g (fun c => { c with due := if dueOf c bg ≤ 1 then mdel c.due bg else mset c.due bg (dueOf c bg - 1) }) s

/-- REFRESH_DUE: a bank group's refresh falls due. It issues at once where the bank group has no other work, and is postponed otherwise;
with 4 postponed already, one of them issues in its place (R185). -/
def execRefreshDue (g bg : Nat) (s : State) : Host.Outcome State Fault Refusal :=
  if !s.boot.powered || s.boot.stage < 3 then done s s
  else
    let c := pcCtl s g
    if !bgBusy s c bg || decide (4 ≤ dueOf c bg) then done s s
    else
      let n := dueOf c bg + 1
      done s (updMemDie (pcDie g) (fun d => { d with postponedMax := max d.postponedMax n })
        (updPc g (fun c => { c with due := mset c.due bg n }) s))

/-! ### Moss slots (R191 to R194) -/

/-- The oldest queued task in another bank group than the task just finished, or else the oldest (R194). -/
def pickMoss (s : State) (c : PcCtl) : Option (Nat × Nat) :=
  match c.mossQ.find? fun x => c.lastBg != some (taskBg s x.1) with
  | some x => some x
  | none => c.mossQ.head?

/-- The longest slot of a die so far. -/
def noteSlot (g cycles : Nat) (s : State) : State := updMemDie (pcDie g) (fun d => { d with slotMax := max d.slotMax cycles }) s

/-- Steps of a task, and of one of its passes (R187). -/
def taskSteps (x : PageTask) : Nat := x.rows * x.keyRows * ceilDiv' x.elems 64
def passSteps (x : PageTask) : Nat := queryRows x.elems * x.keyRows * ceilDiv' x.elems 64

/-- The query rows of the pass that step number `k` of a task belongs to: the first and how many (R186, R187). -/
def passAt (x : PageTask) (k : Nat) : Nat × Nat :=
  let first := queryRows x.elems * (k / max 1 (passSteps x))
  (first, min (queryRows x.elems) (x.rows - first))

/-- The query store holds the query rows of the pass of step `k`. -/
def loadQueries (g t k : Nat) (s : State) : State :=
  match task? s t with
  | some x => updPc g (fun c => { c with queryStore := some (x.part, t, (passAt x k).1, (passAt x k).2) }) s
  | none => s

/-- The chunk of a task that runs next becomes the body. -/
def startChunk (g t left : Nat) (s : State) : State :=
  let k := min (chunkMax s (pcDie g)) left
  let at_ := match task? s t with | some x => taskSteps x - left | none => 0
  noteSlot g (56 + k + 24) (loadQueries g t at_ (updPc g (fun c =>
    { c with mossCur := some (t, left), body := .moss t k (taskBg s t) }) s))

/-! ### Row operations (R200 to R203) -/

/-- Slot cycles (Table 6.4; the self-test slot by R199). -/
def slotCycles : RowOp → Nat
  | .check => 592
  | .copySame => 164
  | .copyOther => 212
  | .zero => 128
  | .and_ => 656
  | .or_ => 656
  | .xor_ => 888
  | .reencode => 620
  | .selfTest => 800

/-- The numbers of the operations in ARG0 of event 0x0108 (DESIGN CHOICE, log 91). -/
def rowOpCode : RowOp → Nat
  | .check => 0
  | .copySame => 1
  | .copyOther => 2
  | .zero => 3
  | .and_ => 4
  | .or_ => 5
  | .xor_ => 6
  | .reencode => 7
  | .selfTest => 8

/-- Sources that a CHECK still has to pass (R202). -/
def unchecked (c : RowCmd) : Bool := decide (c.passed < (rowSources c).length)

def isLogic : RowOp → Bool
  | .and_ => true
  | .or_ => true
  | .xor_ => true
  | _ => false

/-- A row of the firmware data slice (R182). -/
def fwRow (r : Nat) : Bool := decide (4480 ≤ r) && decide (r < 4484)

/-- The page that a row set of the pool is. -/
def rowPage (g bg row : Nat) : Option Nat := if row < 4480 then some (g * pcPages + 4 * row + bg) else none

/-- No page task holds the row set. -/
def rowUnheld (s : State) (g bg row : Nat) : Bool := match rowPage g bg row with | some p => !pageHeld s p | none => true

/-- A row set that a ROWCOPY may target: a free page or a row set of the firmware data slice; for a clone, the page that it took from the
free pool. -/
def rowFree (s : State) (g : Nat) (c : RowCmd) : Bool :=
  match rowPage g c.dstBg c.dstRow with
  | some p => if c.issuer = .clone then s.fab.copies.any fun x => x.dst == p else (mfind s.pages p).isNone
  | none => fwRow c.dstRow && c.issuer != .clone

/-- An operand of a logic operation lies in a repaired row (R203). -/
def logicRepaired (s : State) (g : Nat) (c : RowCmd) : Bool :=
  (maskBanks c.dstBg c.mask).any fun b => isRepaired s g b c.srcRow || isRepaired s g b c.src2Row || isRepaired s g b c.dstRow

/-- Table 6.5, R203, R207 and the 4 banks of ROWREENCODE (R211): the command may run. -/
def rowPermitted (s : State) (g : Nat) (c : RowCmd) : Bool :=
  let src := maskBanks c.srcBg c.mask
  let dst := maskBanks c.dstBg c.mask
  match c.op with
  | .zero => (c.issuer == .pageFree || c.issuer == .teardown || c.issuer == .coldStart || c.issuer == .firmware) &&
      rowUnheld s g c.dstBg c.dstRow
  | .copySame => (c.issuer == .clone || c.issuer == .firmware) && rowFree s g c && c.srcBg == c.dstBg &&
      c.dstRow != c.srcRow && !(src.any fun b => isStale s g b c.srcRow)
  | .copyOther => (c.issuer == .clone || c.issuer == .firmware) && rowFree s g c &&
      (c.srcBg != c.dstBg || c.dstRow != c.srcRow) && !(src.any fun b => isStale s g b c.srcRow)
  | .reencode => (c.issuer == .sequencer || c.issuer == .firmware) && decide (dst.length ≤ 4)
  | .check => c.issuer == .sequencer
  | .selfTest => c.issuer == .firmware
  | _ => c.issuer == .firmware && fwRow c.srcRow && fwRow c.src2Row && fwRow c.dstRow && c.srcBg == c.dstBg &&
      !(dst.any fun b => isStale s g b c.srcRow || isStale s g b c.src2Row) && !logicRepaired s g c

/-- The row-operation slot that runs next: re-encodes go first (R208). -/
def pickRow (c : PcCtl) : Option RowCmd :=
  match c.rowQ.find? fun x => x.op == .reencode && x.issuer == .sequencer with
  | some x => some x
  | none => c.rowQ.head?

/-- A row operation's next slot: its CHECK, or itself (a repaired row takes the row-bus mode, R203). -/
def rowSlot (s : State) (g : Nat) (c : RowCmd) : Nat :=
  if unchecked c then 592
  else if c.op = .copySame ∧ (maskBanks c.dstBg c.mask).any (fun b => isRepaired s g b c.srcRow || isRepaired s g b c.dstRow) then 212
  else slotCycles c.op

/-- The bytes that an operation leaves in one bank of its target; none where it writes no data. -/
def rowResult (s : State) (g : Nat) (c : RowCmd) (k : Nat) : Option (List Byte) :=
  let src := rowRead s g (8 * c.srcBg + k) c.srcRow
  let src2 := rowRead s g (8 * c.srcBg + k) c.src2Row
  match c.op with
  | .copySame => some src
  | .copyOther => some src
  | .zero => some (zeroBytes 8192)
  | .and_ => some (List.zipWith (· &&& ·) src src2)
  | .or_ => some (List.zipWith (· ||| ·) src src2)
  | .xor_ => some (List.zipWith (· ^^^ ·) src src2)
  | _ => none

/-- The banks of the mask. -/
def cmdBanks (c : RowCmd) : List Nat := (List.range 8).filter fun k => bitOf c.mask k

/-- The data bytes of the target rows after an operation (Table 6.4). -/
def rowData (g : Nat) (c : RowCmd) (s : State) : State :=
  let out := (cmdBanks c).filterMap fun k => (rowResult s g c k).map fun bs => (k, bs)
  out.foldl (fun s x => rowWrite (rowRuns g (8 * c.dstBg + x.1) c.dstRow) x.2 s) s

/-- The check bytes of the target rows of ROWAND and ROWOR: those of the sources ANDed or ORed, where one of the data units is not zero
(R205). -/
def logicChecks (s : State) (g : Nat) (c : RowCmd) : List (Nat × List Byte) :=
  (cmdBanks c).flatMap fun k => (List.range 128).filterMap fun u =>
    let a := unitAddr g (8 * c.srcBg + k) c.srcRow u
    let b := unitAddr g (8 * c.srcBg + k) c.src2Row u
    if allZero (hbmRead s a 64) && allZero (hbmRead s b 64) then none
    else
      let op : Byte → Byte → Byte := fun x y => if c.op = .and_ then x &&& y else x ||| y
      some (unitAddr g (8 * c.dstBg + k) c.dstRow u, List.zipWith op (unitCheck s a) (unitCheck s b))

/-- The check bytes of the target rows become the code of their data. -/
def recodeRows (g : Nat) (c : RowCmd) (s : State) : State :=
  let units := (cmdBanks c).flatMap fun k => (List.range 128).map fun u => unitAddr g (8 * c.dstBg + k) c.dstRow u / 64
  { s with mem := { s.mem with checks := s.mem.checks.filter fun x => !units.contains x.1 } }

/-- The effect of an operation on the data and check bytes of its target rows (Tables 6.4 and 6.6). -/
def rowEffect (g : Nat) (c : RowCmd) (s : State) : State :=
  match c.op with
  | .and_ => (logicChecks s g c).foldl (fun t x => putCheck x.1 x.2 t) (rowData g c s)
  | .or_ => (logicChecks s g c).foldl (fun t x => putCheck x.1 x.2 t) (rowData g c s)
  | .reencode => recodeRows g c s
  | _ => rowData g c s

/-- A refused command performs nothing (R201); firmware then performs an operation on its bitmaps in repaired rows with ordinary reads
and writes (R203). -/
def refuseRow (g : Nat) (c : RowCmd) (s : State) : State :=
  let s1 := logEvent 0x0108 (0x10 + pcDie g) none g [rowOpCode c.op, c.dstRow]
    (updMemDie (pcDie g) (fun d => { d with rowRefused := sat32 (d.rowRefused + 1) }) s)
  if isLogic c.op && rowPermitted { s with nv := { s.nv with repaired := [] } } g c then rowData g c s1 else s1

/-- A row operation gets its slot, or is refused. -/
def startRow (g : Nat) (c : RowCmd) (s : State) : State :=
  let s1 := updPc g (fun x => { x with rowQ := x.rowQ.erase c, next := if x.next = some c then none else x.next }) s
  if rowPermitted s g c then noteSlot g (rowSlot s g c) (updPc g (fun x => { x with body := .row c }) s1) else refuseRow g c s1

/-- Code-stale bits after an operation (R206). -/
def rowStale (g : Nat) (c : RowCmd) (s : State) : State :=
  let rows := (maskBanks c.dstBg c.mask).map fun b => (g, b, c.dstRow)
  let rest := s.mem.stale.filter fun x => !rows.contains x
  match c.op with
  | .check => s
  | .selfTest => s
  | .and_ => { s with mem := { s.mem with stale := rest ++ rows } }
  | .or_ => { s with mem := { s.mem with stale := rest ++ rows } }
  | _ => { s with mem := { s.mem with stale := rest } }

/-- The re-encodes that follow ROWAND and ROWOR, 4 banks at a time (R208). -/
def reencodes (c : RowCmd) : List RowCmd :=
  if c.op = .and_ ∨ c.op = .or_ then
    ([0x0F, 0xF0].filter fun m => (c.mask &&& m) != 0).map fun m =>
      { op := .reencode, issuer := .sequencer, dstBg := c.dstBg, dstRow := c.dstRow, mask := c.mask &&& m }
  else []

/-- A self-test run that has slots left goes on (R199). -/
def moreSlots (c : RowCmd) : List RowCmd :=
  if c.op = .selfTest ∧ 1 < c.testSlots then [{ c with testSlots := c.testSlots - 1 }] else []

/-! ### Grants (R195) -/

/-- What a grant would go to: the row operation that goes first, the Moss unit's task under way or its next, a row operation. -/
inductive SlotFor where
  | row (c : RowCmd)
  | moss (t left : Nat)
  deriving DecidableEq, Repr

def nextSlot (s : State) (c : PcCtl) : Option SlotFor :=
  match c.next with
  | some r => some (.row r)
  | none =>
    let row := (pickRow c).map SlotFor.row
    match c.mossCur with
    | some (t, left) => if 0 < left then some (.moss t left) else row
    | none => match pickMoss s c with
      | some (t, left) => some (.moss t left)
      | none => row

/-- The bank groups that a slot would hold. -/
def slotIn (s : State) (x : SlotFor) (bg : Nat) : Bool :=
  match x with
  | .row c => bodyIn (.row c) bg
  | .moss t _ => taskBg s t == bg

/-- The slot is granted. -/
def grantSlot (g : Nat) (x : SlotFor) (s : State) : State :=
  match x with
  | .row c => startRow g c s
  | .moss t left => startChunk g t left (updPc g (fun c => { c with mossQ := c.mossQ.filter fun y => y.1 != t }) s)

/-- SLOT_GRANT: with no body running, the pseudo-channel's resources go to the first of: ordinary commands, a refresh at its limit, a
Moss slot, a row-operation slot, a refresh that is due (R195). What arrives at this edge is considered from the next one on. A refresh at
its limit that goes before a slot of its bank group holds that grant back (R196). -/
def execSlotGrant (e : PcEvent) (s : State) : Host.Outcome State Fault Refusal :=
  let g := e.pc
  let arrived := e.arrived
  let c := pcCtl s g
  if !s.boot.powered || s.boot.stage < 3 || c.body != .idle then done s s
  else if !c.ordinary.isEmpty then done s (arrive g true arrived (issueOrdinary g s))
  else match c.due.find? fun x => decide (4 ≤ x.2) with
    | some (bg, _) =>
      let held := (nextSlot s c).any fun x => slotIn s x bg
      done s (arrive g false arrived (updMemDie (pcDie g)
        (fun d => if held then { d with forced := sat32 (d.forced + 1) } else d) (issueRefresh g bg s)))
    | none =>
      match nextSlot s c with
      | some x => done s (arrive g true arrived (grantSlot g x s))
      | none =>
        let s1 := match c.due with
          | (bg, _) :: _ => issueRefresh g bg s
          | [] => s
        done s (arrive g false arrived (updPc g (fun c => { c with ordinary := c.late, late := [] }) s1))

/-! ### Ends of bodies -/

/-- MOSS_BODY_END: a chunk body ends; the slot goes on with the next chunk unless an ordinary command or a refresh of its bank
group waits (R192), or the clock step is above 0 (R479). The end of a task's last chunk is no yield (DESIGN CHOICE, log 91). -/
def execMossBodyEnd (e : PcEvent) (s : State) : Host.Outcome State Fault Refusal :=
  let g := e.pc
  let c := pcCtl s g
  if !s.boot.powered || s.boot.stage < 3 then done s s
  else match c.body, c.mossCur with
  | .moss t k bg, some (_, left) =>
    let rest := left - k
    let s1 := endSlot g (56 + k + 24) 24 e.arrived (updMemDie (pcDie g) (fun d => { d with chunks := sat32 (d.chunks + 1), steps := sat64 (d.steps + k) })
      (updPc g (fun c => { c with body := .idle, mossCur := some (t, rest) }) s))
    match task? s t with
    | none => done s (updPc g (fun c => { c with mossCur := none }) s1)
    | some x =>
      let s2 := loadQueries g t (taskSteps x - rest - 1)
        (chargeAt x.part (tickTime s) (fun y => { y with mossSteps := sat64 (y.mossSteps + k) }) s1)
      if rest = 0 then done s s2
      else if queuedIn (pcCtl s2 g).ordinary bg ≠ 0 then done s (updMemDie (pcDie g) (fun d => { d with yields := sat32 (d.yields + 1) }) s2)
      else if 4 ≤ dueOf c bg ∨ s.power.clockStep ≠ 0 then done s s2
      else done s (startChunk g t rest s2)
  | .moss _ _ _, none => done s (updPc g (fun c => { c with body := .idle }) s)
  | _, _ => done s s

/-- What a Moss task returns: its scores, and the largest of each query row (R189). -/
def taskReturn (x : PageTask) : Nat × List (List F32) × List F32 :=
  (x.page, x.scores, x.scores.map fun r => r.foldl fMax f32NegInf)

/-- MOSS_TASK_DONE: the unit has run the last step of its task and returns the scores; the task ends and the unit is free
for the next (R194). -/
def execMossTaskDone (g : Nat) (s : State) : Host.Outcome State Fault Refusal :=
  if !s.boot.powered || s.boot.stage < 3 then done s s
  else match (pcCtl s g).mossCur with
  | some (t, 0) =>
    let s1 := updPc g (fun c => { c with mossCur := none, lastBg := some (taskBg s t) }) s
    match task? s t with
    | none => done s s1
    | some x =>
      done s (afterWork (settleJob x.job (endTask t (updJob x.job (fun y => { y with returned := y.returned ++ [taskReturn x] })
        (updMemDie (pcDie g) (fun d => { d with tasks := sat32 (d.tasks + 1) }) s1)))))
  | _ => done s s

/-- The copy of a clone that a row operation makes. -/
def copyOf (s : State) (g : Nat) (c : RowCmd) : Option PageCopy :=
  if c.issuer = .clone then (rowPage g c.dstBg c.dstRow).bind fun p => s.fab.copies.find? fun x => x.dst == p else none

/-- A row operation that its CHECK stops (R202): a clone's copy goes to the page mover, or with an uncorrectable codeword the clone
fails; a bitmap operation is left to firmware, which performs it with ordinary reads and writes, from its duplicate where a codeword is
lost (R418). -/
def checkFailed (g : Nat) (c : RowCmd) (lost : Bool) (s : State) : State :=
  match copyOf s g c with
  | some x => if lost then failClone x s else moverCopy x s
  | none => if c.issuer = .firmware then rowData g c s else s

/-- The codewords of a CHECK that are corrected go back as ordinary writes (R202). -/
def writeBack (g bg row : Nat) (found : List (Nat × SymErrors)) (s : State) : State :=
  found.foldl (fun s x =>
    if readOutcome x.2 = .correctable then
      let a := unitAddr g (8 * bg + x.1 / 128) row (x.1 % 128)
      updPc g (enterQueue false bg) (hbmWrite a (decodedData (hbmRead s a 64) x.2) s)
    else s) s

/-- ROW_CHECK_DONE: the CHECK slot of a source ends (R202): with no error the next source's CHECK or the operation's own slot goes first;
corrected codewords are written back and the CHECK is repeated once; otherwise the operation is not performed. -/
def execRowCheckDone (e : PcEvent) (found : List (Nat × SymErrors)) (s : State) : Host.Outcome State Fault Refusal :=
  let g := e.pc
  if !s.boot.powered || s.boot.stage < 3 then done s s
  else match (pcCtl s g).body with
  | .row c =>
    match (rowSources c)[c.passed]? with
    | none => done s s
    | some (bg, row) =>
      let outs := found.map fun x => readOutcome x.2
      let s1 := endSlot g 592 0 e.arrived (updMemDie (pcDie g) (fun d =>
        { d with
          rowDone := sat32 (d.rowDone + 1)
          corrected := sat32 (d.corrected + outs.countP (· == .correctable))
          uncorrected := sat32 (d.uncorrected + outs.countP (· == .uncorrectable)) })
        (updPc g (fun x => { x with body := .idle }) s))
      if outs.all (· == .clean) then
        done s (updPc g (fun x => { x with next := some { c with passed := c.passed + 1, repeats := 0 } }) s1)
      else
        let s2 := writeBack g bg row found s1
        if outs.contains .uncorrectable then done s (checkFailed g c true s2)
        else if c.repeats = 0 then done s (updPc g (fun x => { x with next := some { c with repeats := 1 } }) s2)
        else done s (checkFailed g c false s2)
  | _ => done s s

/-- The effect of an ended operation where its issuer still needs it: a clone's copy, a freed page, or any other operation. -/
def rowEnded (g : Nat) (c : RowCmd) (s : State) : State :=
  if c.issuer = .clone then
    match copyOf s g c with
    | some x => copyMade x (rowStale g c (rowEffect g c s))
    | none => s
  else
    let s1 := rowStale g c (rowEffect g c s)
    if c.issuer = .pageFree then
      match rowPage g c.dstBg c.dstRow with
      | none => s1
      | some p => match mfind s1.pages p with
        | some r => if r.use = .zeroing then fillBuffers r.part (returnPage p s1) else s1
        | none => s1
    else s1

/-- Firmware's writes that waited for a row to be re-encoded, or for an operation to end, are queued again (R202, R207). -/
def requeueWrites (g : Nat) (s : State) : State :=
  if !(pcCtl s g).ordinary.isEmpty || !(pcCtl s g).late.isEmpty then s
  else ((pcCtl s g).writes.filter fun x => writeReady s g x).foldl (fun s x => updPc g (enterQueue false (x.1 / 8)) s) s

/-- ROW_OPERATION_END: a row-operation slot ends: its effect stands in the target rows, their code-stale bits follow, and
re-encodes are queued. -/
def execRowOperationEnd (e : PcEvent) (s : State) : Host.Outcome State Fault Refusal :=
  let g := e.pc
  if !s.boot.powered || s.boot.stage < 3 then done s s
  else match (pcCtl s g).body with
  | .row c =>
    if unchecked c then done s s
    else
      let s1 := updMemDie (pcDie g) (fun d => { d with rowDone := sat32 (d.rowDone + 1) })
        (updPc g (fun x => { x with body := .idle, rowQ := reencodes c ++ x.rowQ ++ moreSlots c }) s)
      done s (endSlot g (rowSlot s g c) 0 e.arrived (requeueWrites g (rowEnded g c s1)))
  | _ => done s s

/-! ### The scrubber -/

/-- Nothing of the classes before the scrubber waits in a pseudo-channel (R195). -/
def pcQuiet (c : PcCtl) : Bool :=
  c.body == .idle && c.ordinary.isEmpty && c.late.isEmpty && c.mossQ.isEmpty && c.mossCur.isNone && c.next.isNone && c.rowQ.isEmpty &&
    c.due.isEmpty

/-- HBM_SCRUB: the scrubber reads the next codeword, where nothing else of the pseudo-channel waits: a correctable one is rewritten, an
error is counted and waits for its classification (R416); a code-stale row is skipped (R207). -/
def execHbmScrub (g : Nat) (found : SymErrors) (s : State) : Host.Outcome State Fault Refusal :=
  if !serving s || !pcInService s g || !pcQuiet (pcCtl s g) then done s s
  else
    let at_ := (pcCtl s g).scrubAt
    let bank := at_ / 128 % 32
    let row := at_ / 4096
    let s1 := updPc g (fun c => { c with scrubAt := (at_ + 1) % (4608 * 4096) }) s
    let out := readOutcome found
    if out = .clean || isStale s g bank row then done s s1
    else
      let a := unitAddr g bank row (at_ % 128)
      let s2 := if out = .correctable then hbmWrite a (decodedData (hbmRead s1 a 64) found) s1 else s1
      done s (updMemDie (pcDie g) (fun d =>
        { d with
          corrected := if out = .correctable then sat32 (d.corrected + 1) else d.corrected
          uncorrected := if out = .uncorrectable then sat32 (d.uncorrected + 1) else d.uncorrected })
        (updPc g (fun c => { c with scrubErr := some (bank, row) }) s2))

end Sys2Proof.Machine
end

