-- ==== Sys2Proof/Machine/Replica.lean ====
section
/-!
DEFINITION. The replica's side of replication (R401, R404, R407, R410), and the pages that a primary gets back (R407).
-/

namespace Sys2Proof.Machine

open Sys2Proof

/-! ### Messages in an inbox -/

/-- The header of a replication message (Table 14.2). -/
structure ReplHead where
  kind : Nat
  flags : Nat
  tenant : Nat
  lg : Nat
  layer : Nat
  stream : Nat
  seq : Nat
  rseq : Nat
  first : Nat
  count : Nat
  idx : Nat
  fmt : Nat
  gen : Nat
  slot : Nat
  len : Nat
  deriving DecidableEq, Repr

def replHead (b : List Byte) : ReplHead :=
  { kind := fieldAt b 0 1, flags := fieldAt b 1 1 % 8, tenant := fieldAt b 2 2, lg := fieldAt b 4 1, layer := fieldAt b 5 1 % 16,
    stream := fieldAt b 6 2 % 2048, seq := fieldAt b 8 5, rseq := fieldAt b 0x10 8, first := fieldAt b 0x18 4,
    count := fieldAt b 0x1C 4, idx := fieldAt b 0x20 4, fmt := fieldAt b 0x24 1 % 16, gen := fieldAt b 0x24 1 / 16 % 4,
    slot := fieldAt b 0x25 1 % 16, len := fieldAt b 0x28 4 }

/-- A header with no reserved encoding (R3, R401). -/
def replHeadOk (b : List Byte) : Bool :=
  let h := replHead b
  decide (64 ≤ b.length) && decide (1 ≤ h.kind) && decide (h.kind ≤ 6) && h.len + 64 == b.length

/-- A message that an inbox holds: its connection, MSEQ, buffer and length. -/
def inboxFind (s : State) (cid mseq : Nat) : Option (Nat × Nat × Nat × Nat) :=
  s.fab.inboxDue.find? fun x => x.1 == cid && x.2.1 == mseq

/-- The message has been dealt with: its 0xC2 response is sent (R295, R404). -/
def answerInbox (cid mseq st : Nat) (s : State) : State :=
  let s1 := { s with fab := { s.fab with inboxDue := s.fab.inboxDue.filter fun x => !(x.1 == cid && x.2.1 == mseq) } }
  match (conn? s cid).bind (fun c => mfind c.slots mseq) with
  | none => s1
  | some sl => respondPkt cid mseq sl.port 0x42 sl.first.lc 0 (statusBody st) (finishSlot cid mseq st s1)

/-- The descriptor of a key: its MDB and its directory address. -/
def descOfKey (s : State) (n tenant seq lg : Nat) : Option (Nat × Nat) :=
  (dirSearch s n (seqKey tenant seq lg)).map fun x => (dataMdb x.2.data.toNat, x.1)

/-! ### DESC_OPEN -/

/-- Opens a replica descriptor; REBUILD closes the replica of the same key first (R410). -/
def applyOpen (n : Nat) (h : ReplHead) (body : List Byte) (s : State) : Nat × State :=
  let d := descOf body
  if h.rseq ≠ 0 then (stNotPermitted, s)
  else if body.length < 512 ∨ body.length ≠ 512 * (1 + extCount d.streams.length) then (stFormat, s)
  else
    let old := descOfKey s n h.tenant h.seq h.lg
    let mine := match old with
      | some (m, _) => match desc? s m with | some x => x.replica && bitOf h.flags 0 | none => false
      | none => true
    if !mine then (stNotPermitted, s)
    else
      let s1 := match old with
        | some (m, a) => closeDesc m (dirRemove n a s)
        | none => s
      let d1 : Desc :=
        { d with
          tenant := h.tenant
          layerGroup := h.lg
          part := n
          seqId := h.seq
          conf := isConf s n
          replica := true
          repl := { rseq := 1, complete := !bitOf h.flags 0 } }
      match placeDesc n (seqKey h.tenant h.seq h.lg) false d1 (countOp n s1) with
      | .ok (_, s2) => (stOk, s2)
      | .error st => (st, s1)

/-! ### ROWS -/

/-- The size of a coded row that starts a list of bytes, under the first of some generations that fits. -/
def codedRowSize (s : State) (n : Nat) (st : Stream) (gens : List Nat) (bs : List Byte) : Option Nat :=
  firstSome (fun g => (decodeCodedRow (st.fmt == 3) g (fun k x => tableRec s n k x) (st.elems / 64) bs).map (·.2)) gens

/-- Cuts `k` coded rows off a list of bytes. -/
def cutCoded (s : State) (n : Nat) (st : Stream) (gens : List Nat) : Nat → List Byte → Option (List (List Byte) × List Byte)
  | 0, bs => some ([], bs)
  | k + 1, bs =>
    match codedRowSize s n st gens bs with
    | none => none
    | some sz => (cutCoded s n st gens k (bs.drop sz)).map fun x => (bs.take sz :: x.1, x.2)

/-- Places coded rows as R41 does: entry, row and offset of each. -/
def placeCoded (elems : Nat) : Nat → Nat → Nat → List (List Byte) → List RowPut
  | _, _, _, [] => []
  | j, t, off, r :: rs =>
    if trailerOff < off + rawRowSize elems then ⟨j + 1, 0, 0, r, []⟩ :: placeCoded elems (j + 1) 1 r.length rs
    else ⟨j, t, off, r, []⟩ :: placeCoded elems j (t + 1) (off + r.length) rs

/-- The generations at which this node may hold the record of a stream of a ROWS message: the header gives that of the layer's
first stream (`own`); for the others it is one of the resident ones. -/
def rowsGens (s : State) (n : Nat) (h : ReplHead) (own : Bool) (st : Stream) : List Nat :=
  let t := tableSlot s n st.excTable
  if own then [h.gen] else (t.newest.map (·.1)).toList ++ (t.older.map (·.1)).toList

/-- What one stream of a ROWS message holds: its plan, the scales of the pages it opens and the bytes after it; a status
where it cannot be taken. -/
def rowsPlan (s : State) (n : Nat) (h : ReplHead) (own : Bool) (st : Stream) (bs : List Byte) :
    Except Nat (StreamPlan × List (List Byte) × List Byte) :=
  let nps := fieldAt bs 0 4
  let have_ := st.entries.length
  let rest := bs.drop (4 + 4 * nps)
  if bs.length < 4 + 4 * nps then .error stFormat
  else if fmtCoded st.fmt then
    let gens := rowsGens s n h own st
    match cutCoded s n st ((st.entries.getLast?.map (·.excGen)).toList ++ gens) h.count rest with
    | none => .error stFormat
    | some (rows, after) =>
      if nps ≠ 0 ∨ after.length < 32 then .error stFormat
      else match gens.find? fun g => sameTable s n st.excTable g (after.take 32) with
      | none => .error stFormat
      | some gen =>
        let puts := match st.entries.getLast? with
          | some e => placeCoded st.elems (have_ - 1) (entryRows e) (if e.shared then trailerOff else st.specEnd * 4) rows
          | none => (placeCoded st.elems 0 0 trailerOff rows).map fun r => { r with entry := r.entry - 1 }
        let top := puts.foldl (fun m r => max m (r.entry + 1)) have_
        .ok ({ puts := puts, newPages := top - have_, gen := gen }, [], after.drop 32)
  else
    let b := rowSize st.fmt st.elems
    let sc := if fmtIsFp8 st.fmt then 0 else rowScaleSize st.fmt st.elems
    if rest.length < h.count * (b + sc) then .error stFormat
    else
      let rows := chunks (b + sc) h.count rest
      let puts : List RowPut := rows.zipIdx.map fun x =>
        let pl := placeOf st (h.first + x.2)
        ⟨pl.1, pl.2, 0, x.1.take b, x.1.drop b⟩
      let top := puts.foldl (fun m r => max m (r.entry + 1)) have_
      if nps ≠ (if fmtIsFp8 st.fmt then top - have_ else 0) then .error stFormat
      else .ok ({ puts := puts, newPages := top - have_ }, chunks 4 nps (bs.drop 4), rest.drop (h.count * (b + sc)))

/-- The plans of every stream of a layer; the bytes must end with the last one. -/
def rowsPlans (s : State) (n : Nat) (h : ReplHead) (d : Desc) : List Nat → List Byte →
    Except Nat (List (Nat × StreamPlan × List (List Byte)))
  | [], bs => if bs.isEmpty then .ok [] else .error stFormat
  | i :: is, bs =>
    match d.streams[i]? with
    | none => .error stFormat
    | some st =>
      match rowsPlan s n h ((layerStreams d h.layer).head? == some i) st bs with
      | .error e => .error e
      | .ok (pl, scales, rest) =>
        match rowsPlans s n h d is rest with
        | .error e => .error e
        | .ok xs => .ok ((i, pl, scales) :: xs)

/-- Writes the page scales of the pages that a message opens, from chain index `j` on. -/
def writeScales (m i : Nat) : Nat → List (List Byte) → State → State
  | _, [], s => s
  | j, w :: ws, s =>
    let s1 := match desc? s m with
      | none => s
      | some d => match (d.streams[i]?).bind (·.entries[j]?) with
        | some e => pageWrite d.part (locOf s d e) trailerOff w s
        | none => s
    writeScales m i (j + 1) ws s1

/-- Applies a ROWS message to a replica descriptor. -/
def applyRows (n m : Nat) (h : ReplHead) (body : List Byte) (s : State) : Nat × State :=
  match desc? s m with
  | none => (stNotPermitted, s)
  | some d =>
    let is := layerStreams d h.layer
    let sts := is.filterMap (d.streams[·]?)
    if is.isEmpty ∨ sts.any (fun st => st.tokens != h.first) then (stNotPermitted, s)
    else match rowsPlans s n h d is body with
      | .error st => (st, s)
      | .ok xs =>
        let plans := xs.map fun x => (x.1, x.2.1)
        if 0xFFFFFFFF < d.serialNext + (plans.map fun x => x.2.newPages).sum then (stPosLimit, s)
        else match allocPlans m false plans s with
          | none => (stPoolFull, s)
          | some s1 =>
            let s2 := xs.foldl (fun s x =>
              let len := match d.streams[x.1]? with | some st => st.entries.length | none => 0
              writeScales m x.1 len x.2.2 (writePlan m x.1 h.first h.count false len { x.2.1 with scales := [] } s)) s1
            (stOk, noteFree n s2)

/-! ### PAGE -/

/-- The bytes of a PAGE after its entry fit the stream: 65,536 of them and, coded, the table that this node also holds. -/
def pageBodyOk (s : State) (n : Nat) (st : Stream) (gen : Nat) (body : List Byte) : Bool :=
  entryPageOk body && body.length == 16 + 65536 + (if fmtCoded st.fmt then 32 else 0) &&
    (!fmtCoded st.fmt || sameTable s n st.excTable gen (sliceBytes body (16 + 65536) 32))

/-- The stream takes COUNT rows in its page `j`: its TOKENS and, coded, the end of its last block. -/
def pageTaken (j : Nat) (tail : Nat) (st : Stream) : Stream :=
  if st.ring then st
  else
    let last := j + 1 == st.entries.length
    { st with tokens := if last then (st.entries.map (·.ntok)).sum else st.tokens
              specEnd := if last && fmtCoded st.fmt then tail else st.specEnd }

/-- Applies a PAGE message to a replica descriptor: a new page at the end of its stream, or one sent again. -/
def applyPage (n m : Nat) (h : ReplHead) (body : List Byte) (s : State) : Nat × State :=
  match desc? s m with
  | none => (stNotPermitted, s)
  | some d =>
    match d.streams[h.stream]? with
    | none => (stFormat, s)
    | some st =>
      let lost := bitOf h.flags 1
      let len := st.entries.length
      let src := entryOf body
      if len < h.idx ∨ (!st.ring ∧ 0 < h.count ∧ h.first ≠ firstPosOf st h.idx) then (stNotPermitted, s)
      else if h.fmt ≠ st.fmt ∨ body.length < 16 ∨ !entryPageOk body ∨ (if lost then body.length ≠ 16 else !pageBodyOk s n st h.gen body) then
        (stFormat, s)
      else
        let old := st.entries[h.idx]?
        let exc := if fmtCoded st.fmt then some (st.excTable, h.gen) else none
        -- the page: none for a lost one, the present one, or a new one
        let got : Option (Nat × State) :=
          if lost then some (0, s)
          else match old with
            | some e => if e.lost then allocPage n (pageRotation s n m h.stream h.idx) exc s else some (e.page, s)
            | none => allocPage n (pageRotation s n m h.stream h.idx) exc s
        match got with
        | none => (stPoolFull, s)
        | some (p, s1) =>
          let plbs := if old.isNone then plbCount (len + 1) - st.plbs.length else 0
          match allocChainMdbs n m plbs s1 with
          | none => (stPoolFull, s)
          | some (ms, s2) =>
            let e : PageEntry :=
              { page := p, fmt := st.fmt, excGen := h.gen, keySlot := allocSlot s n, ntok := h.count, lost := lost,
                serial := src.serial }
            let s3 := match old with
              | some x => if lost && !x.lost then releasePage x.page s2 else s2
              | none => s2
            let s4 := updDesc m (fun d => { d with serialNext := max d.serialNext (src.serial + 1) }) s3
            let s5 := updStream m h.stream (fun st =>
              { st with
                entries := if old.isSome then st.entries.set h.idx e else st.entries ++ [e]
                plbs := st.plbs ++ ms }) s4
            let s6 := if lost then s5 else pageWrite n (locOf s5 d e) 0 (sliceBytes body 16 65536) s5
            let tail := if lost then 0 else fieldAt body (16 + trailerOff) 2
            let s7 := updStream m h.stream (pageTaken h.idx tail) s6
            let s8 := if lost then
                match (desc? s7 m).bind (fun d => (d.streams[h.stream]?).bind (fun st => entryRange st h.idx)) with
                | some (a, b) => recordLost m a b (old.map (·.page)) s7
                | none => s7
              else s7
            (stOk, noteFree n s8)

/-! ### REBUILD_END, PAGE_FETCH -/

/-- REBUILD_END: every TOKENS must be this node's own; a ring stream takes its TOKENS here. -/
def applyEnd (m : Nat) (body : List Byte) (s : State) : Nat × State :=
  match desc? s m with
  | none => (stNotPermitted, s)
  | some d =>
    if body.length ≠ 4 * d.streams.length then (stFormat, s)
    else if d.streams.zipIdx.any (fun x => !x.1.ring && x.1.tokens != fieldAt body (4 * x.2) 4) then (stNotPermitted, s)
    else (stOk, updDesc m (fun d =>
      { d with
        repl := { d.repl with complete := true }
        streams := d.streams.zipIdx.map fun x =>
          if x.1.ring then
            { x.1 with tokens := fieldAt body (4 * x.2) 4, ringHigh := max x.1.ringHigh (fieldAt body (4 * x.2) 4) }
          else x.1 }) s)

/-- The PAGE with REPLY that answers a PAGE_FETCH goes to the primary (R407). -/
def sendReply (peer n m : Nat) (h : ReplHead) (s : State) : State :=
  let form := pageForm m h.stream h.idx 4 s
  let (f, s1) : ReplForm × State := match form with
    | some x => x
    | none => ({ kind := 3, flags := 6, stream := h.stream, pageIdx := h.idx, payload := zeroBytes 16 }, s)
  match desc? s1 m with
  | none => s1
  | some d =>
    let bytes := replHeader d 3 f.flags 0 h.stream h.rseq f.firstPos f.count h.idx f.pfmt f.slot f.payload.length ++ f.payload
    let index := inboxIndex n m
    match connOrOpen n peer s1 with
    | none => s1
    | some (cid, s2) => (sendRequest cid 0x42 (index + peerGen s2 peer index * 2 ^ 24) bytes (.pageReply index) s2).2

/-! ### REPLICA_APPLY -/

/-- What a replication message does at a replica: its status, and whether a PAGE goes back. -/
def applyMessage (n : Nat) (bytes : List Byte) (s : State) : Nat × Option Nat × State :=
  let h := replHead bytes
  let body := bytes.drop 64
  if !replHeadOk bytes then (stFormat, none, s)
  else match part? s n with
    | none => (stNotPermitted, none, s)
    | some p =>
      if p.state = .teardown ∨ p.tenant ≠ h.tenant then (stNotPermitted, none, s)
      else if h.kind = 1 then
        let (st, s1) := applyOpen n h body s
        (st, none, s1)
      else match descOfKey s n h.tenant h.seq h.lg with
        | none => (stNotPermitted, none, s)
        | some (m, addr) =>
          match desc? s m with
          | none => (stNotPermitted, none, s)
          | some d =>
            if !d.replica ∨ d.declaredLost ∨ d.repl.rseq ≠ h.rseq then (stNotPermitted, none, s)
            else if h.kind = 4 then (stOk, none, closeDesc m (dirRemove n addr s))
            else
              let (st, s1) :=
                if h.kind = 2 then applyRows n m h body s
                else if h.kind = 3 then applyPage n m h body s
                else if h.kind = 5 then applyEnd m body s
                else if d.streams.length ≤ h.stream then (stFormat, s)
                else (stOk, s)
              if st = stOk then
                (st, if h.kind = 6 then some m else none,
                  updDesc m (fun d => { d with repl := { d.repl with rseq := d.repl.rseq + 1 } }) s1)
              else (st, none, s1)

/-- A message in an inbox is a PAGE sent in answer to a PAGE_FETCH. -/
def isReply (bytes : List Byte) : Bool := fieldAt bytes 0 1 == 3 && bitOf (fieldAt bytes 1 1) 2

/-- REPLICA_APPLY: a replica applies a replication message and answers it (R404); a PAGE_FETCH is answered before its
PAGE goes back (R407). -/
def execReplicaApply (cid mseq : Nat) (s : State) : Host.Outcome State Fault Refusal :=
  if !serving s then done s s
  else match inboxFind s cid mseq with
  | none => done s s
  | some (_, _, i, total) =>
    let (bytes, s1) := bufferRead i 0 total s
    if isReply bytes then done s s
    else
      let n := (bufOf s i).part
      let (st, fetch, s2) := applyMessage n bytes s1
      let s3 := answerInbox cid mseq st s2
      match fetch, conn? s cid with
      | some m, some c => done s (sendReply c.peer n m (replHead bytes) s3)
      | _, _ => done s s3

/-! ### PAGE_FETCH_REPLY -/

/-- The page that the replica gave back is written to a new page, and its entry updated in one update (R407). -/
def restorePage (n m : Nat) (h : ReplHead) (body : List Byte) (s : State) : Nat × State :=
  match desc? s m with
  | none => (stNotPermitted, s)
  | some d =>
    match d.streams[h.stream]? with
    | none => (stNotPermitted, s)
    | some st =>
      match st.entries[h.idx]? with
      | none => (stNotPermitted, s)
      | some e =>
        let gone := updDesc m (fun d => { d with repl := { d.repl with fetches := d.repl.fetches.filter fun f => f.1 != h.rseq } })
        if bitOf h.flags 1 then (stOk, loseEntry m h.stream h.idx (gone s))
        else if !pageBodyOk s n st e.excGen body then (stFormat, s)
        else match allocPage n (pageRotation s n m h.stream h.idx) (excOf s st e) s with
          | none => (stPoolFull, s)
          | some (p, s1) =>
            let slot := allocSlot s n
            let s2 := setPlace m h.stream h.idx p false e (releaseLost (locOf s d e) s1)
            let s3 := if e.shared then
                match mfind s2.refs e.refIdx with
                | some r => { s2 with refs := mset s2.refs e.refIdx { r with keySlot := slot, lost := false } }
                | none => s2
              else updEntry m h.stream h.idx (fun e => { e with keySlot := slot, lost := false }) s2
            let s4 := updEntry m h.stream h.idx (fun e => { e with fetching := false }) s3
            let s5 := match (desc? s4 m).bind (fun d => ((d.streams[h.stream]?).bind (·.entries[h.idx]?)).map fun e => (d, e)) with
              | some (d', e') => pageWrite n (locOf s4 d' e') 0 (sliceBytes body 16 65536) s4
              | none => s4
            (stOk, noteFree n (gone s5))

/-- The outcome of a PAGE sent with REPLY. -/
def applyReply (n : Nat) (bytes : List Byte) (s : State) : Nat × State :=
  let h := replHead bytes
  if !replHeadOk bytes then (stFormat, s)
  else match descOfKey s n h.tenant h.seq h.lg with
    | none => (stNotPermitted, s)
    | some (m, _) =>
      match desc? s m with
      | none => (stNotPermitted, s)
      | some d =>
        if d.repl.fetches.any fun f => f.1 == h.rseq && f.2.1 == h.stream && f.2.2.1 == h.idx then
          restorePage n m h (bytes.drop 64) s
        else (stNotPermitted, s)

/-- PAGE_FETCH_REPLY: the primary writes the page returned by the replica, or sets it LOST (R407). -/
def execPageFetchReply (cid mseq : Nat) (s : State) : Host.Outcome State Fault Refusal :=
  if !serving s then done s s
  else match inboxFind s cid mseq with
  | none => done s s
  | some (_, _, i, total) =>
    let (bytes, s1) := bufferRead i 0 total s
    if !isReply bytes then done s s
    else
      let (st, s2) := applyReply (bufOf s i).part bytes s1
      done s (answerInbox cid mseq st s2)

end Sys2Proof.Machine
end

