-- ==== Sys2Proof/Machine/Checkpoint.lean ====
section
/-!
DEFINITION. CHECKPOINT and RESTORE (R412 to R415): the image of a set of descriptors, its writing to a buffer, and its
reading back.
-/

namespace Sys2Proof.Machine

open Sys2Proof

/-! ### Writing an image (R413, R414) -/

/-- The descriptor as an image carries it: committed pages only, no replica flag, no speculative fields, chain pointers 0. -/
def imageDesc (d : Desc) : Desc :=
  { d with
    replica := false
    chrysalis := none
    specTag := 0
    specDeadline := 0
    exts := List.replicate (extCount d.streams.length) 0
    streams := d.streams.map fun st =>
      { st with
        plbs := [0]
        specEnd := 0
        entries := (st.entries.filter fun e => !(e.spec && e.ntok == 0)).map fun e => { e with swapped := false } } }

/-- A check word of Table 14.6: the CRC-32C, or 0 in a CONF image. -/
def imageCheck (conf : Bool) (bs : List Byte) : Nat := if conf then 0 else crc32c bs

/-- The page record of one page entry, and whether it is written as LOST. -/
def pageRecord (conf : Bool) (m i j : Nat) (s : State) : (List Byte × Bool) × State :=
  match pagePlain m i j s with
  | (bytes, s1) =>
    match desc? s1 m with
    | none => (([], false), s1)
    | some d =>
      match d.streams[i]?, (d.streams[i]?).bind (·.entries[j]?) with
      | some st, some e =>
        let ent := entryPlain e (serialOf s1 d e) e.ntok bytes.isNone
        let body := match bytes with
          | some b => pageImage s1 d st j e st.tokens e.ntok b
          | none => []
        ((ent ++ body ++ leBytes 16 (imageCheck conf (ent ++ body)), bytes.isNone), s1)
      | _, _ => (([], false), s1)

/-- The committed pages of a descriptor, by stream and in chain order. -/
def imagePages (d : Desc) : List (Nat × Nat) :=
  d.streams.zipIdx.flatMap fun x => (x.1.entries.zipIdx.filter fun y => !(y.1.spec && y.1.ntok == 0)).map fun y => (x.2, y.2)

/-- The page records of a list of pages, and how many are LOST. -/
def pageRecords (conf : Bool) (m : Nat) : List (Nat × Nat) → State → (List Byte × Nat) × State
  | [], s => (([], 0), s)
  | (i, j) :: rest, s =>
    match pageRecord conf m i j s with
    | ((bs, lost), s1) =>
      match pageRecords conf m rest s1 with
      | ((more, k), s2) => ((bs ++ more, k + bnat lost), s2)

/-- A descriptor section. -/
def imageSection (conf : Bool) (m : Nat) (s : State) : (List Byte × Nat) × State :=
  match desc? s m with
  | none => (([], 0), s)
  | some d =>
    let pages := imagePages d
    let mdbs := descMdbs (imageDesc d)
    let head := fun (check : Nat) => leBytes 8 d.seqId ++ leBytes 4 d.layerGroup ++ leBytes 4 (mdbs.length / 512) ++
      leBytes 8 pages.length ++ leBytes 8 s.tb.now ++ leBytes 4 check ++ zeroBytes 28
    let h := head (imageCheck conf (head 0 ++ mdbs))
    match pageRecords conf m pages s with
    | ((bs, k), s1) => ((h ++ mdbs ++ bs, k), s1)

/-- Every section of a list of descriptors. -/
def imageSections (conf : Bool) : List Nat → State → (List Byte × Nat) × State
  | [], s => (([], 0), s)
  | m :: ms, s =>
    match imageSection conf m s with
    | ((bs, k), s1) =>
      match imageSections conf ms s1 with
      | ((more, k2), s2) => ((bs ++ more, k + k2), s2)

/-- The slots and generations that pages of a list of descriptors use, each once. -/
def imageTables (s : State) (ms : List Nat) : List (Nat × Nat) :=
  (ms.flatMap fun m => match desc? s m with
    | some d => d.streams.flatMap fun st => st.entries.filterMap fun e => excOf s st e
    | none => []).dedup

/-- A table record of the image. -/
def tableEntry (s : State) (n : Nat) (x : Nat × Nat) : List Byte :=
  leBytes 1 x.1 ++ leBytes 31 x.2 ++ sliceBytes ((tableRec s n x.1 x.2).getD []) 0 32

/-- The header of an image. -/
def imageHead (conf coded : Bool) (tenant ndesc ntab source created len : Nat) (nonce : List Byte) (check : Nat) : List Byte :=
  leBytes 1 1 ++ leBytes 1 (bnat conf + 2 * bnat coded) ++ leBytes 2 tenant ++ leBytes 2 ndesc ++ leBytes 2 ntab ++
  leBytes 8 source ++ leBytes 8 created ++ leBytes 8 len ++ sliceBytes nonce 0 12 ++ leBytes 4 check ++ zeroBytes 80

/-- The key of a CONF image (R413): "vg-ckpt" and the nonce under the checkpoint secret. -/
def ckptKey (tenant : Nat) (secret : BitVec 256) (nonce : List Byte) : BitVec 256 :=
  let prk := hkdfExtract (leBytes 2 tenant) (leBytes 32 secret.toNat)
  BitVec.ofNat 256 (leNat (hkdfExpand32 prk (leBytes 7 0x74706B632D6776 ++ nonce)))

/-- The image of a list of descriptors, and how many pages are LOST in it. -/
def buildImage (n tenant : Nat) (secret : Option (BitVec 256)) (ms : List Nat) (s : State) : (List Byte × Nat) × State :=
  let conf := isConf s n
  let tabs := imageTables s ms
  match imageSections conf ms s with
  | ((secs, lost), s1) =>
    let body := tabs.flatMap (tableEntry s n) ++ secs
    let len := 128 + body.length + (if conf then 16 else 0)
    let head := imageHead conf (!tabs.isEmpty) tenant ms.length tabs.length (nodeId s) s.tb.now len
    match conf, secret with
    | true, some k =>
      let t := draw s1
      let nonce := leBytes 12 t.1.toNat
      let h := head nonce 0
      let key := ckptKey tenant k nonce
      let cipher := gcmCrypt key nonce body
      ((h ++ cipher ++ gcmTag key nonce h cipher, lost), t.2)
    | _, _ =>
      let h0 := head [] 0
      ((head [] (crc32c h0) ++ body, lost), s1)

/-! ### CHECKPOINT (R412, R414) -/

/-- A well-formed CHECKPOINT body (Table 14.5). -/
def ckptOk (b : List Byte) : Bool :=
  let n := fieldAt b 2 2
  decide (1 ≤ n) && decide (n ≤ 256) && b.length == 16 + 16 * n

def ckptKeys (b : List Byte) : List (Nat × Nat) :=
  (List.range (fieldAt b 2 2)).map fun j => (fieldAt b (16 + 16 * j) 5, fieldAt b (16 + 16 * j + 8) 1)

/-- The descriptors that a CHECKPOINT names, or the state in which it has ended. -/
def ckptSources (r : Req) (n : Nat) : List (Nat × Nat) → State → Except State (List Nat × State)
  | [], s => .ok ([], s)
  | (seq, lg) :: rest, s =>
    match nameSeq r 0x22 n seq lg s with
    | .ended s1 => .error s1
    | .found m _ s1 =>
      match ckptSources r n rest s1 with
      | .error s2 => .error s2
      | .ok (ms, s2) => .ok (m :: ms, s2)

/-- The response of a CHECKPOINT: NLOST and BYTES. -/
def ckptBody (lost len : Nat) : List Byte := leBytes 4 stOk ++ leBytes 4 lost ++ leBytes 8 len

/-- A page of the descriptor is being fetched from the replica (Table 14.4). -/
def fetchingPage (s : State) (m : Nat) : Bool :=
  match desc? s m with
  | some d => d.streams.any fun st => st.entries.any fun e => e.fetching
  | none => false

/-- CHECKPOINT of a request. -/
def runCheckpoint (r : Req) (s : State) : State :=
  match reqPart s r with
  | none => s
  | some n =>
    let b := r.body
    match gate s n r 0x22 ((ckptKeys b).map (·.1)) with
    | some (st, arg) => answer r 0x22 st arg s
    | none =>
      let secret := (part? s n).bind (·.ckptSecret)
      if !ckptOk b then answer r 0x22 stFormat 0 s
      else if isConf s n && secret.isNone then answer r 0x22 stNotPermitted 0 s
      else match ckptSources r n (ckptKeys b) s with
        | .error s1 => s1
        | .ok (ms, s1) =>
          match ms.find? (fetchingPage s1) with
          | some m => answerUnavailable r 0x22 m s1
          | none =>
            match buildImage n r.tenant secret ms s1 with
            | ((img, lost), s2) =>
              let target := fieldAt b 0 2 % 4096
              let index := fieldAt b 4 3
              let gen := fieldAt b 7 1
              let body := ckptBody lost img.length
              if isConf s n && decide (2 ^ 36 < img.length) then answer r 0x22 stNotPermitted 0 s2
              else if target = nodeId s then
                match bufferCheck s2 n 0x42 index gen img.length with
                | some _ => answer r 0x22 stNotPermitted 0 s2
                | none => respond r 0x22 stOk 0 body (bufferWrite index 0 img s2)
              else match connOrOpen n target s2 with
                | none => answer r 0x22 stNotPermitted 0 s2
                | some (cid, s3) => (sendRequest cid 0x42 (index + gen * 2 ^ 24) img (.checkpoint r body) s3).2

/-- The answer of the target ends a CHECKPOINT: OK, or NOT_PERMITTED where the buffer refused the message (R414). -/
def ckptOutcome (r : Req) (body : List Byte) (st : Nat) (s : State) : State :=
  if st = stOk then respond r 0x22 stOk 0 body s else answer r 0x22 stNotPermitted 0 s

/-! ### Reading an image (R415) -/

/-- A page record read: its entry, its bytes, and whether its check holds. -/
structure ImgPage where
  entry : PageEntry
  bytes : List Byte
  good : Bool
  deriving DecidableEq, Repr

/-- A descriptor section read. -/
structure ImgSection where
  desc : Desc
  pages : List ImgPage
  good : Bool
  deriving DecidableEq, Repr

/-- Reads `k` page records; none where the image ends inside one. -/
def readPages (conf : Bool) : Nat → List Byte → Option (List ImgPage × List Byte)
  | 0, bs => some ([], bs)
  | k + 1, bs =>
    let e := entryOf bs
    let n := 16 + (if e.lost then 0 else 65536)
    if bs.length < n + 16 ∨ !entryPageOk bs then none
    else
      let good := leNat ((bs.drop n).take 16) == imageCheck conf (bs.take n)
      match readPages conf k (bs.drop (n + 16)) with
      | none => none
      | some (ps, rest) => some (⟨e, (bs.drop 16).take (n - 16), good⟩ :: ps, rest)

/-- Gives each stream its page entries: PAGES of its stream entry counts them. -/
def dealPages : List (Stream × Nat) → List ImgPage → Option (List Stream)
  | [], ps => if ps.isEmpty then some [] else none
  | (st, k) :: rest, ps =>
    if ps.length < k then none
    else
      let mine := ps.take k
      let tail := match mine.getLast? with
        | some p => if fmtCoded st.fmt && !p.entry.lost then fieldAt p.bytes trailerOff 2 else 0
        | none => 0
      (dealPages rest (ps.drop k)).map fun sts => { st with entries := mine.map (·.entry), specEnd := tail } :: sts

/-- PAGES of each stream entry of a descriptor's MDBs. -/
def pageCounts (mdbs : List Byte) (n : Nat) : List Nat :=
  (List.range n).map fun i =>
    if i < 12 then fieldAt mdbs (128 + 32 * i + 12) 4 else fieldAt mdbs (512 + 512 * ((i - 12) / 15) + 32 + 32 * ((i - 12) % 15) + 12) 4

/-- Reads one section; none for a length or a reserved field that does not fit. -/
def readSection (conf : Bool) (bs : List Byte) : Option (ImgSection × List Byte) :=
  let nm := fieldAt bs 0xC 4
  let np := fieldAt bs 0x10 4
  let mdbs := (bs.drop 64).take (512 * nm)
  if bs.length < 64 + 512 * nm ∨ nm = 0 ∨ fieldAt bs 5 3 ≠ 0 ∨ fieldAt bs 9 3 ≠ 0 ∨ fieldAt bs 0x14 4 ≠ 0 ∨ fieldAt bs 0x24 28 ≠ 0 then none
  else
    let d := descOf mdbs
    if d.seqId ≠ fieldAt bs 0 5 ∨ d.layerGroup ≠ fieldAt bs 8 1 ∨ nm ≠ 1 + extCount d.streams.length then none
    else match readPages conf np (bs.drop (64 + 512 * nm)) with
      | none => none
      | some (ps, rest) =>
        match dealPages (d.streams.zip (pageCounts mdbs d.streams.length)) ps with
        | none => none
        | some sts =>
          let good := fieldAt bs 0x20 4 == imageCheck conf (zeroAt (bs.take (64 + 512 * nm)) 0x20 4)
          some (⟨{ d with streams := sts }, ps, good⟩, rest)

/-- Reads every section of an image. -/
def readSections (conf : Bool) : Nat → List Byte → Option (List ImgSection)
  | 0, bs => if bs.isEmpty then some [] else none
  | k + 1, bs =>
    match readSection conf bs with
    | none => none
    | some (x, rest) => (readSections conf k rest).map fun xs => x :: xs

/-- The table records of an image are those of the partition (R177). -/
def tablesOk (s : State) (n : Nat) : Nat → List Byte → Bool
  | 0, _ => true
  | k + 1, bs =>
    decide (fieldAt bs 0 1 < 16) && decide (fieldAt bs 1 1 < 4) && fieldAt bs 2 30 == 0 &&
      sameTable s n (fieldAt bs 0 1) (fieldAt bs 1 1) (sliceBytes bs 32 32) && tablesOk s n k (bs.drop 64)

/-- Header fields of an image that hold no reserved encoding, and LENGTH. -/
def imageHeadOk (img : List Byte) (len : Nat) : Bool :=
  fieldAt img 0 1 == 1 && decide (fieldAt img 1 1 < 4) && decide (fieldAt img 8 8 < 4096) && fieldAt img 0x18 8 == len &&
    decide (128 ≤ len) && fieldAt img 0x30 80 == 0

/-- The pages of a restored descriptor: allocated under R70 for every entry that is not LOST, and written. -/
def restorePages (n m i : Nat) : Nat → List ImgPage → State → Option State
  | _, [], s => some s
  | j, p :: ps, s =>
    if p.entry.lost then restorePages n m i (j + 1) ps s
    else match (desc? s m).bind fun d => (d.streams[i]?).map fun st => (d, st) with
      | none => none
      | some (d, st) =>
        match allocPage n (pageRotation s n m i j) (excOf s st p.entry) s with
        | none => none
        | some (pg, s1) =>
          let e := { p.entry with page := pg, keySlot := allocSlot s1 n }
          restorePages n m i (j + 1) ps (pageWrite n (locOf s1 d e) 0 p.bytes (updEntry m i j (fun _ => e) s1))

/-- The pages of every stream of a restored descriptor. -/
def restoreStreams (n m : Nat) : Nat → List Stream → List ImgPage → State → Option State
  | _, [], _, s => some s
  | i, st :: sts, ps, s =>
    match restorePages n m i 0 (ps.take st.entries.length) s with
    | none => none
    | some s1 => restoreStreams n m (i + 1) sts (ps.drop st.entries.length) s1

/-- Places every restored descriptor: its MDBs, key and pages. -/
def restoreAll (n arrival : Nat) : List ImgSection → State → Option (List Nat × State)
  | [], s => some ([], s)
  | x :: xs, s =>
    let d := { x.desc with part := n, conf := isConf s n, replica := false, lastUse := arrival }
    match putDesc n false d (countOp n s) with
    | none => none
    | some (m, s1) =>
      match restoreStreams n m 0 d.streams x.pages s1 with
      | none => none
      | some s2 => (restoreAll n arrival xs s2).map fun y => (m :: y.1, y.2)

/-- The descriptors `ms` of a RESTORE are in place: their placements are read and their number answered (R415). -/
def restored (r : Req) (n : Nat) (ms : List Nat) (s : State) : State :=
  let s1 := ms.foldl (fun s m => (readPlacement m false s).2.2) s
  noteFree n (pump (respond r 0x23 stOk 0 (leBytes 4 stOk ++ leBytes 4 ms.length) s1))

/-- The body of an image, in the clear (R413). -/
def imageBody (s : State) (n len : Nat) (img : List Byte) : List Byte :=
  if bitOf (fieldAt img 1 1) 0 then
    gcmCrypt (ckptKey (fieldAt img 2 2) (((part? s n).bind (·.ckptSecret)).getD 0) (sliceBytes img 0x20 12))
      (sliceBytes img 0x20 12) ((img.take (len - 16)).drop 128)
  else img.drop 128

/-- The seal of an image holds: its GCM tag for a CONF image, else the CRC of its header (R413). -/
def imageSealed (s : State) (n len : Nat) (img : List Byte) : Bool :=
  let secret := (part? s n).bind (·.ckptSecret)
  if bitOf (fieldAt img 1 1) 0 then
    secret.isSome && gcmTag (ckptKey (fieldAt img 2 2) (secret.getD 0) (sliceBytes img 0x20 12)) (sliceBytes img 0x20 12)
      (img.take 128) ((img.take (len - 16)).drop 128) == img.drop (len - 16)
  else crc32cAt (img.take 128) 0x2C == fieldAt img 0x2C 4

/-- RESTORE of an image that was read (R415). -/
def restoreImage (r : Req) (n len : Nat) (img : List Byte) (s : State) : State :=
  let conf := bitOf (fieldAt img 1 1) 0
  let tenant := fieldAt img 2 2
  let ntab := fieldAt img 6 2
  if !imageHeadOk img len then answer r 0x23 stFormat 0 s
  else if conf && !isConf s n then answer r 0x23 stNotPermitted 0 s
  else
    let body := imageBody s n len img
    let sealed := imageSealed s n len img
    if conf && !sealed then answer r 0x23 (if tenant = r.tenant then stDataLost else stNotPermitted) 0 s
    else if body.length < 64 * ntab || !tablesOk s n ntab body then answer r 0x23 stFormat 0 s
    else match readSections conf (fieldAt img 4 2) (body.drop (64 * ntab)) with
      | none => answer r 0x23 stFormat 0 s
      | some xs =>
        if tenant ≠ r.tenant ∨ conf ≠ isConf s n ∨ xs.any (fun x => x.desc.tenant ≠ r.tenant) then answer r 0x23 stNotPermitted 0 s
        else if xs.any fun x => keyExists s n (seqKey r.tenant x.desc.seqId x.desc.layerGroup) then
          answer r 0x23 stNotPermitted 0 s
        else if dirFree s n < xs.length then answer r 0x23 stDirectoryFull 0 s
        else match restoreAll n r.arrival xs s with
          | none => answer r 0x23 stPoolFull 0 s
          | some (ms, s1) =>
            if !sealed || xs.any (fun x => !x.good || x.pages.any fun p => !p.good) then answer r 0x23 stDataLost 0 s
            else restored r n ms s1

/-- RESTORE of a request; `remote` is what RMA_READ of another node's buffer gave. -/
def runRestore (r : Req) (remote : List Byte) (s : State) : State :=
  match reqPart s r with
  | none => s
  | some n =>
    let b := r.body
    match gate s n r 0x23 [] with
    | some (st, arg) => answer r 0x23 st arg s
    | none =>
      let source := fieldAt b 0 2 % 4096
      let index := fieldAt b 4 3
      let gen := fieldAt b 7 1
      let len := fieldAt b 8 5
      if b.length ≠ 16 then answer r 0x23 stFormat 0 s
      else if source = nodeId s then
        match bufferCheck s n 0x41 index gen len with
        | some _ => answer r 0x23 stNotPermitted 0 s
        | none =>
          let t := bufferRead index 0 len s
          restoreImage r n len t.1 t.2
      else restoreImage r n len (sliceBytes remote 0 len) s

end Sys2Proof.Machine
end

