-- ==== Sys2Proof/Machine/Receive.lean ====
section
/-!
DEFINITION. Packets as they arrive: the whole of Table 9.5 for one packet (R274), connection messages (R278, R282), answers
to the node's own messages (R291, R299), and packets that waited for a connection record (R284).
-/

namespace Sys2Proof.Machine

open Sys2Proof

/-! ### The end of the node's own messages (R291) -/

/-- An answer, or a failure, reaches the operation that sent a message; 0xFF stands for a message that was abandoned. -/
def messageOutcome (peer n : Nat) (m : TxMsg) (st arg : Nat) (s : State) : State :=
  match m.why with
  | .replication id => replOutcome id st arg s
  | .pageReply index =>
    if st = stStaleBuffer then
      let s1 := { s with fab := { s.fab with peerGens := mset s.fab.peerGens (1048576 * peer + index) (arg % 256) } }
      match connOrOpen n peer s1 with
      | none => s1
      | some (cid, s2) => (sendRequest cid 0x42 (index + arg % 256 * 2 ^ 24) m.body (.pageReply index) s2).2
    else s
  | .checkpoint r body => ckptOutcome r body st s
  | .opening => s
  | .closing => s

/-- Every message of a connection that is gone has failed. -/
def failMessages (c : Conn) (s : State) : State := c.tx.foldl (fun s m => messageOutcome c.peer c.part m 0xFF 0 s) s

/-- A connection is freed with everything it still had open (R282, R364, R366, R386, R423). -/
def dropConn (cid : Nat) (s : State) : State :=
  match conn? s cid with
  | none => s
  | some c => failMessages c (freeConn cid s)

/-- A connection whose opening failed: it never was open, so its ID is not quarantined. -/
def dropOpening (cid : Nat) (s : State) : State :=
  match conn? s cid with
  | none => s
  | some c => failMessages c { s with fab := { s.fab with conns := mdel s.fab.conns cid } }

/-! ### CONN_ACCEPT, CONN_CLOSE, CONN_CLOSED (R278, R282) -/

/-- The messages of a connection just accepted under 1.3 that concern coded streams are answered FORMAT_UNSUPPORTED (Table 9.2). -/
def refuseCoded (cid : Nat) (s : State) : State :=
  match conn? s cid with
  | none => s
  | some c =>
    let coded : TxMsg → Bool := fun m => match m.why with
      | .replication id => match s.fab.repl.find? (fun x => x.id == id) with | some x => codedMsg s x | none => false
      | _ => false
    if !lacksCoded c then s
    else
      (c.tx.filter coded).foldl (fun s m => messageOutcome c.peer c.part m stFormat 0 s)
        (setConn cid { c with tx := c.tx.filter fun m => !coded m } s)

/-- The node as opener takes the acceptor's answer (Table 9.8). -/
def takeAccept (cid : Nat) (body : List Byte) (s : State) : State :=
  match conn? s cid with
  | none => s
  | some c =>
    if body.length ≠ 16 ∨ !c.opening then s
    else if fieldAt body 0 1 ≠ stOk then dropOpening cid s
    else
      let v := fieldAt body 1 1
      let start := fieldAt body 8 4
      let master := if c.protect then (part? s c.part).bind (·.connSecret) else none
      flushTx cid (refuseCoded cid <| setConn cid
        { c with
          opening := false
          peerConn := fieldAt body 4 3
          verMajor := v / 16
          verMinor := v % 16
          openerStart := start
          base := start
          master := master
          tx := c.tx.filter fun m => decide (m.why ≠ .opening)
          used := s.tb.now } s)

/-- The other end closes: open messages are discarded, CONN_CLOSED leaves by the port of arrival, the state is freed. -/
def takeClose (cid port : Nat) (s : State) : State :=
  match conn? s cid with
  | none => s
  | some c =>
    dropConn cid (sendControl port c.peer c.peerConn c.tenant 0xE3 (c.verMajor, c.verMinor) (statusBody stOk) (some c.part)
      (some cid) (txKey s cid c 0xE3 0) s)

/-- The other end has freed a connection that this node closed. -/
def takeClosed (cid : Nat) (s : State) : State :=
  match conn? s cid with
  | none => s
  | some c => if c.closing then dropConn cid s else s

/-- A repeated CONN_CLOSE for an ID in quarantine from the same peer and tenant (R282). -/
def quarantined (s : State) (h : NativeHdr) : Option Quarantine :=
  if h.typ ≠ 0xE2 ∨ (conn? s h.conn).isSome then none
  else s.fab.quarantine.find? fun q =>
    q.conn == h.conn && q.peer == h.src && q.tenant == h.tenant && decide (s.tb.now < q.until_)

/-! ### Responses (R299) -/

/-- A response with a ROUTE that the connection's version lacks (Table 9.2). -/
def lackedByVersion (c : Conn) (h : NativeHdr) : Bool :=
  (c.verMajor < 2 || (c.verMajor == 2 && c.verMinor == 0)) && h.route != 0

/-- A packet of a response or of a closing message whose VER is not its connection's (check 8 of Table 9.5). -/
def wrongVersion (s : State) (h : NativeHdr) : Option Conn :=
  (conn? s h.conn).filter fun c => h.verMajor != c.verMajor || h.verMinor != c.verMinor

/-- A response to a message of the node: matched by CONN and MSEQ, its status reported to the operation that sent it. -/
def takeResponse (h : NativeHdr) (body : List Byte) (s : State) : State :=
  match conn? s h.conn with
  | none => s
  | some c =>
    if (wrongVersion s h).isSome ∨ lackedByVersion c h then dropUnknown c.home s
    else match c.tx.find? (fun m => m.mseq == h.mseq && responseType m.typ == h.typ && m.sent) with
      | none => s
      | some m =>
        if !h.final ∨ h.offset ≠ body.length then s
        else messageOutcome c.peer c.part m (fieldAt body 0 1) (argOf c h.word) (dropTx h.conn h.mseq s)

/-! ### One packet -/

/-- A packet that passed checks 1 to 7: connection messages, responses, and requests with checks 8 to 12. -/
def deliver (port at_ : Nat) (h : NativeHdr) (body : List Byte) (s : State) : State :=
  if h.typ = 0xE1 then takeAccept h.conn body s
  else if h.typ = 0xE2 ∨ h.typ = 0xE3 then
    match wrongVersion s h with
    | some c => dropUnknown c.home s
    | none => if h.typ = 0xE2 then takeClose h.conn port s else takeClosed h.conn s
  else if 128 ≤ h.typ then takeResponse h body s
  else takeRequestPacket port at_ h body s

/-- Check 7 of a repeated CONN_CLOSE: its tag under the key of the connection that was protected. -/
def closeAuthentic (q : Quarantine) (p : Packet) : Bool :=
  match q.keys with
  | some (k, _) => p.tag == gcmTag k (gcmNonce p.hdr) (headerBytes0 p.hdr) p.payload
  | none => true

/-- A packet from check 6 on. -/
def fromCheckSix (port at_ : Nat) (p : Packet) (s : State) : State :=
  let h := p.hdr
  if h.typ = 0xE0 then takeOpen port h p.payload s
  else match quarantined s h with
    | some q =>
      if closeAuthentic q p then
        sendControl port q.peer q.peerConn q.tenant 0xE3 (q.verMajor, q.verMinor) (statusBody stOk) (some q.part) none
          (q.keys.map (·.2)) s
      else dropAuth (port / 2) s
    | none =>
      match connChecks port at_ p s with
      | .stop s1 => s1
      | .pass body s1 => deliver port at_ h body s1

/-- The reception of one packet (R274). -/
def receive (port at_ : Nat) (p : Packet) (s : State) : State :=
  match frontChecks port at_ p s with
  | (false, s1) => s1
  | (true, s1) => fromCheckSix port at_ p s1

/-- A port that can deliver a packet: one of the eight, not off (Table 9.1). -/
def portOn (s : State) (port : Nat) : Bool := decide (port < 8) && portMode s port != 3

/-- A packet of some types arrives; it is received as any other packet is. -/
def receiveOnly (ok : Nat → Bool) (port at_ : Nat) (p : Packet) (s : State) : State :=
  if serving s && portOn s port && ok p.hdr.typ then receive port at_ p s else s

/-- PACKET_RECEIVE: a packet of any type (R274). -/
def execPacketReceive (port at_ : Nat) (pkt : Packet) (s : State) : Host.Outcome State Fault Refusal :=
  done s (receiveOnly (fun _ => true) port at_ pkt s)

/-- CONN_OPEN: the node as acceptor (R279). -/
def execConnOpen (port at_ : Nat) (pkt : Packet) (s : State) : Host.Outcome State Fault Refusal :=
  done s (receiveOnly (· == 0xE0) port at_ pkt s)

/-- CONN_ACCEPT: the node as opener (R278). -/
def execConnAccept (port at_ : Nat) (pkt : Packet) (s : State) : Host.Outcome State Fault Refusal :=
  done s (receiveOnly (· == 0xE1) port at_ pkt s)

/-- CONN_CLOSE (R282). -/
def execConnClose (port at_ : Nat) (pkt : Packet) (s : State) : Host.Outcome State Fault Refusal :=
  done s (receiveOnly (· == 0xE2) port at_ pkt s)

/-- CONN_CLOSED (R282). -/
def execConnClosed (port at_ : Nat) (pkt : Packet) (s : State) : Host.Outcome State Fault Refusal :=
  done s (receiveOnly (· == 0xE3) port at_ pkt s)

/-- RMA_WRITE: a packet of TYPE 0x40 (R287). -/
def execRmaWrite (port at_ : Nat) (pkt : Packet) (s : State) : Host.Outcome State Fault Refusal :=
  done s (receiveOnly (· == 0x40) port at_ pkt s)

/-- RMA_WRITE_FINAL: a packet of TYPE 0x42 (R286, R294, R295). -/
def execRmaWriteFinal (port at_ : Nat) (pkt : Packet) (s : State) : Host.Outcome State Fault Refusal :=
  done s (receiveOnly (· == 0x42) port at_ pkt s)

/-- RESPONSE_RECEIVE: a response that has passed checks 1 to 7 of Table 9.5, its payload plain (R299). -/
def execResponseReceive (pkt : Packet) (s : State) : Host.Outcome State Fault Refusal :=
  let h := pkt.hdr
  done s (if serving s && decide (128 ≤ h.typ) && decide (h.typ < 0xE0) then takeResponse h pkt.payload s else s)

/-! ### Records fetched, messages abandoned -/

/-- The host-tier record of a connection fails its tag: the connection closes without CONN_CLOSED (R364). -/
def spillFailed (cid : Nat) (c : Conn) (s : State) : State :=
  let s1 := hostCountRead 256 { s with host := { s.host with checkFail := min 255 (s.host.checkFail + 1) } }
  dropConn cid (logEvent 0x0701 srcCt (some c.part) 0 [cid] s1)

/-- The packets of a die that wait for one connection go on from check 6, in their order. -/
def resumePackets (die cid : Nat) (s : State) : State :=
  let q := (netDie s die).missQueue
  let s1 := updNetDie die (fun d => { d with missQueue := q.filter fun x => x.2.2.hdr.conn != cid }) s
  (q.filter fun x => x.2.2.hdr.conn == cid).foldl (fun s x => fromCheckSix x.1 x.2.1 x.2.2 s) s1

/-- The fetch of one waiting packet's record: the connection, and the state with its record on chip. -/
def tryFetch (good : Bool) (s : State) (cid : Nat) : Option (Nat × State) :=
  match conn? s cid with
  | none => some (cid, s)
  | some c =>
    if c.tier = .host ∧ !good then some (cid, spillFailed cid c s)
    else (fetchRecord cid s).map fun t => (cid, t)

/-- CONN_RECORD_FETCH: a record comes on chip and the packets that wait for it resume; `good` tells whether the tag of a
host-tier record holds (R284, R364). -/
def execConnRecordFetch (die : Nat) (good : Bool) (s : State) : Host.Outcome State Fault Refusal :=
  if !serving s then done s s
  else match firstSome (tryFetch good s) (((netDie s die).missQueue.map fun x => x.2.2.hdr.conn).dedup) with
    | none => done s s
    | some (cid, s1) => done s (resumePackets die cid s1)

/-- MESSAGE_ABANDON: a message unanswered PLT after its first transmission (R288, R291). -/
def execMessageAbandon (cid mseq : Nat) (s : State) : Host.Outcome State Fault Refusal :=
  if !serving s then done s s
  else match conn? s cid with
  | none => done s s
  | some c =>
    match c.tx.find? (fun m => m.mseq == mseq) with
    | none => done s s
    | some m =>
      if !m.sent ∨ notYetSent s cid mseq ∨ (s.tb.now + 2 ^ 32 - m.ingressTs) % 2 ^ 32 < pltNs s then done s s
      else if m.why = .opening then done s (dropOpening cid s)
      else if m.why = .closing then done s (dropConn cid s)
      else done s (messageOutcome c.peer c.part m 0xFF 0 (dropTx cid mseq s))

end Sys2Proof.Machine
end

