-- ==== Sys2Proof/Machine/Intake.lean ====
section
/-!
DEFINITION. A request run by its opcode (Table 4.1), wherever it came from: its intake under the quotas of the directory (R97),
the rows of Table 4.1, and the requests that a finished swap-in lets proceed (R297).
-/

namespace Sys2Proof.Machine

open Sys2Proof

/-- The request of opcode `op` (Table 4.1); `remote` is what a RESTORE read from another node's buffer. -/
def runRequest (op : Nat) (r : Req) (remote : List Byte) (s : State) : State :=
  if op = 0x01 then runAtt 1 false none r s
  else if op = 0x02 then runAtt 2 false none r s
  else if op = 0x03 then afterWork (runAtt 3 false none r s)
  else if op = 0x04 then runKvAppend false r s
  else if op = 0x05 then runKvAppendSpec false r s
  else if op = 0x06 then runSpecCommit false r s
  else if op = 0x07 then runSpecAbort false r s
  else if op = 0x10 then runSeqOpen r s
  else if op = 0x11 then settleAllUnloads (runSeqClose r s)
  else if op = 0x12 then runSeqClone r s
  else if op = 0x13 then runPrefixLookup r s
  else if op = 0x20 then runSwapOut r s
  else if op = 0x21 then runSwapIn r s
  else if op = 0x22 then runCheckpoint r s
  else if op = 0x23 then runRestore r remote s
  else if op = 0x30 then runMerge r s
  else s

/-- The opcodes of Table 4.1. -/
def requestOp (op : Nat) : Bool :=
  (decide (1 ≤ op) && decide (op ≤ 7)) || (decide (0x10 ≤ op) && decide (op ≤ 0x13)) ||
    (decide (0x20 ≤ op) && decide (op ≤ 0x23)) || op == 0x30

/-! ### The directory operations of a request (R91, R97) -/

/-- The request's bytes hold no reserved encoding, so it reaches its search. -/
def reachesSearch (s : State) (n op : Nat) (r : Req) : Bool :=
  let b := r.body
  if op = 1 ∨ op = 2 ∨ op = 3 then (hookOf s n op (attBlock b)).isSome && attBytesOk op r
  else if op = 4 then appendBytesOk false b
  else if op = 5 then appendBytesOk true b
  else if op = 6 then specBytesOk b 16
  else if op = 7 then specBytesOk b abortTop && fieldAt b 0xA 2 == 0
  else if op = 0x10 then openBytesOk s n b
  else if op = 0x11 then (closeGroups b).isSome
  else if op = 0x12 then (cloneGroups b).isSome
  else if op = 0x13 then lookupBytesOk b
  else if op = 0x20 then swapBodyOk b true
  else if op = 0x21 then swapBodyOk b false
  else if op = 0x22 then ckptOk b
  else false

/-- Directory operations of a request on die `d` (Table 3.6): a search or an insert runs on each die that the partition owns
segments on (R85), a delete on the die of its entry; none where the request is answered before its search. The inserts of a
RESTORE are counted as they are made. -/
def dirNeed (s : State) (n op d : Nat) (r : Req) : Nat :=
  let b := r.body
  if !onDie s n d || (gate s n r op (namedSeqs op b)).isSome || !reachesSearch s n op r then 0
  else if op = 0x10 then fieldAt b 8 1
  else if op = 0x11 then
    let keys := ((closeGroups b).getD []).map fun g => seqKey r.tenant (fieldAt b 0 5) g
    let hits := keys.filter fun k => match dirSearch s n k with | some x => x.1 / 2097152 == d | none => false
    if keys.all fun k => keyExists s n k then keys.length + hits.length else keys.length
  else if op = 0x12 then 2 * ((cloneGroups b).getD []).length
  else if op = 0x13 then
    match (dirSearch s n (seqKey r.tenant (fieldAt b 0 5) (fieldAt b 8 1))).bind fun x => desc? s (dataMdb x.2.data.toNat) with
    | some x => if fieldAt b 0xA 2 < x.streams.length then 1 + fieldAt b 0xC 2 else 1
    | none => 1
  else if op = 0x22 then fieldAt b 2 2
  else 1

/-- Operations of a partition that wait on a die. -/
def opsWaiting (s : State) (n d : Nat) : Nat :=
  ((s.dir.waitReqs.filter fun w => w.part == n).map fun w => if d = 0 then w.left0 else w.left1).sum +
    (dirDie s d).wait.countP (fun q => q.part == n) + mget 0 (dirDie s d).owed n

/-- The waiting request of a partition that is admitted next: LC before BE, each in queue order (R97); one whose connection is
gone is passed over. -/
def nextWaiting (s : State) (n : Nat) : Option DirWait :=
  let mine := s.dir.waitReqs.filter fun w => w.part == n && reqPart s w.req == some n
  match mine.find? fun w => w.req.lc with
  | some w => some w
  | none => mine.head?

/-- The window's admissions that a waiting request takes; `true` once it has them all: its operations then follow those that
the queues hold (R87). -/
def takeOps (w : DirWait) (s : State) : Bool × State :=
  let a := min w.left0 (quotaLeft s w.part 0)
  let b := min w.left1 (quotaLeft s w.part 1)
  let w1 := { w with left0 := w.left0 - a, left1 := w.left1 - b }
  let s1 := useQuota w.part 1 b (useQuota w.part 0 a s)
  let all := w1.left0 == 0 && w1.left1 == 0
  let rest := s1.dir.waitReqs.filterMap fun x =>
    if x.req.origin = w.req.origin then (if all then none else some w1) else some x
  let s2 := { s1 with dir := { s1.dir with waitReqs := rest } }
  (all, if all then drainDir s2 else s2)

/-- A request that waits in a partition's queue goes on once it is the next one and has all its admissions. -/
def admitNext (n : Nat) (r : Req) (s : State) : Bool × State :=
  match nextWaiting s n with
  | some w => if w.req.origin = r.origin then takeOps w s else (false, s)
  | none => (false, s)

/-- The intake of a request (R97): `true` where it may run now. One beyond the quota waits for a later window; one beyond the
4,096 operations of a partition's queue is not taken yet. -/
def intake (n op : Nat) (r : Req) (s : State) : Bool × State :=
  if s.dir.waitReqs.any fun w => decide (w.req.origin = r.origin) then admitNext n r s
  else
    let w : DirWait := ⟨r, op, n, dirNeed s n op 0 r, dirNeed s n op 1 r⟩
    if w.left0 = 0 ∧ w.left1 = 0 then (true, takeRequest r s)
    else if 4096 < opsWaiting s n 0 + w.left0 ∨ 4096 < opsWaiting s n 1 + w.left1 then (false, s)
    else
      let s1 := takeRequest r s
      admitNext n r { s1 with dir := { s1.dir with waitReqs := s1.dir.waitReqs ++ [w] } }

/-- A request row: the request's intake, then its work. -/
def requestRow (op : Nat) (r : Req) (remote : List Byte) (s : State) : State :=
  if !serving s then s
  else match reqPart s r with
  | none => runRequest op r remote (takeRequest r s)
  | some n =>
    match intake n op r s with
    | (true, s1) => runRequest op r remote s1
    | (false, s1) => s1

/-! ### The rows of Table 4.1 -/

/-- ATT_DECODE. -/
def execAttDecode (r : Req) (s : State) : Host.Outcome State Fault Refusal := done s (requestRow 1 r [] s)

/-- ATT_PREFILL. -/
def execAttPrefill (r : Req) (s : State) : Host.Outcome State Fault Refusal := done s (requestRow 2 r [] s)

/-- ATT_BACKWARD. -/
def execAttBackward (r : Req) (s : State) : Host.Outcome State Fault Refusal := done s (requestRow 3 r [] s)

/-- KV_APPEND. -/
def execKvAppend (r : Req) (s : State) : Host.Outcome State Fault Refusal := done s (requestRow 4 r [] s)

/-- KV_APPEND_SPEC. -/
def execKvAppendSpec (r : Req) (s : State) : Host.Outcome State Fault Refusal := done s (requestRow 5 r [] s)

/-- SPEC_COMMIT. -/
def execSpecCommit (r : Req) (s : State) : Host.Outcome State Fault Refusal := done s (requestRow 6 r [] s)

/-- SPEC_ABORT. -/
def execSpecAbort (r : Req) (s : State) : Host.Outcome State Fault Refusal := done s (requestRow 7 r [] s)

/-- SEQ_OPEN. -/
def execSeqOpen (r : Req) (s : State) : Host.Outcome State Fault Refusal := done s (requestRow 0x10 r [] s)

/-- SEQ_CLOSE. -/
def execSeqClose (r : Req) (s : State) : Host.Outcome State Fault Refusal := done s (requestRow 0x11 r [] s)

/-- SEQ_CLONE. -/
def execSeqClone (r : Req) (s : State) : Host.Outcome State Fault Refusal := done s (requestRow 0x12 r [] s)

/-- PREFIX_LOOKUP. -/
def execPrefixLookup (r : Req) (s : State) : Host.Outcome State Fault Refusal := done s (requestRow 0x13 r [] s)

/-- SWAP_OUT. -/
def execSwapOut (r : Req) (s : State) : Host.Outcome State Fault Refusal := done s (requestRow 0x20 r [] s)

/-- SWAP_IN. -/
def execSwapIn (r : Req) (s : State) : Host.Outcome State Fault Refusal := done s (requestRow 0x21 r [] s)

/-- CHECKPOINT. -/
def execCheckpoint (r : Req) (s : State) : Host.Outcome State Fault Refusal := done s (requestRow 0x22 r [] s)

/-- RESTORE; `remote` is the image as RMA_READ brought it from another node. -/
def execRestore (r : Req) (remote : List Byte) (s : State) : Host.Outcome State Fault Refusal := done s (requestRow 0x23 r remote s)

/-- MERGE. -/
def execMerge (r : Req) (s : State) : Host.Outcome State Fault Refusal := done s (requestRow 0x30 r [] s)

/-! ### Swap-ins that end -/

/-- A stalled request whose data is resident proceeds with what it has seen (R50); where its window has ended first, it is
answered NOT_RESIDENT_RETRY (R297). -/
def unstall (x : Stalled) (s : State) : State :=
  if x.req.arrival + 50000 ≤ s.tb.now then answerRetry x.req x.op s
  else if x.op = 1 ∨ x.op = 2 then runAtt x.op true x.seen x.req s
  else if x.op = 3 then afterWork (runAtt 3 true x.seen x.req s)
  else runRequest x.op x.req [] s

/-- STALL_TIMEOUT: a stalled request whose window has ended is answered NOT_RESIDENT_RETRY (R297). -/
def execStallTimeout (cid mseq : Nat) (s : State) : Host.Outcome State Fault Refusal :=
  if !serving s then done s s
  else
    let here := fun (x : Stalled) => match x.req.origin with | .fabric c q _ => c == cid && q == mseq | _ => false
    match s.fab.stalled.find? here with
    | none => done s s
    | some x =>
      if x.req.arrival + 50000 ≤ s.tb.now then
        done s (settleAllUnloads (answerRetry x.req x.op
          { s with fab := { s.fab with stalled := s.fab.stalled.filter fun y => !here y } }))
      else done s s

/-- DEMAND_SWAP_IN_DONE: the swap-in of a descriptor's missing pages, or its restore, is complete, and the requests that
waited for it proceed in their order. -/
def execDemandSwapInDone (m : Nat) (s : State) : Host.Outcome State Fault Refusal :=
  if !serving s then done s s
  else if !(s.fab.demand.any fun x => x.mdb == m) then done s s
  else
    let s1 := finishDemands m s
    let mine := s1.fab.stalled.filter fun x => x.mdb == m
    done s (settleAllUnloads (mine.foldl (fun s x => unstall x s)
      { s1 with fab := { s1.fab with stalled := s1.fab.stalled.filter fun x => x.mdb != m } }))

end Sys2Proof.Machine
end

