-- ==== Sys2Proof/Machine/Rings.lean ====
section
/-!
DEFINITION. Command rings (R346 to R354): the version selection, ring pairs and their doorbells, the fetch of submission
entries with their checks, and the commands of ring scope (Table 12.7).
-/

namespace Sys2Proof.Machine

open Sys2Proof

/-! ### The version of the command interface (R346) -/

/-- SELECT of version 1.2 and of version 2.0. -/
def select12 : Nat := 0x12
def select20 : Nat := 0x20

/-- SELECT names a version that the node offers. -/
def versionOffered (select : Nat) : Bool := select == select12 || select == select20

/-- DVSEC_SELECT: SELECT holds the value written, and SELECT_ERR says that the node does not offer it (R346, Table 12.2). Versions
stand in it with the major number in [23:20] and the minor in [19:16] of the register. -/
def execDvsecSelect (value : Nat) (s : State) : Host.Outcome State Fault Refusal :=
  if !s.boot.powered || s.boot.recovery || !s.host.up then done s s
  else done s { s with host := { s.host with select := value % 65536, selectErr := !versionOffered (value % 65536) } }

/-! ### Ring descriptors (Table 12.4) -/

/-- The address of ring descriptor `r` in the control page of partition `n`. -/
def descAddr (s : State) (n r : Nat) : Option Nat := (mfind s.host.ctlPages n).map fun p => pageAddr p + 64 * r

/-- The node's fields of a ring descriptor: RSTATE, ERR_STATUS and SQ_HEAD. -/
def writeRingState (n r : Nat) (s : State) : State :=
  match descAddr s n r with
  | none => s
  | some a =>
    let x := ring s n r
    hbmWrite (a + 8) (leBytes 1 (bnat x.enabled + 2 * bnat x.error) ++ leBytes 1 x.errStatus ++ leBytes 2 x.sqHead) s

/-- A pair goes into error: it fetches no more (R349). -/
def ringError (n r st : Nat) (s : State) : State :=
  writeRingState n r (updRing n r (fun x => { x with error := true, errStatus := st }) s)

/-- Pages of rings of 2^sq submission and 2^cq completion entries. -/
def sqPageCount (sq : Nat) : Nat := ceilDiv' (2 ^ sq * 64) pageSize
def cqPageCount (cq : Nat) : Nat := ceilDiv' (2 ^ cq * 32) pageSize

def zeroPages (ps : List Nat) (s : State) : State := ps.foldl (fun s p => hbmZero (pageAddr p) pageSize s) s

/-- The tail that a doorbell writes. -/
def setTail (n r tail : Nat) (s : State) : State :=
  if 2 ^ (ring s n r).sqLog ≤ tail then ringError n r stFormat s else updRing n r (fun x => { x with tail := tail }) s

/-- Enabling a pair from its descriptor: ranges, pages, zeros, and the tail. -/
def enableRing (n r tail : Nat) (d : List Byte) (s : State) : State :=
  let sq := fieldAt d 1 1
  let cq := fieldAt d 2 1
  if sq < 6 ∨ 16 < sq ∨ cq < 6 ∨ 16 < cq then ringError n r stFormat s
  else match allocPages n (sqPageCount sq + cqPageCount cq) 0 s with
    | none => ringError n r stPoolFull s
    | some (ps, s1) =>
      let x : Ring := { enabled := true, sqLog := sq, cqLog := cq, sqPages := ps.take (sqPageCount sq),
                        cqPages := ps.drop (sqPageCount sq), done := (ring s n r).done, nextIdx := (ring s n r).nextIdx,
                        msix := fieldAt d 4 2 }
      noteFree n (writeRingState n r (setTail n r tail (setRing n r x (zeroPages ps s1))))

/-- A teardown of the partition is under way: it takes no doorbell and no new request (R386). -/
def tearingDown (s : State) (n : Nat) : Bool := match part? s n with | some p => p.state == .teardown | none => false

/-- A doorbell of the submission ring: the node acts on the descriptor of the pair (R349); doorbells are ignored in viral
(R366). -/
def sqDoorbell (n r tail : Nat) (s : State) : State :=
  if !serving s || s.host.viral || 8 ≤ r || tearingDown s n then s
  else match descAddr s n r with
  | none => s
  | some a =>
    let d := hbmRead s a 64
    let x := ring s n r
    let on := bitOf (fieldAt d 0 1) 0
    if x.draining then s
    else if on && !x.enabled then
      if !versionOffered s.host.select then s else enableRing n r tail d s
    else if on then setTail n r tail s
    else if x.enabled then setRing n r { x with draining := true } s
    else s

/-- SQ_DOORBELL: a write of FWMB_SQDB. -/
def execSqDoorbell (n r tail : Nat) (s : State) : Host.Outcome State Fault Refusal := done s (sqDoorbell n r tail s)

/-- The consumed count of a completion ring after a doorbell with `head`, inside the ring: it never passes what was written. -/
def cqHeadAfter (x : Ring) (head : Nat) : Nat :=
  let size := 2 ^ x.cqLog
  let d := (head + size - x.cqHead % size) % size
  min x.cqTail (x.cqHead + (if d = 0 ∧ x.cqTail - x.cqHead = size then size else d))

/-- A doorbell of the completion ring: entries up to HEAD are consumed (log 21), and RMA completions that waited enter
(R352); it has no effect while the pair drains (R349). -/
def cqDoorbell (n r head : Nat) (s : State) : State :=
  if !serving s || s.host.viral || 8 ≤ r || tearingDown s n then s
  else
    let x := ring s n r
    if !x.enabled || x.draining then s
    else if 2 ^ x.cqLog ≤ head then ringError n r stFormat s
    else flushRma n r x.rmaDue (setRing n r { x with cqHead := cqHeadAfter x head } s)

/-- CQ_DOORBELL: a write of FWMB_CQDB. -/
def execCqDoorbell (n r head : Nat) (s : State) : Host.Outcome State Fault Refusal := done s (cqDoorbell n r head s)

/-- RING_DRAIN_DONE: the fetched commands of a disabled pair are complete: ENABLED clears and the ring pages go (R349). RMA
completions that found no slot are counted as those of a pair that is not enabled. -/
def execRingDrainDone (n r : Nat) (s : State) : Host.Outcome State Fault Refusal :=
  if !serving s then done s s
  else
    let x := ring s n r
    if !x.draining ∨ x.fetched ≠ [] then done s s
    else
      let s1 := setRing n r { done := x.done, nextIdx := x.nextIdx } s
      let s2 := { s1 with host := { s1.host with rmaNoCq := min 255 (s1.host.rmaNoCq + x.rmaDue.length) } }
      done s (releasePages (x.sqPages ++ x.cqPages) (writeRingState n r s2))

/-! ### The fetch of an entry (R350, R352 to R354) -/

def codeRequest : Nat := 0x10

/-- A submission entry as the ring holds it (Table 12.5). -/
def entryFields (idx ts : Nat) (b : List Byte) (input : Option (List Byte)) : Fetched :=
  { idx := idx, code := fieldAt b 0 2, fence := bitOf (fieldAt b 2 1) 0, intr := bitOf (fieldAt b 2 1) 1,
    cmdId := fieldAt b 4 4, addr := fieldAt b 8 8, len := fieldAt b 0x10 4, arg0 := fieldAt b 0x14 4,
    outAddr := fieldAt b 0x18 8, outLen := fieldAt b 0x20 4,
    args := (List.range 5).map (fun i => fieldAt b (0x24 + 4 * i) 4), input := input, fetchTs := ts }

/-- Commands of ring scope, under a selected version. -/
def ringCode (select c : Nat) : Bool :=
  [0x01, 0x10, 0x20, 0x21, 0x22, 0x23, 0x24, 0x30, 0x31, 0x40, 0x41].contains c &&
    !(select == select12 && [0x10, 0x23, 0x24, 0x41].contains c)

/-- Commands of node or management scope. -/
def otherScope (c : Nat) : Bool := c == 0x42 || c == 0x50 || (decide (0x60 ≤ c) && decide (c ≤ 0x64))

/-- Bits of ARG0 that a command does not use. -/
def arg0Limit (c : Nat) : Nat :=
  if c = 0x20 then 16 else if c = 0x22 then 4096 else if c = 0x23 ∨ c = 0x24 then 256
  else if c = 0x30 then 2 ^ 27 else if c = 0x31 then 2 ^ 24 else if c = 0x40 ∨ c = 0x41 ∨ c = 0x10 then 2 ^ 32 else 1

/-- The command reads input bytes. -/
def readsInput (c : Nat) : Bool := c == 0x10 || c == 0x20 || c == 0x21 || c == 0x23

/-- Arguments that a command does not use are zero, and used addresses are multiples of 64 (R350). -/
def argsOk (f : Fetched) : Bool :=
  let c := f.code
  let usesAddr := readsInput c || c == 0x30 || c == 0x40 || c == 0x41
  let usesLen := readsInput c || c == 0x30
  (if usesAddr then f.addr % 64 == 0 else f.addr == 0) && (usesLen || f.len == 0) && decide (f.arg0 < arg0Limit c) &&
    (c != 0x10 || bitsOf f.arg0 15 8 == 0) &&
    (if c = 0x10 then f.outAddr % 64 == 0 else f.outAddr == 0 && f.outLen == 0) &&
    (if c = 0x30 then decide (f.args.getD 0 0 < 256) else f.args.getD 0 0 == 0) && (f.args.drop 1).all (· == 0)

/-- The status that completes an entry as soon as it is fetched; none where the command starts. -/
def entryStatus (s : State) (f : Fetched) : Option Nat :=
  if otherScope f.code then some stNotPermitted
  else if !ringCode s.host.select f.code ∨ !argsOk f then some stFormat
  else if f.code = codeRequest ∧ (!requestOp (f.arg0 % 256) ∨ 16777216 < f.len) then some stFormat
  else if f.code = 0x20 ∧ f.len ≠ 32 then some stFormat
  else if readsInput f.code ∧ 0 < f.len ∧ f.input.isNone then some stDataLost
  else none

/-- The input as it came over CXL.cache: of the right length, from a host that can be reached. -/
def inputOf (s : State) (f : Fetched) (input : Option (List Byte)) : Option (List Byte) :=
  if f.len = 0 then some []
  else if !hostUsable s then none
  else match input with
    | some bs => if bs.length = f.len then some bs else none
    | none => none

/-- The pair may fetch its next entry: a completion slot is free for it, counting everything owed (R352). -/
def mayFetch (x : Ring) : Bool :=
  x.enabled && !x.draining && !x.error && x.sqHead != x.tail && decide (x.fetched.length + x.rmaDue.length < cqFree x)

/-- COMMAND_FETCH: the next submission entry of a pair. `input` is what reading its input gives. -/
def execCommandFetch (n r : Nat) (input : Option (List Byte)) (s : State) : Host.Outcome State Fault Refusal :=
  if !serving s || tearingDown s n then done s s
  else
    let x := ring s n r
    match backedAddr x.sqPages (64 * x.sqHead), part? s n with
    | some a, some p =>
      let b := hbmRead s a 64
      let f0 := entryFields x.nextIdx s.tb.now b none
      let isReq := f0.code == codeRequest
      if !mayFetch x || (f0.fence && !x.fetched.isEmpty) || (isReq && decide (256 ≤ p.running)) then done s s
      else
        let f := { f0 with input := inputOf s f0 input }
        let x1 := { x with sqHead := (x.sqHead + 1) % 2 ^ x.sqLog, nextIdx := x.nextIdx + 1, fetched := x.fetched ++ [f] }
        let s1 := writeRingState n r (setRing n r x1 s)
        match entryStatus s f with
        | some st => done s (complete n r f.idx st 0 s1)
        | none =>
          let s2 := if readsInput f.code && f.input.isSome then hostCountRead f.len s1 else s1
          if isReq then
            let held := decide (epochRule s2 (f.arg0 / 65536) f.fetchTs = .held)
            let s3 := updPart n (fun p => { p with running := p.running + 1 }) s2
            done s (if held then updNetDie 0 (fun d => { d with heldCount := sat32 (d.heldCount + 1) }) s3 else s3)
          else done s s2
    | _, _ => done s s

/-! ### Commands of ring scope -/

/-- A fetched command of a code that has not started runs. -/
def ringCmd (code n r idx : Nat) (s : State) (f : Fetched → State → State) : State :=
  if !serving s then s
  else match fetched? s n r idx with
  | none => s
  | some x => if x.code = code ∧ !x.started then f x s else s

/-- NOP. -/
def execNop (n r idx : Nat) (s : State) : Host.Outcome State Fault Refusal :=
  done s (ringCmd 0x01 n r idx s fun x s => complete n r x.idx stOk 0 s)

def markStarted (n r idx : Nat) (s : State) : State :=
  updRing n r (fun x => { x with fetched := x.fetched.map fun f => if f.idx = idx then { f with started := true } else f }) s

/-- The request that a REQUEST entry carries: BE, in re-send mode, with SPEC only where its body needs it (R213, R354). -/
def ringReq (n r : Nat) (p : Part) (x : Fetched) : Req :=
  let op := x.arg0 % 256
  let body := x.input.getD []
  let spec := specOnly op || (op == 1 && fieldAt body 0x30 8 != 0)
  ⟨.ring n r x.idx, p.tenant, x.arg0 / 65536, false, spec, x.fetchTs, body⟩

/-- A REQUEST under its epoch (R316, R354). -/
def ringRequest (n r : Nat) (remote : List Byte) (x : Fetched) (s : State) : State :=
  match part? s n with
  | none => s
  | some p =>
    let op := x.arg0 % 256
    let q := ringReq n r p x
    if p.conf then complete n r x.idx stNotPermitted 0 s else
    let start := fun (s : State) => markStarted n r x.idx (chargeOp n op x.fetchTs s)
    let run := fun (s : State) => match intake n op q s with
      | (true, s1) => runRequest op q remote (start s1)
      | (false, s1) => s1
    if s.dir.waitReqs.any fun w => decide (w.req.origin = q.origin) then run s
    else match epochRule s q.epoch x.fetchTs with
    | .stale => refuse q op stStaleMap (start s)
    | .held => if s.tb.now < x.fetchTs + holdNs s then s else refuse q op stNotPermitted (start s)
    | .accepted =>
      if 0 < x.outLen ∧ x.outAddr ≠ 0 ∧ !hostUsable s then completeRequest n r x.idx stDataLost [] (start s)
      else run s

/-- REQUEST (R354). -/
def execRequest (n r idx : Nat) (remote : List Byte) (s : State) : Host.Outcome State Fault Refusal :=
  done s (ringCmd codeRequest n r idx s (ringRequest n r remote))

/-! ### Tables, programs and weight sets -/

def setTable (n k : Nat) (t : TableSlot) (s : State) : State := updPart n (fun p => { p with tables := mset p.tables k t }) s

/-- The generation that the next load of a slot takes (R173). -/
def nextGen (t : TableSlot) : Nat := match t.newest with | none => 0 | some (g, _) => (g + 1) % 4

/-- A load becomes effective (R175): the older generation is dropped, the newest moves, both measured (R391). -/
def loadTable (n k : Nat) (rec : List Byte) (s : State) : State :=
  let t := tableSlot s n k
  let g := nextGen t
  let s1 := match t.older with
    | some (o, old) => measure n 3 1 (k + 16 * o) old s
    | none => s
  setTable n k
    { newest := some (g, rec), older := t.newest, pending := none, loadedAt := s.tb.now, olderAt := t.loadedAt }
    (measure n 3 0 (k + 16 * g) rec s1)

/-- The older generation of a slot still has references. -/
def olderHeld (s : State) (n k : Nat) : Bool :=
  match (tableSlot s n k).older with
  | some (o, _) => decide (0 < tableRefs s n k o)
  | none => false

/-- EXC_LOAD (R164, R173). -/
def execExcLoad (n r idx : Nat) (s : State) : Host.Outcome State Fault Refusal :=
  done s (ringCmd 0x20 n r idx s fun x s =>
    let k := x.arg0
    let rec_ := x.input.getD []
    let t := tableSlot s n k
    if !recordOk rec_ then complete n r x.idx stFormat 0 s
    else if isConf s n ∨ t.pending.isSome then complete n r x.idx stNotPermitted 0 s
    else if olderHeld s n k then complete n r x.idx stOk (nextGen t + 4) (setTable n k { t with pending := some rec_ } s)
    else complete n r x.idx stOk (nextGen t) (loadTable n k rec_ s))

/-- EXC_LOAD_EFFECT: a pending load becomes effective once no page refers to the older generation (R173, R175). -/
def execExcLoadEffect (n k : Nat) (s : State) : Host.Outcome State Fault Refusal :=
  if !serving s then done s s
  else match (tableSlot s n k).pending with
  | none => done s s
  | some rec_ => if olderHeld s n k then done s s else done s (loadTable n k rec_ s)

/-- An image within Table 8.4, with no word of the system class and no undefined encoding (R241). -/
def progOk (img : List Byte) : Bool :=
  let cl := fieldAt img 8 4
  let dl := fieldAt img 0xC 4
  let fwd := fieldAt img 0x10 4
  let grad := fieldAt img 0x14 4
  decide (64 ≤ img.length) && fieldAt img 0 1 == 1 && fieldAt img 1 1 == 1 && decide (fieldAt img 2 2 < 4096) &&
  decide (1 ≤ fieldAt img 4 2) && decide (fieldAt img 4 2 ≤ 512) && fieldAt img 6 2 == 0 && cl % 4 == 0 && decide (4 ≤ cl) &&
  decide (cl ≤ 65536) && dl % 64 == 0 && decide (dl ≤ 16384) && fwd % 4 == 0 && decide (fwd < cl) &&
  (grad == 0xFFFFFFFF || (grad % 4 == 0 && decide (grad < cl))) && allZero (sliceBytes img 0x18 40) &&
  (img.length == 64 + codeSpan img + dl || (dl == 0 && img.length == 64 + cl)) &&
  (chunks 4 cl ((img.drop 64).take cl)).all fun w => decide (wordClass (leNat w) = WordClass.defined)

/-- Bytes of the tables-and-programs slices that a partition's programs may fill: its slices without its tables. -/
def progShare (p : Part) : Nat := 524288 * p.pcs.length - 1024

/-- PROG_LOAD (R241, R242). -/
def execProgLoad (n r idx : Nat) (s : State) : Host.Outcome State Fault Refusal :=
  done s (ringCmd 0x21 n r idx s fun x s =>
    let img := x.input.getD []
    match part? s n with
    | none => s
    | some p =>
      let k := fieldAt img 2 2
      if !progOk img then complete n r x.idx stFormat 0 s
      else if p.progs.any fun y => y.number == k then complete n r x.idx stNotPermitted 0 s
      else if p.progQuota < (p.progs.map fun y => progKib y.image).sum + progKib img ∨
          progShare p < (p.progs.map fun y => y.image.length).sum + img.length ∨ 4 * (storeFree s).length < progKib img then
        complete n r x.idx stPoolFull 0 s
      else
        let s1 := measure n 1 0 k img (storeProg n k img s)
        complete n r x.idx stOk 0 (updPart n (fun p =>
          { p with progs := p.progs ++ [{ number := k, image := img, loadTs := s.tb.now }] }) s1))

/-- PROG_UNLOAD: the program is marked unloading and freed once no request holds it (R242). -/
def execProgUnload (n r idx : Nat) (s : State) : Host.Outcome State Fault Refusal :=
  done s (ringCmd codeProgUnload n r idx s fun x s =>
    match part? s n with
    | none => s
    | some p =>
      if p.progs.any fun y => y.number == x.arg0 && !y.unloading then
        settleUnloads n (markStarted n r x.idx (updPart n (fun p =>
          { p with progs := p.progs.map fun y => if y.number = x.arg0 then { y with unloading := true } else y }) s))
      else complete n r x.idx stNotPermitted 0 s)

/-- A weight-set image within its ranges (R126, R353). -/
def wsetOk (img : List Byte) : Bool :=
  let layers := fieldAt img 2 2
  let heads := fieldAt img 4 2
  let qn := fieldAt img 6 2
  let l := fieldAt img 8 2
  decide (64 ≤ img.length) && fieldAt img 0 1 == 1 && fieldAt img 1 1 == 0 && decide (1 ≤ layers) && decide (layers ≤ 256) &&
  decide (1 ≤ heads) && decide (heads ≤ 256) && qn % 32 == 0 && decide (64 ≤ qn) && decide (qn ≤ 256) && decide (1 ≤ l) &&
  allZero (sliceBytes img 10 54) && img.length == 64 + 2 * (layers * heads * qn * l)

/-- Most bytes of weight sets of one partition (R34). -/
def wsetCap : Nat := 17179869184

/-- WSET_LOAD (R34, R353). -/
def execWsetLoad (n r idx : Nat) (s : State) : Host.Outcome State Fault Refusal :=
  done s (ringCmd 0x23 n r idx s fun x s =>
    let img := x.input.getD []
    match part? s n with
    | none => s
    | some p =>
      let w : WSet := { id := x.arg0, layers := fieldAt img 2 2, heads := fieldAt img 4 2, qn := fieldAt img 6 2,
                        l := fieldAt img 8 2, image := img, loadTs := s.tb.now }
      if !wsetOk img then complete n r x.idx stFormat 0 s
      else if p.wsets.any fun y => y.id == x.arg0 then complete n r x.idx stNotPermitted 0 s
      else if wsetCap < (p.wsets.map fun y => y.image.length).sum + img.length ∨
          p.pcs.any fun g => decide (flexBytes < flexUsed s g + wsetShare p w) then complete n r x.idx stPoolFull 0 s
      else
        let s1 := measure n 2 0 x.arg0 img s
        complete n r x.idx stOk 0 (updPart n (fun p => { p with wsets := p.wsets ++ [w] }) s1))

/-- WSET_UNLOAD: completes when no request holds the weight set (R353). -/
def execWsetUnload (n r idx : Nat) (s : State) : Host.Outcome State Fault Refusal :=
  done s (ringCmd codeWsetUnload n r idx s fun x s =>
    match part? s n with
    | none => s
    | some p =>
      if p.wsets.any fun y => y.id == x.arg0 && !y.unloading then
        settleUnloads n (markStarted n r x.idx (updPart n (fun p =>
          { p with wsets := p.wsets.map fun y => if y.id = x.arg0 then { y with unloading := true } else y }) s))
      else complete n r x.idx stNotPermitted 0 s)

/-! ### Buffers -/

/-- BUF_REG (R292, R293). -/
def execBufReg (n r idx : Nat) (s : State) : Host.Outcome State Fault Refusal :=
  done s (ringCmd 0x30 n r idx s fun x s =>
    let i := x.arg0 % 16777216
    let kind := bitOf x.arg0 26
    let len := x.len + x.args.getD 0 0 * 4294967296
    if 1048576 ≤ i ∨ len = 0 ∨ 1099511627776 ≤ len ∨ (kind ∧ x.addr ≠ 0) then complete n r x.idx stFormat 0 s
    else
      let b := bufOf s i
      if firmwareIndex i ∨ b.state ≠ .free ∨ (isConf s n ∧ !kind) then complete n r x.idx stNotPermitted 0 s
      else
        let new : Buf :=
          { state := .pending, write := bitOf x.arg0 24, read := bitOf x.arg0 25, hbm := kind, part := n, gen := b.gen,
            length := len, base := x.addr, lastBump := b.lastBump, cmd := some (n, r, x.idx) }
        let s1 := markStarted n r x.idx s
        if !kind then startReg i (setBuf i new s1)
        else if partFree s n < bufPages new then complete n r x.idx stPoolFull 0 s
        else match allocPages n (bufPages new) 0 s1 with
          | none => complete n r x.idx stPoolFull 0 s
          | some (ps, s2) =>
            match allocOtherMdbs n (ceilDiv' ps.length 30) s2 with
            | none => complete n r x.idx stPoolFull 0 s
            | some (ms, s3) =>
              noteFree n (startReg i (setBuf i { new with pages := ps, mdbs := ms, base := ms.headD 0 } s3)))

/-- BUF_REL (R293): a valid buffer is released; a pending one is cancelled, and the command that registered it completes
NOT_PERMITTED. -/
def execBufRel (n r idx : Nat) (s : State) : Host.Outcome State Fault Refusal :=
  done s (ringCmd 0x31 n r idx s fun x s =>
    let b := bufOf s x.arg0
    if 1048576 ≤ x.arg0 then complete n r x.idx stFormat 0 s
    else if b.state = .free ∨ b.part ≠ n ∨ b.firmware then complete n r x.idx stNotPermitted 0 s
    else
      let s1 := releaseBuf x.arg0 s
      let s2 := match b.cmd with
        | some (n', r', idx') => complete n' r' idx' stNotPermitted 0 s1
        | none => s1
      complete n r x.idx stOk 0 s2)

/-! ### Swap areas and evicted-key tables -/

/-- The map entries of used slots stand where the area in force places them (R355; DEDUCED, log 74). -/
def placeMap (n : Nat) (old : Option SwapArea) (new : SwapArea) (s : State) : State :=
  match old with
  | none => s
  | some a =>
    if a.used.isEmpty then s
    else
      let k := 64 * a.used.length
      (a.used.map fun i => (i, hostRead s (mapAddr a i) 64)).foldl (fun s x => hostWrite (mapAddr new x.1) x.2 s)
        (chargeHost n (2 * k) (hostCountRead k s))

/-- SWAP_AREA_SET (R355). -/
def execSwapAreaSet (n r idx : Nat) (s : State) : Host.Outcome State Fault Refusal :=
  done s (ringCmd 0x40 n r idx s fun x s =>
    match part? s n with
    | none => s
    | some p =>
      let slots := x.arg0
      let ok := match p.swapArea with
        | none => true
        | some a => decide (x.addr = a.base) && (decide (a.slots < slots) ||
            (decide (slots < a.slots) && a.used.all fun i => decide (i < slots)))
      if x.addr % 65536 ≠ 0 ∨ slots = 0 ∨ 16777215 < slots then complete n r x.idx stFormat 0 s
      else if !ok then complete n r x.idx stNotPermitted 0 s
      else
        let area : SwapArea := { base := x.addr, slots := slots, used := (p.swapArea.map (·.used)).getD [] }
        complete n r x.idx stOk 0 (updPart n (fun p => { p with swapArea := some area }) (placeMap n p.swapArea area s)))

/-- EVICT_AREA_SET (R363). -/
def execEvictAreaSet (n r idx : Nat) (s : State) : Host.Outcome State Fault Refusal :=
  done s (ringCmd 0x41 n r idx s fun x s =>
    match part? s n with
    | none => s
    | some p =>
      let b := x.arg0
      let held := match p.evictArea with | some a => decide (0 < a.keys) | none => false
      if b < 1024 ∨ 4194304 < b ∨ 2 ^ Nat.log2 b ≠ b then complete n r x.idx stFormat 0 s
      else if held then complete n r x.idx stNotPermitted 0 s
      else complete n r x.idx stOk 0
        (updPart n (fun p => { p with evictArea := some { base := x.addr, buckets := b } }) s))

/-- SPILL_AREA_SET (R364): from OPERATOR alone (Table 13.3), while the host tier holds no record. -/
def execSpillAreaSet (c : MgmtCmd) (addr : Nat) (s : State) : Host.Outcome State Fault Refusal :=
  let writes := (s.host.spill.map (·.writes)).getD 0
  mgmtCmd c (c.role == .operator) s
    (if addr % 256 ≠ 0 ∨ c.arg0 = 0 ∨ 16777216 < c.arg0 ∨ c.arg1 ≠ 0 ∨ c.arg2 ≠ 0 ∨ c.arg3 ≠ 0 ∨ c.input ≠ [] then
       mgmtAnswer c stFormat 0 [] s
     else if 0 < tierCount s .host then mgmtAnswer c stNotPermitted 0 [] s
     else mgmtAnswer c stOk 0 []
       { s with host := { s.host with spill := some { base := addr, records := c.arg0, writes := writes } } })

end Sys2Proof.Machine
end

