-- ==== Sys2Proof/Machine/Host.lean ====
section
/-!
DEFINITION. The host attachment beside the rings: the HDM window (R347), link training and reset (R345, R366, R368), viral
(R365 to R367) and the DOE mailboxes (R344).
-/

namespace Sys2Proof.Machine

open Sys2Proof

/-! ### The HDM window (R347, Table 12.3) -/

/-- The HBM address that backs a byte of the window; none where Table 12.3 does not back it. -/
def hdmAddr (s : State) (a : Nat) : Option Nat :=
  let n := a / 0x40000000
  let off := a % 0x40000000
  if off < 65536 then (mfind s.host.ctlPages n).map fun p => pageAddr p + off
  else if off < 0x01000000 ∨ 0x09000000 ≤ off then none
  else
    let r := off / 0x01000000 - 1
    let x := ring s n r
    let o := off % 0x01000000
    if !x.enabled then none
    else if o < 2 ^ x.sqLog * 64 then backedAddr x.sqPages o
    else if 0x00800000 ≤ o ∧ o < 0x00800000 + 2 ^ x.cqLog * 32 then backedAddr x.cqPages (o - 0x00800000)
    else none

/-- An access to an unbacked address is counted (HXC_ERR.HDM_UNBACKED, 24 bits). -/
def countUnbacked (s : State) : State :=
  { s with host := { s.host with unbacked := min 16777215 (s.host.unbacked + 1) } }

/-! ### Viral (R365 to R367) -/

/-- Some partition has an enabled ring pair or a swap area. -/
def hostInUse (s : State) : Bool := (s.host.rings.any fun x => x.2.enabled) || s.parts.any fun x => x.2.swapArea.isSome

/-- Every page in a swap area is lost (R366). -/
def loseSwappedPages (s : State) : State :=
  (s.descs.flatMap fun x => x.2.streams.zipIdx.flatMap fun y =>
    (List.range y.1.entries.length).map fun j => (x.1, y.2, j)).foldl (fun s x =>
      match desc? s x.1 with
      | none => s
      | some d =>
        match (d.streams[x.2.1]?).bind (·.entries[x.2.2]?) with
        | none => s
        | some e =>
          let l := locOf s d e
          if l.swapped && !l.lost then loseSwapped x.1 x.2.1 x.2.2 d e s else s) s

/-- Swap-ins under way cannot read their slots any more: they end. -/
def endDemands (s : State) : State := ((s.fab.demand.map (·.mdb)).dedup).foldl (fun s m => finishDemands m s) s

/-- What the node keeps in host memory is lost: swapped pages, staged copies' slots, host-tier connections. -/
def loseHost (s : State) : State :=
  let s1 := loseSwappedPages (endDemands (discardStagedWhere (fun _ => true) s))
  ((s1.fab.conns.filter fun x => x.2.tier == .host).map (·.1)).foldl (fun s c => dropConn c s) s1

/-- Areas in host memory are unset and the rings disabled; their fetched commands end without completion (R366). -/
def unsetHost (s : State) : State :=
  let ps := s.host.rings.flatMap fun x => x.2.sqPages ++ x.2.cqPages
  let s1 := releasePages ps s
  let parts : List (Nat × Part) :=
    s1.parts.map fun x => (x.1, { x.2 with swapArea := none, swapExc := [], swapKeys := [], evictArea := none, running := 0 })
  let rings : List (Nat × Ring) :=
    s1.host.rings.map fun (x : Nat × Ring) => (x.1, ({ done := x.2.done, nextIdx := x.2.nextIdx } : Ring))
  let bufs : List (Nat × Buf) := s1.fab.bufs.map fun x => (x.1, { x.2 with cmd := none })
  let s2 : State :=
    { s1 with
      parts := parts
      host := { s1.host with spill := none, select := 0, selectErr := false, rings := rings }
      fab := { s1.fab with bufs := bufs } }
  rings.foldl (fun s x => writeRingState (x.1 / 8) (x.1 % 8) s) s2

/-- The port's link state is that of a link that is down. -/
def linkIsDown (s : State) : State :=
  { s with host := { s.host with up := false, cxl := false, flit256 := false, latOpt := false, width := 0, speed := 0,
                                 ideIo := none, ideCm := none, viralEn := false } }

/-- A condition of Table 12.10: viral toward the host, or, where the host has cleared Viral_Enable, an internal error and
the link down. -/
def raiseViral (cause : Nat) (s : State) : State :=
  if s.host.viral || !hostInUse s then s
  else
    let en := s.host.viralEn
    let s1 := { s with host := { s.host with viral := true, cause := cause, viralTs := s.tb.now, aer := !en } }
    let s2 := loseHost (logEvent 0x0702 srcCt none 0 [cause] s1)
    if en then s2 else linkIsDown s2

/-! ### Commands -/

/-- HDM_ACCESS: one CXL.mem request of up to 64 bytes (R347, R365, R366). `bad`: the read meets an uncorrectable codeword. -/
def execHdmAccess (write : Bool) (addr len : Nat) (bytes : List Byte) (bad : Bool) (s : State) :
    Host.Outcome State Fault Refusal :=
  if !serving s || !s.host.up || !s.host.cxl || 0x1000000000 ≤ addr then done s s
  else match hdmAddr s addr with
  | none => done s (if write then countUnbacked s else setReadData (zeroBytes len) (countUnbacked s))
  | some a =>
    if write then done s (if s.host.viral then s else hbmWrite a (bytes.take len) s)
    else if bad then done s (raiseViral 1 (setReadData [] s))
    else done s (setReadData (hbmRead s a len) s)

/-- CXL_LINK_RESET: a conventional reset or link-down clears viral; areas are unset and rings disabled (R366). -/
def execCxlLinkReset (s : State) : Host.Outcome State Fault Refusal :=
  if !s.boot.powered then done s s
  else
    let s1 := if s.host.viral then s else loseHost s
    let s2 := unsetHost { s1 with host := { s1.host with viral := false, cause := 0, viralTs := 0, aer := false } }
    done s (linkIsDown s2)

/-- The CXL port trains: from phase 6 on or in recovery mode, and not where chapter 15 or 16 keeps it down (Table 15.1, Table
15.10, R463, R468, R475). -/
def cxlTrains (s : State) : Bool :=
  s.boot.powered && (s.boot.recovery || decide (6 ≤ s.boot.stage)) && s.nv.lifecycle != .decommissioned && !s.boot.thermTrip &&
    !s.boot.scanIdle && !s.boot.compatOpen && !s.health.stopped

/-- CXL_LINK_TRAIN: the port trains as a CXL link, or as a PCIe endpoint in recovery mode (R344, R345, R368). -/
def execCxlLinkTrain (partner : CxlPartner) (s : State) : Host.Outcome State Fault Refusal :=
  if !cxlTrains s || s.host.up then done s s
  else
    let width := if 16 ≤ partner.width then 16 else 8
    if s.boot.recovery then
      done s { s with host := { s.host with up := true, cxl := false, flit256 := false, latOpt := false, width := width,
                                            speed := min 6 (max 1 partner.speed), viralEn := false } }
    else if !partner.cxl then done s { s with host := { s.host with up := false, negotFail := true } }
    else
      let top := if partner.flit256 then 6 else 5
      done s { s with host :=
        { s.host with up := true, cxl := true, negotFail := false, flit256 := partner.flit256,
                      latOpt := partner.flit256 && partner.latOpt, width := width,
                      speed := min top (max 1 partner.speed), viralEn := partner.viralEnable } }

/-- HOST_QUEUE_UNCORRECTABLE_ERROR: cause 0x2 of Table 12.10. -/
def execHostQueueUncorrectableError (s : State) : Host.Outcome State Fault Refusal :=
  if !s.boot.powered then done s s else done s (raiseViral 2 s)

/-- DOE_MAILBOX_MESSAGE: SPDM with IDE_KM, or CDAT (R344); the answers of those standards are free values (log 12). -/
def execDoeMailboxMessage (m : DoeMsg) (s : State) : Host.Outcome State Fault Refusal :=
  if !s.boot.powered || s.boot.recovery || !s.host.up || !s.host.cxl then done s s
  else
    let answer := fun (kind : Nat) (bs : List Byte) (s : State) =>
      { s with host := { s.host with doe := s.host.doe ++ [Config.standardResponse kind bs] } }
    match m with
    | .spdm bs => done s (answer 1 bs s)
    | .cdat bs => done s (answer 2 bs s)
    | .ideKeySetGo true key => done s (answer 3 [1#8] { s with host := { s.host with ideCm := some key } })
    | .ideKeySetGo false key => done s (answer 3 [0#8] { s with host := { s.host with ideIo := some key } })
    | .ideKeyStop true => done s (answer 4 [1#8] { s with host := { s.host with ideCm := none } })
    | .ideKeyStop false => done s (answer 4 [0#8] { s with host := { s.host with ideIo := none } })

end Sys2Proof.Machine
end

