-- ==== Sys2Proof/Machine/Partition.lean ====
section
/-!
DEFINITION. Partitions: what the cocoon asks of a command (R375, R397), the cut of charging records (R324), creation (R373,
R374) and teardown (R386).
-/

namespace Sys2Proof.Machine

open Sys2Proof

/-! ### Cocoon commands (R375, R394, R397) -/

/-- The cocoon carries out commands: it is past its self-tests, not in its error state, and not confined to its ROM services
(R394, R444). -/
def cocoonServes (s : State) : Bool := serving s && s.cocoon.approved && !s.cocoon.errorState

/-- The role of a cocoon command is held in a session of its mailbox instance (R375). -/
def roleHeld (s : State) (c : CocoonCmd) : Bool :=
  c.role == .none || (mailbox s c.inst).sessions.any fun x => x.2 == c.role

/-- The `n` parameter bytes of a cocoon command; none where its payload is malformed (R397). -/
def cocoonParams (c : CocoonCmd) (n : Nat) : Option (List Byte) :=
  if c.payload.length = 8 + n ∧ fieldAt c.payload 2 2 = 0 ∧ fieldAt c.payload 4 4 = n then some (c.payload.drop 8) else none

/-- A cocoon command as R375 and R397 let it through: the role first, then the form of its payload. -/
def cocoonCmd (c : CocoonCmd) (allowed : Bool) (n : Nat) (s : State) (f : List Byte → State → State) :
    Host.Outcome State Fault Refusal :=
  if !s.boot.powered || s.health.stopped then done s s
  else if !cocoonServes s || !roleHeld s c || !allowed then done s (cocoonAnswer c stNotPermitted [] s)
  else match cocoonParams c n with
    | none => done s (cocoonAnswer c stFormat [] s)
    | some b => done s (f b s)

/-! ### Charging records (R324) -/

/-- The open record is closed at time `t`; unless a teardown cuts it, a new one opens with the epoch now in force. -/
def cutCharge (n t : Nat) (byTeardown : Bool) (s : State) : State :=
  updPart n (fun p =>
    let full := (mfind p.ring p.chargeHead).isSome
    { p with
      ring := mset p.ring p.chargeHead { p.charge with stop := t, byTeardown := byTeardown }
      chargeHead := (p.chargeHead + 1) % 64
      chargeOverflow := if full then sat32 (p.chargeOverflow + 1) else p.chargeOverflow
      charge := if byTeardown then {} else { epoch := s.epochs.current, start := t } }) s

/-- What of a partition's number only a cold start clears: counters and closed charging records. -/
def keepCounters (old p : Part) : Part :=
  { p with
    ring := old.ring
    chargeHead := old.chargeHead
    chargeOverflow := old.chargeOverflow
    rotations := old.rotations
    convSat := old.convSat
    convNonfinite := old.convNonfinite
    specOpened := old.specOpened
    specCommitted := old.specCommitted
    specExpired := old.specExpired
    specForced := old.specForced
    stageDiscarded := old.stageDiscarded
    taskWaits := old.taskWaits
    swapOuts := old.swapOuts
    swapIns := old.swapIns
    preempted := old.preempted
    starvations := old.starvations
    probeFull := old.probeFull
    replAbsent := old.replAbsent
    replRebuilt := old.replRebuilt
    throtMs := old.throtMs }

/-! ### The shard group of a partition (R318, R319) -/

/-- The shard record in force becomes the partition's: a new steward registers its placement buffer, a former one releases
it. -/
def applyShard (n : Nat) (s : State) : State :=
  match part? s n with
  | none => s
  | some p =>
    let r := s.epochs.shardRecs.find? fun x => x.part == n
    let steward := match r with | some x => x.role == 0 | none => false
    let s1 := updPart n (fun p =>
      { p with
        steward := steward
        leaving := match r with | some x => x.role == 2 | none => false
        stewardId := match r with | some x => x.steward | none => 0
        group := match r with | some x => x.group | none => 0 }) s
    if steward && !p.steward then firmwareReg n n 4194304 false s1
    else if p.steward && !steward then releaseBuf n s1
    else s1

/-! ### PART_CREATE (R373, R374) -/

/-- The numbers of the bits that a mask of `n` bits sets. -/
def maskBits (n w : Nat) : List Nat := (List.range n).filter fun i => bitOf w i

/-- The configuration entry of a partition number; every default where it has none (R438). -/
def entryFor (s : State) (n : Nat) : PartEntry := (s.boot.entries.find? fun e => e.part == n).getD { part := n }

/-- The fields of a partition record (Table 13.2). -/
structure PartRecord where
  part : Nat
  tenant : Nat
  conf : Bool
  clkLevel : Nat
  tdmFirst : Nat
  tdmCount : Nat
  tdmCores : Nat
  wayMap : Nat
  segs : List Nat
  pcs : List Nat
  deriving DecidableEq, Repr

def partRecord (b : List Byte) : PartRecord :=
  { part := fieldAt b 1 1 % 64
    tenant := fieldAt b 2 2
    conf := bitOf (fieldAt b 4 1) 0
    clkLevel := fieldAt b 5 1
    tdmFirst := fieldAt b 6 1
    tdmCount := fieldAt b 7 1
    tdmCores := fieldAt b 8 8
    wayMap := fieldAt b 0x10 8
    segs := maskBits 256 (fieldAt b 0x18 32)
    pcs := maskBits 768 (fieldAt b 0x38 96) }

/-- The form of the record (R374, first and second case; CLK_LEVEL of a confidential partition is 1 to 4 by R480). -/
def recordForm (b : List Byte) : Bool :=
  let r := partRecord b
  fieldAt b 0 1 == 1 && decide (fieldAt b 1 1 < 64) && decide (fieldAt b 4 1 < 2) && allZero (sliceBytes b 0xC8 56) &&
    (if r.conf then
      decide (1 ≤ r.clkLevel) && decide (r.clkLevel ≤ 4) && decide (r.tdmFirst < 100) && decide (4 ≤ r.tdmCount) &&
        decide (r.tdmFirst + r.tdmCount ≤ 100)
     else r.clkLevel == 0 && r.tdmFirst == 0 && r.tdmCount == 0 && r.tdmCores == 0)

/-- The confidential runs of two partitions share a core and a step (R251). -/
def runsOverlap (r : PartRecord) (p : Part) : Bool :=
  p.conf && (r.tdmCores &&& p.tdmCores) != 0 && decide (r.tdmFirst < p.tdmFirst + p.tdmCount) &&
    decide (p.tdmFirst < r.tdmFirst + r.tdmCount)

/-- A quota that the image gives, rounded down to a multiple of 4 (R98). -/
def imageQuota (e : PartEntry) (d : Nat) : Option Nat :=
  let q := if d = 0 then e.quotaDd0 else e.quotaDd1
  if q = 0xFFFF then none else some (q / 4 * 4)

/-- Every unit that a record names is free and in service. -/
def unitsFree (s : State) (r : PartRecord) : Bool :=
  !r.pcs.isEmpty && !r.segs.isEmpty && r.wayMap != 0 &&
    r.pcs.all (fun g => pcInService s g && !(s.parts.any fun x => x.2.pcs.contains g)) &&
    r.segs.all (fun g => (mfind s.dir.segOwn g).isNone && !dieLost s (0x38 + g / 128)) &&
    s.parts.all (fun x => (r.wayMap &&& x.2.wayMap) == 0)

/-- The status that refuses a record, in the order of R374. A WAY_MAP of more ways than the entry's WAYS is refused as a way
that the partition may not be given (DEDUCED, log 60); no partition exists in DECOMMISSIONED (Table 15.10). -/
def createRefusal (s : State) (b : List Byte) : Option Nat :=
  let r := partRecord b
  let e := entryFor s r.part
  if !recordForm b then some stFormat
  else if (part? s r.part).isSome || s.parts.any (fun x => x.2.tenant == r.tenant) then some stNotPermitted
  else if !unitsFree s r || decide (e.ways < popcount r.wayMap) then some stNotPermitted
  else if r.segs.any (fun g => imageQuota e (g / 128) == some 0) then some stNotPermitted
  else if s.nv.lifecycle = .decommissioned then some stNotPermitted
  else if r.conf && (s.nv.lifecycle != .deployed || !s.cocoon.approved || r.tdmCores == 0 ||
      s.parts.any (fun x => runsOverlap r x.2)) then some stNotPermitted
  else none

/-- The quota of a partition on a die that is in force, or waits for the next window. -/
def quotaSet (p : Part) (d : Nat) : Nat := if d = 0 then p.quotaNext0.getD p.quota0 else p.quotaNext1.getD p.quota1

/-- A quota of one die from the next quota window on. -/
def setQuotaNext (d q : Nat) (p : Part) : Part :=
  if d = 0 then { p with quotaNext0 := some q } else { p with quotaNext1 := some q }

/-- The directory quotas of one die at the creation of partition `n` (R98). -/
def admitQuota (n d : Nat) (s : State) : State :=
  let want := (imageQuota (entryFor s n) d).getD (defaultQuota s n d)
  let sum := ((s.parts.filter fun x => x.1 != n).map fun x => quotaSet x.2 d).sum + want
  if sum ≤ 1000 then updPart n (fun p => if d = 0 then { p with quota0 := want } else { p with quota1 := want }) s
  else
    let parts : List (Nat × Part) := s.parts.map fun x => (x.1, setQuotaNext d (defaultQuota s x.1 d) x.2)
    logEvent 0x0002 (0x38 + d) none d [0] { s with parts := parts }

/-- The program quota in KiB that the image gives (R239). -/
def imageProg (e : PartEntry) : Nat := if e.progQuota = 0xFFFF then 12 else e.progQuota / 4 * 4

/-- The program quotas at the creation of a partition, over the partitions that then exist (R239; DEDUCED, log 60). -/
def admitProg (n : Nat) (s : State) : State :=
  let s1 := updPart n (fun p => { p with progQuota := imageProg (entryFor s n) }) s
  if (s1.parts.map fun x => x.2.progQuota).sum ≤ 768 then s1
  else
    let parts : List (Nat × Part) := s1.parts.map fun x => (x.1, { x.2 with progQuota := 12 })
    logEvent 0x0002 srcCt none srcCt [1] { s1 with parts := parts }

/-- The default page-task quota (R246). -/
def defaultTask (p : Part) : Nat := 1024 * p.pcs.length / 768

/-- The page-task quotas at the creation of a partition (R246). -/
def admitTask (n : Nat) (s : State) : State :=
  let e := entryFor s n
  let s1 := updPart n (fun p => { p with taskQuota := if e.taskQuota = 0xFFFF then defaultTask p else e.taskQuota }) s
  if (s1.parts.map fun x => x.2.taskQuota).sum ≤ 1024 then s1
  else
    let parts : List (Nat × Part) := s1.parts.map fun x => (x.1, { x.2 with taskQuota := defaultTask x.2 })
    logEvent 0x0002 srcCt none srcCt [2] { s1 with parts := parts }

/-- The watermarks that firmware writes at creation (R69). -/
def setWatermarks (n : Nat) (s : State) : State :=
  let e := entryFor s n
  let t := partTotal s n
  updPart n (fun p =>
    { p with
      lowWm := if e.lowWm = 0xFFFFFF then t / 50 else e.lowWm
      highWm := if e.highWm = 0xFFFFFF then t / 25 else e.highWm }) s

/-- The keys of a confidential partition are drawn: slot 0, the metadata key, the swap key (R374 step 1). -/
def drawKeys (n : Nat) (s : State) : State :=
  let a := draw512 s
  let b := draw512 a.2
  let c := draw b.2
  updPart n (fun p =>
    { p with
      slots := [{ state := .active, key := some a.1 }, {}, {}, {}]
      metaKey := some b.1
      swapKey := some c.1 }) c.2

/-- The page that backs the control page of the partition area (R347). -/
def backControl (n : Nat) (s : State) : State :=
  match allocPage n 0 none s with
  | some (p, s1) => { s1 with host := { s1.host with ctlPages := mset s1.host.ctlPages n p } }
  | none => s

/-- The partition of an accepted record, before its quotas and pages. -/
def newPart (s : State) (b : List Byte) : Part :=
  let r := partRecord b
  let p : Part :=
    { tenant := r.tenant
      conf := r.conf
      clkLevel := r.clkLevel
      tdmFirst := r.tdmFirst
      tdmCount := r.tdmCount
      tdmCores := r.tdmCores
      wayMap := r.wayMap
      pcs := r.pcs
      record := b
      connQuota := (entryFor s r.part).connQuota
      charge := { epoch := s.epochs.current, start := s.tb.now } }
  match mfind s.pastParts r.part with
  | some old => keepCounters old p
  | none => p

/-- The policers and shapers of a partition take the settings of its entry: a change like any other (R337). -/
def loadBuckets (n : Nat) (s : State) : State :=
  let e := entryFor s n
  let t := s.tb.now
  (List.range 8).foldl (fun s p =>
    let be := 129 * p + 2 * n
    let s1 := setPolicer be (changeBucket true e.polBeRate e.polBeBurst e.polBeEn false t (policerOf s be)) s
    let s2 := setPolicer (be + 1) (changeBucket true e.polLcRate e.polLcBurst e.polLcEn false t (policerOf s1 (be + 1))) s1
    setShaper (64 * p + n) (changeBucket false e.shpRate e.shpBurst e.shpEn e.tokInit t (shaperOf s2 (64 * p + n))) s2) s

/-- An accepted PART_CREATE, in the order of R374. -/
def createPart (b : List Byte) (s : State) : State :=
  let r := partRecord b
  let n := r.part
  let s0 := { s with
    parts := mset s.parts n (newPart s b)
    pastParts := mdel s.pastParts n
    dir := { s.dir with segOwn := r.segs.foldl (fun m g => mset m g n) s.dir.segOwn } }
  let s1 := if r.conf then drawKeys n s0 else s0
  let s2 := loadBuckets n <| setWatermarks n (admitTask n (admitProg n (admitQuota n 1 (admitQuota n 0 s1))))
  let s3 := (List.range 64).foldl (fun s k => firmwareReg (4096 + 64 * n + k) n 1048576 true s) (backControl n s2)
  applyShard n s3

/-- PART_CREATE: the record is checked under R374 and the partition exists from the answer on. -/
def execPartCreate (c : CocoonCmd) (s : State) : Host.Outcome State Fault Refusal :=
  cocoonCmd c (c.role == .operator) 256 s fun b s =>
    match createRefusal s b with
    | some st => cocoonAnswer c st [] s
    | none => cocoonAnswer c stOk [] (createPart b s)

/-! ### Teardown (R386) -/

/-- The messages of a connection that are complete and whose request has not started (held for an epoch, or before a full
ingress queue) are answered NOT_PERMITTED. -/
def refuseSlots (cid : Nat) (c : Conn) (s : State) : State :=
  (c.slots.filter fun x => !x.2.done && slotComplete x.2 && x.2.status != 0xFE).foldl (fun s x =>
    failSlot cid x.1 x.2.port x.2.first stNotPermitted 0 [] s) s

/-- The requests of a partition that have not started work are answered NOT_PERMITTED: those in the ingress queues, held for
an epoch, waiting for directory quota, stalled, and held behind a tail, a rebuild or an accumulator set. -/
def refuseUnstarted (n : Nat) (s : State) : State :=
  let conns := s.fab.conns.filter fun x => x.2.part == n
  let mine : Req → Bool := fun r => match r.origin with
    | .fabric k _ _ => conns.any fun x => x.1 == k
    | .ring m _ _ => m == n
  let s1 := (s.fab.ingress.filter fun x => x.2.1 == n).foldl (fun s x =>
    refuse x.2.2.2.2 x.2.2.1 stNotPermitted (leaveIngress x.2.2.2.2 s)) s
  let waiting := s1.dir.waitReqs.filter fun w => w.part == n
  let s1 := { s1 with dir := { s1.dir with waitReqs := s1.dir.waitReqs.filter fun w => w.part != n } }
  let s1 := waiting.foldl (fun s w => refuse w.req w.op stNotPermitted s) s1
  let s2 := conns.foldl (fun s x => refuseSlots x.1 x.2 s) s1
  let stalled := s2.fab.stalled.filter fun x => mine x.req
  let held := s2.fab.heldAppends.filter fun x => mine x.req
  let s3 := { s2 with fab :=
    { s2.fab with
      stalled := s2.fab.stalled.filter fun x => !mine x.req
      heldAppends := s2.fab.heldAppends.filter fun x => !mine x.req } }
  let s4 := stalled.foldl (fun s x => refuse x.req x.op stNotPermitted s) s3
  let s5 := held.foldl (fun s x => refuse x.req x.op stNotPermitted s) s4
  let mdbs := (s5.descs.filter fun x => x.2.part == n).map (·.1)
  refuseSet (s5.accSets.filter fun a => mdbs.contains a.mdb)
    { s5 with accSets := s5.accSets.map fun a => if mdbs.contains a.mdb then { a with held := [], turn := [] } else a }

/-- The fetched commands of a partition's rings that have not started complete with NOT_PERMITTED. -/
def refuseCommands (n : Nat) (s : State) : State :=
  (List.range 8).foldl (fun s r =>
    ((ring s n r).fetched.filter fun f => !f.started).foldl (fun s f => complete n r f.idx stNotPermitted 0 s) s) s

/-- Work of the partition that has started is still under way (R386 step 2): jobs, replication steps, checkpoint transfers. -/
def workLeft (s : State) (n : Nat) : Bool :=
  (s.sched.runs.any fun x => x.2.part == n) || (s.fab.replWaits.any fun w => reqPart s w.req == some n) ||
    (s.fab.clones.any fun w => w.part == n) ||
    s.fab.conns.any fun x => x.2.part == n && x.2.tx.any fun m => match m.why with | .checkpoint _ _ => true | _ => false

/-- Rows of the reserved region that a teardown zeroes: the metadata store and the flexible area, not the firmware data and the
tables-and-programs slices (R386 step 6). -/
def scrubbedRow (r : Nat) : Bool := decide (r < 4516) && !(decide (4480 ≤ r) && decide (r < 4484)) || decide (4520 ≤ r)

/-- The row work of a pseudo-channel goes with what it held; a body under way runs to its end (R196), and a copy of a clone or a self-test
stays queued. -/
def clearCtl (c : PcCtl) : PcCtl :=
  { c with
    mossQ := []
    mossCur := match c.body with | .moss _ _ _ => c.mossCur | _ => none
    rowQ := c.rowQ.filter fun r => r.issuer != .pageFree && r.issuer != .clone
    next := c.next.filter fun r => r.issuer != .clone }

/-- What the pseudo-channels of a partition hold goes: pages, metadata blocks, reference entries. -/
def forgetPcs (pcs : List Nat) (s : State) : State :=
  { s with
    pages := s.pages.filter fun x => !pcs.contains (pagePc x.1) || x.2.use == .retired
    mdbs := s.mdbs.filter fun x => !pcs.contains (x.1 / pcMdbs)
    refs := s.refs.filter fun x => !pcs.contains (x.1 / pcRefs)
    mem := { s.mem with pcs := s.mem.pcs.map fun x => if pcs.contains x.1 then (x.1, clearCtl x.2) else x } }

/-- ROWZERO passes of `n` slots on each pseudo-channel: the slots are counted (Table 6.7). -/
def countPasses (pcs : List Nat) (n : Nat) (s : State) : State :=
  pcs.foldl (fun s g => updMemDie (g / 64) (fun d => { d with rowDone := sat32 (d.rowDone + n), slotMax := max d.slotMax 128 }) s) s

/-- The pool, the metadata store and the flexible area of the pseudo-channels of a partition are zeroed, 21,760 slots for each, and their
code-stale bits cleared (R206, R386 step 6). -/
def scrubPcs (pcs : List Nat) (s : State) : State :=
  let s1 := pcs.foldl (fun s g =>
    hbmZero (g * pcBytes + poolBytes + 10485760) 23068672
      (hbmZero (g * pcBytes + poolBytes + 1048576) 8388608 (hbmZero (g * pcBytes) poolBytes s))) s
  countPasses pcs 21760 (forgetPcs pcs
    { s1 with mem := { s1.mem with stale := s1.mem.stale.filter fun x => !(pcs.contains x.1 && scrubbedRow x.2.2) } })

/-- ROWZERO runs over every row set of a pseudo-channel (R421 step 4). -/
def wipePc (g : Nat) (s : State) : State :=
  let s1 := hbmZero (g * pcBytes) pcBytes s
  countPasses [g] 18432 (forgetPcs [g] { s1 with mem := { s1.mem with stale := s1.mem.stale.filter fun x => x.1 != g } })

/-- A partition's words of the directory go, and its segments are released (step 7, R78). -/
def clearSegments (n : Nat) (s : State) : State :=
  let segs := segsOf s n
  let drop : DirDie → DirDie := fun d =>
    { d with
      queue := d.queue.filter (·.req.part != n)
      wait := d.wait.filter (·.part != n)
      owed := mdel d.owed n
      repairs := d.repairs.filter fun a => !segs.contains (a / segSize)
      stopped := d.stopped.filter (· != n) }
  { s with dir :=
    { s.dir with
      entries := s.dir.entries.filter fun x => !segs.contains (x.1 / segSize)
      shadow := s.dir.shadow.filter fun x => !segs.contains (x.1 / segSize)
      segOwn := s.dir.segOwn.filter fun x => x.2 != n
      dd0 := drop s.dir.dd0
      dd1 := drop s.dir.dd1 } }

/-- Records that firmware keeps of a partition's descriptors, and the on-die lines with its tag, go (steps 4 and 7). -/
def forgetDescs (n : Nat) (s : State) : State :=
  let store : PcCtl → PcCtl := fun c => { c with queryStore := c.queryStore.filter fun x => x.1 != n }
  let ms := (s.descs.filter fun x => x.2.part == n).map (·.1)
  let core : Core → Core := fun c =>
    { c with
      binding := if c.binding = some n then none else c.binding
      skippers := c.skippers.filter fun x => x.2 != n
      obuf := c.obuf.filter fun x => x.2 != n }
  { s with
    descs := s.descs.filter fun x => x.2.part != n
    staging := s.staging.filter fun x => x.2.part != n
    accSets := s.accSets.filter fun a => !ms.contains a.mdb
    mem := { s.mem with pcs := s.mem.pcs.map fun x => (x.1, store x.2) }
    fab :=
      { s.fab with
        repl := s.fab.repl.filter fun x => x.part != n
        demand := s.fab.demand.filter fun x => !ms.contains x.mdb
        ahead := s.fab.ahead.filter fun x => !ms.contains x.1 }
    sched :=
      { s.sched with
        cores := s.sched.cores.map fun x => (x.1, core x.2)
        store := s.sched.store.filter fun x => x.2.1 != n
        attDies := (List.range 16).foldl (fun m d =>
          let a := mget ({} : AttDie) m d
          mset m d { a with invalidates := sat32 (a.invalidates + 1) }) s.sched.attDies } }

/-- Rings and control page of the partition area are no more; DONE and the position counters stay. -/
def forgetArea (n : Nat) (s : State) : State :=
  let rings : List (Nat × Ring) := s.host.rings.map fun (x : Nat × Ring) =>
    if x.1 / 8 = n then (x.1, ({ done := x.2.done, nextIdx := x.2.nextIdx } : Ring)) else x
  { s with host := { s.host with rings := rings, ctlPages := mdel s.host.ctlPages n } }

/-- The partition's number is free again (step 9); what only a cold start clears is kept under it. -/
def removePart (n : Nat) (s : State) : State :=
  let s1 := cutCharge n s.tb.now true s
  match part? s1 n with
  | none => s1
  | some p =>
    { s1 with
      fab := { s1.fab with freeDue := s1.fab.freeDue.filter fun x => x.2 != n }
      parts := mdel s1.parts n
      pastParts := mset s1.pastParts n (keepCounters p { tenant := 0 }) }

/-- Step 1 of R386: requests and commands that have not started are refused, and open tails drop. -/
def beginTeardown (n : Nat) (s : State) : State :=
  let s1 := refuseCommands n (refuseUnstarted n (updPart n (fun p => { p with state := .teardown }) s))
  ((s1.descs.filter fun x => x.2.part == n).map (·.1)).foldl (fun s m => endTail m 4 s) s1

/-- Steps 3 to 9 of R386, once the work that had started is complete. -/
def endTeardown (n : Nat) (s : State) : State :=
  match part? s n with
  | none => s
  | some p =>
    let s1 := ((s.fab.conns.filter fun x => x.2.part == n).map (·.1)).foldl (fun s c => dropConn c s) s
    let s2 := ((s1.fab.bufs.filter fun x => x.2.part == n && x.2.state != .free).map (·.1)).foldl (fun s i => releaseBuf i s) s1
    removePart n (clearSegments n (scrubPcs p.pcs (forgetArea n (forgetDescs n s2))))

/-- A teardown under way: its beginning, where it has not begun. -/
def tearing (n : Nat) (s : State) : State :=
  match part? s n with
  | some p => if p.state = .teardown then s else beginTeardown n s
  | none => s

/-- A teardown goes on (R386): it ends, and `answer` is given, as soon as no work of the partition is left; until then its command
waits, and is taken up again (log 77). -/
def teardown (n : Nat) (answer : State → State) (s : State) : State :=
  let s1 := tearing n s
  if workLeft s1 n then s1 else answer (endTeardown n s1)

/-- PART_TEARDOWN: the partition is torn down and the command answered when that ends (R386). -/
def execPartTeardown (c : CocoonCmd) (s : State) : Host.Outcome State Fault Refusal :=
  cocoonCmd c (c.role == .operator) 8 s fun b s =>
    let n := fieldAt b 0 1
    if 64 ≤ n ∨ !allZero (b.drop 1) then cocoonAnswer c stFormat [] s
    else if (part? s n).isNone then cocoonAnswer c stNotPermitted [] s
    else teardown n (cocoonAnswer c stOk []) s

end Sys2Proof.Machine
end

