-- ==== Sys2Proof/Machine/Power.lean ====
section
/-!
DEFINITION. Power and thermal governance (chapter 17): sensors (R471 to R473), the thermal, power and clock steps (R474 to
R478), the thermal trip (R475), and the latched steps that tenants see (R387).
-/

namespace Sys2Proof.Machine

open Sys2Proof

/-! ### The clock step (R478) -/

/-- TLM_PWRCFG (Table 17.6). -/
def pwrCfg (s : State) : Nat := regWord s 0x01B00000
def pwrLimit (s : State) : Nat := min 1800 (max 600 (bitsOf (pwrCfg s) 10 0))
/-- CAP_W in force (R476). -/
def capW (s : State) : Nat := match s.power.capW with | some w => min w (pwrLimit s) | none => pwrLimit s

/-- The clock step that the thermal step, the power step and a fast event give. -/
def clockWant (p : Power) : Nat := if p.fast then 3 else max p.thermStep p.pwrStep

/-- The clock step follows; a change is counted and logged with its cause: 0 thermal, 1 power, 2 fast. -/
def setClock (cause : Nat) (s : State) : State :=
  let w := clockWant s.power
  if w = s.power.clockStep then s
  else logEvent 0x0A01 srcCt none 0 [w, cause]
    { s with power := { s.power with clockStep := w, stepChanges := sat32 (s.power.stepChanges + 1) } }

/-! ### Ports -/

/-- Every fabric port and the host port go down (R423, R475, R489). -/
def portsDown (s : State) : State :=
  let ports : List (Nat × Port) := s.fab.ports.map fun x => (x.1, { x.2 with upA := false, upB := false, lanes := 0, linkVer := 0 })
  linkIsDown { s with fab := { s.fab with ports := ports } }

/-! ### Sensors (R471, R472) -/

/-- 16 × a temperature in °C. -/
def deg (k : Int) : Int := 16 * k

/-- The first sensor of each die or stack, with how many it has (Table 17.1). -/
def sensorDies : List (Nat × Nat) :=
  (List.range 16).map (fun d => (4 * d, 4)) ++ (List.range 12).map (fun b => (64 + 3 * b, 3)) ++ [(100, 1), (101, 1)] ++
    (List.range 4).map (fun n => (102 + 2 * n, 2)) ++ (List.range 6).map fun k => (110 + k, 1)

def tempOf (p : Power) (k : Nat) : Int := mget 0 p.temps k
/-- The last reading of a sensor is valid. -/
def sensorValid (p : Power) (k : Nat) : Bool := decide (k < 116) && !p.faulty.contains k

/-- The valid readings of a die. -/
def dieReadings (p : Power) (d : Nat × Nat) : List Int :=
  ((List.range d.2).map (d.1 + ·)).filterMap fun k => if sensorValid p k && (mfind p.temps k).isSome then some (tempOf p k) else none

/-- The temperature that the rules take for a die: its hottest valid reading, or 103.0 °C. -/
def dieTemp (p : Power) (d : Nat × Nat) : Int :=
  match dieReadings p d with
  | [] => deg 103
  | t :: ts => ts.foldl max t

/-- One sensor of a sample: its reading, or that it missed. -/
def sampleSensor (k : Nat) (raw : Option Int) (s : State) : State :=
  let p := s.power
  match raw with
  | some v =>
    let t := v + mget 0 p.offsets k
    let bad := decide (t < deg (-40)) || decide (deg 150 < t)
    let p1 : Power :=
      { p with
        temps := mset p.temps k t
        missed := mdel p.missed k
        maxes := if bad then p.maxes else mset p.maxes k (max t (mget t p.maxes k))
        faulty := if bad then (if p.faulty.contains k then p.faulty else p.faulty ++ [k]) else p.faulty.filter (· != k) }
    if bad && !p.faulty.contains k then
      logEvent 0x0A03 srcCt none k [(t % 0x10000000000000000).toNat]
        { s with power := { p1 with sensorFaults := sat32 (p.sensorFaults + 1) } }
    else { s with power := p1 }
  | none =>
    let n := mget 0 p.missed k + 1
    if 2 ≤ n ∧ !p.faulty.contains k then
      logEvent 0x0A03 srcCt none k [(tempOf p k % 0x10000000000000000).toNat]
        { s with power := { p with missed := mset p.missed k n, faulty := p.faulty ++ [k], sensorFaults := sat32 (p.sensorFaults + 1) } }
    else { s with power := { p with missed := mset p.missed k n } }

/-- A step after a sample: up at once to the highest threshold reached, down by one below the falling threshold of the step
in force (R99, R474). -/
def stepAfter (rise fall : List Int) (old : Nat) (t : Int) : Nat :=
  let up := rise.countP fun x => decide (x ≤ t)
  if old < up then up
  else if old = 0 then 0
  else if t < fall.getD (old - 1) 0 then old - 1
  else old

/-- The hottest valid reading and its sensor (R473). -/
def hottestOf (p : Power) : Int × Nat :=
  let l := ((List.range 116).filter fun k => sensorValid p k && (mfind p.temps k).isSome).map fun k => (tempOf p k, k)
  match l with
  | [] => (0, 0)
  | x :: xs => xs.foldl (fun b y => if b.1 < y.1 then y else b) x

/-- The thermal step computed at the last sample comes into force. -/
def applyThermal (s : State) : State := setClock 0 { s with power := { s.power with thermStep := s.power.thermNext } }

/-- The hot refresh interval of each stack (R185). -/
def updHot (s : State) : State :=
  (List.range 12).foldl (fun s b =>
    let t := dieTemp s.power (64 + 3 * b, 3)
    updMemDie b (fun d => { d with hot := if deg 85 ≤ t then true else if t < deg 80 then false else d.hot }) s) s

/-- The trip at 105.0 °C (R475): everything stops until the next cold start. -/
def thermalTrip (k : Nat) (s : State) : State :=
  let s1 := logEvent 0x0A02 srcCt none k [(tempOf s.power k).toNat] { s with health := { s.health with stopped := true } }
  let s2 := portsDown s1
  { s2 with boot := { s2.boot with thermTrip := true } }

/-- One sample: the step computed at the last one comes into force, every sensor is read, and the hottest readings, the next
thermal step and the next directory step follow (R471 to R474, R99, R185). -/
def sampled (raw : List (Option Int)) (s : State) : State :=
  let s1 := (List.range 116).foldl (fun s k => sampleSensor k (raw.getD k none) s) (applyThermal s)
  let p := s1.power
  let hot := hottestOf p
  let rule := sensorDies.foldl (fun m d => max m (dieTemp p d)) (dieTemp p (0, 4))
  let dirT := max (dieTemp p (114, 1)) (dieTemp p (115, 1))
  updHot
    { s1 with
      power :=
        { p with
          hottest := hot.1
          hotSensor := hot.2
          hotRule := rule
          thermNext := stepAfter [deg 95, deg 100, deg 103] [deg 90, deg 95, deg 99] p.thermNext rule }
      dir := { s1.dir with stepNext := stepAfter [deg 85, deg 95, deg 100] [deg 80, deg 90, deg 95] s1.dir.stepNext dirT } }

/-- The first sensor whose valid reading trips the node (R475). -/
def tripSensor (s : State) : Option Nat :=
  (List.range 116).find? fun k => sensorValid s.power k && decide (deg 105 ≤ mget 0 s.power.temps k)

/-- SENSOR_SAMPLE: the sensors are read, and the steps that follow them are computed; one at 105.0 °C or more trips the node. -/
def execSensorSample (raw : List (Option Int)) (s : State) : Host.Outcome State Fault Refusal :=
  if !s.boot.powered || s.boot.thermTrip then done s s
  else match tripSensor (sampled raw s) with
    | some k => done s (thermalTrip k (sampled raw s))
    | none => done s (sampled raw s)

/-! ### Power (R476 to R478) -/

/-- The governor runs: power is good and the node is not stopped. -/
def governed (s : State) : Bool := s.boot.powered && !s.boot.thermTrip && !s.health.stopped

/-- POWER_MEASURE: one measurement of package power of the present frame. -/
def execPowerMeasure (watts : Nat) (s : State) : Host.Outcome State Fault Refusal :=
  if !governed s then done s s
  else done s { s with power := { s.power with frameSum := s.power.frameSum + watts, frameCount := s.power.frameCount + 1 } }

/-- The power step for the next frame, and the count of low frames. -/
def powerStep (p : Power) (cap : Nat) : Nat × Nat :=
  if cap * p.frameCount < p.frameSum then (min 3 (p.pwrStep + 1), 0)
  else if p.frameSum * 100 < 95 * cap * p.frameCount then
    if p.lowFrames + 1 = 10 then (p.pwrStep - 1, 0) else (p.pwrStep, p.lowFrames + 1)
  else (p.pwrStep, 0)

/-- The steps, the average and the cap that a frame's end gives. -/
def frameEnded (s : State) : State :=
  let p := s.power
  let (step, low) := powerStep p (capW s)
  let frames := p.fastFrames - 1
  setClock 1
    { s with power :=
      { p with
        pwrStep := step
        lowFrames := low
        avgW := p.frameSum / max 1 p.frameCount
        frameSum := 0
        frameCount := 0
        fastFrames := frames
        fast := p.fast && frames != 0
        capW := match p.capNext with | some w => some w | none => p.capW
        capNext := none } }

/-- Boost of the frame that follows one (R477): boost is enabled, no clock step is in force, the frame's average lay below the
boost limit and every temperature is below 85.0 °C. -/
def boostAfter (s t : State) : Bool :=
  bitOf (pwrCfg s) 32 && t.power.clockStep == 0 &&
    decide (s.power.frameSum < bitsOf (pwrCfg s) 26 16 * max 1 s.power.frameCount) && decide (t.power.hotRule < deg 85)

/-- POWER_FRAME_END: at the end of a frame the power step, the end of a fast event, the cap and the boost of the next one are
decided. -/
def execPowerFrameEnd (s : State) : Host.Outcome State Fault Refusal :=
  if !governed s then done s s
  else
    let t := frameEnded s
    done s { t with power := { t.power with boost := boostAfter s t } }

/-- FAST_EVENT: a core-rail monitor exceeds its fast limit: clock step 3, no boost, until the first whole frame after the last
excess has ended. -/
def execFastEvent (ocw : Nat) (s : State) : Host.Outcome State Fault Refusal :=
  if !governed s || decide (4 ≤ ocw) then done s s
  else
    let p := s.power
    done s (setClock 2
      { s with power :=
        { p with
          fast := true
          boost := false
          fastFrames := 2
          fastEvents := if p.fast then p.fastEvents else sat32 (p.fastEvents + 1) } })

/-- PWR_CAP (Table 17.3): the cap from the next frame on. -/
def execPwrCap (c : MgmtCmd) (s : State) : Host.Outcome State Fault Refusal :=
  mgmtCmd c (c.role == .operator || c.role == .board) s
    (if c.arg0 < 600 ∨ 1800 < c.arg0 ∨ c.arg1 ≠ 0 ∨ c.arg2 ≠ 0 ∨ c.arg3 ≠ 0 ∨ c.input ≠ [] then mgmtAnswer c stFormat 0 [] s
     else mgmtAnswer c stOk 0 [] { s with power := { s.power with capNext := some (min c.arg0 (pwrLimit s)) } })

/-! ### Latched steps (R387) -/

/-- THROTTLE_LATCH: at the start of a 1 ms window the steps in force are latched; a window that starts throttled is counted for
every partition. -/
def execThrottleLatch (s : State) : Host.Outcome State Fault Refusal :=
  if !serving s then done s s
  else
    let up := decide (0 < s.dir.step) || decide (0 < s.power.clockStep)
    let parts : List (Nat × Part) := s.parts.map fun x => (x.1, if up then { x.2 with throtMs := sat32 (x.2.throtMs + 1) } else x.2)
    done s { s with parts := parts, power := { s.power with latchDir := s.dir.step, latchClk := s.power.clockStep } }

end Sys2Proof.Machine
end

