-- ==== Sys2Proof/Machine/Wear.lean ====
section
/-!
DEFINITION. Faults and wear (chapter 14): errors of memory and of lanes classified (R416, R417), data that is lost (R418, Table
14.4), the repair of a row and the retirement of pages, pseudo-channels, lanes and dies (R419 to R423), health scores and the
expulsion budget (R424, R425), and the wear record (R426, R450).
-/

namespace Sys2Proof.Machine

open Sys2Proof

/-! ### TLM_WEARCFG and the budget (R424) -/

def wearCfg (s : State) : Nat := regWord s 0x01990008
def budgetPc (s : State) : Nat := bitsOf (wearCfg s) 3 0
def budgetLane (s : State) : Nat := bitsOf (wearCfg s) 7 4
def hsThresh (s : State) : Nat := max 1 (bitsOf (wearCfg s) 17 8)
def laneErr (s : State) : Nat := max 1 (bitsOf (wearCfg s) 31 24)
def dayNs : Nat := 86400000000000

/-- How many of some times lie within the last 24 hours; one that began at the present instant counts too, since commands are
taken one after another (log 64). -/
def inDay (s : State) (ts : List Nat) : Nat := ts.countP fun t => decide (s.tb.now ≤ t + dayNs)

/-- SOURCE of the memory base die of a pseudo-channel. -/
def mbSource (g : Nat) : Nat := 0x10 + g / 64

/-! ### The wear record (R450) -/

/-- The region offset of a pseudo-channel's slot in the configuration memory. -/
def wearSlot (g : Nat) : Nat := 0x80000 + 2048 * g

/-- A retired page takes the first erased entry of its pseudo-channel's slot. -/
def wearPage (p : Nat) (s : State) : State :=
  let a := wearSlot (pagePc p) + 16
  match (List.range 358).find? fun k => norRead s (a + 4 * k) 4 == List.replicate 4 0xFF#8 with
  | none => s
  | some k => norWrite (a + 4 * k) (leBytes 2 (p % pcPages) ++ leBytes 2 (65535 - p % pcPages)) s

/-- A retired pseudo-channel: its RETIRED word is programmed to zeros (DESIGN CHOICE, log 64: any other value than all ones). -/
def wearPc (g : Nat) (s : State) : State := norWrite (wearSlot g) (zeroBytes 4) s

/-- A bit of the unit bitmap is cleared: lane or module l, or 512 + d for a die. -/
def wearUnit (b : Nat) (s : State) : State :=
  let a := 0x27F000 + b / 8
  norWrite a [(norRead s a 1).headD 0#8 &&& ~~~(1#8 <<< (b % 8))] s

/-! ### Scores (R424) -/

def updPcHealth (g : Nat) (f : PcHealth → PcHealth) (s : State) : State :=
  { s with health := { s.health with pcs := mset s.health.pcs g (f (pcHealth s g)) } }
def laneHealth (s : State) (l : Nat) : LaneHealth := mget {} s.health.lanes l
def updLane (l : Nat) (f : LaneHealth → LaneHealth) (s : State) : State :=
  { s with health := { s.health with lanes := mset s.health.lanes l (f (laneHealth s l)) } }
def dieHealth (s : State) (d : Nat) : DieHealth := mget {} s.health.dies d

/-- A die takes a share of what its units take; it never retires for its score, but asks for its replacement. -/
def addDie (d k : Nat) (s : State) : State :=
  let old := (dieHealth s d).score
  let new := min 1023 (old + k)
  let s1 := { s with health := { s.health with dies := mset s.health.dies d { dieHealth s d with score := new } } }
  if old < hsThresh s ∧ hsThresh s ≤ new then
    logEvent 0x0903 d none d [new] { s1 with health := { s1.health with replaceReq := true } }
  else s1

/-- A pseudo-channel in service becomes a candidate for retirement. -/
def makeCandidate (g cause : Nat) (s : State) : State :=
  updPcHealth g (fun h => if h.candidate.isSome then h else { h with candidate := some cause }) s

/-- An addition of Table 14.9 to a pseudo-channel. -/
def addPc (g k : Nat) (s : State) : State :=
  let new := min 1023 ((pcHealth s g).score + k)
  let s1 := addDie (mbSource g) (k / 2) (updPcHealth g (fun h => { h with score := new }) s)
  if hsThresh s ≤ new then makeCandidate g 2 s1 else s1

/-! ### Capacity (R426, R427) -/

/-- The capacity is advertised again after a change; the floor is 10,321,920 pages. -/
def readvertise (s : State) : State :=
  let n := poolPages s
  let s1 := logEvent 0x0901 srcCt none 0 [n] s
  if n < 10321920 ∧ !s1.health.belowFloor then
    logEvent 0x0902 srcCt none 0 [n] { s1 with health := { s1.health with belowFloor := true, replaceReq := true } }
  else s1

/-! ### Who holds a page -/

/-- The first page entry that names a page: descriptor, stream, index, entry. -/
def entryAt (s : State) (p : Nat) : Option (Nat × Nat × Nat × PageEntry) :=
  firstSome (fun (x : Nat × Desc) =>
    firstSome (fun (y : Stream × Nat) =>
      (y.1.entries.zipIdx.find? fun z => residentPage (locOf s x.2 z.1) == some p).map fun z => (x.1, y.2, z.2, z.1))
      x.2.streams.zipIdx) s.descs

/-- The reference entry that names a page. -/
def refAt (s : State) (p : Nat) : Option Nat := (s.refs.find? fun x => residentPage (locOfRef x.2) == some p).map (·.1)

/-- A page number replaced in a list. -/
def rePage (p q : Nat) (l : List Nat) : List Nat := l.map fun x => if x = p then q else x

/-- Every record that names page `p` names `q` from here on. -/
def renamePage (p q : Nat) (s : State) : State :=
  let entry : PageEntry → PageEntry := fun e => if !e.swapped && !e.lost && !e.shared && e.page == p then { e with page := q } else e
  let streams : Desc → List Stream := fun d => d.streams.map fun st => { st with entries := st.entries.map entry }
  let refEntry : RefEntry → RefEntry := fun r => if !r.swapped && !r.lost && r.page == p then { r with page := q } else r
  let swapKey : Nat × Staging → Nat × Staging := fun x => if x.1 = p then (q, x.2) else x
  let slot : Slot → Slot := fun x => { x with pages := x.pages.map fun y => if y.2 = p then (y.1, q) else y }
  let ring : Ring → Ring := fun x => { x with sqPages := rePage p q x.sqPages, cqPages := rePage p q x.cqPages }
  { s with
    descs := s.descs.map fun x => (x.1, { x.2 with streams := streams x.2 })
    refs := s.refs.map fun x => (x.1, refEntry x.2)
    staging := sortBy (fun a b => decide (a.1 ≤ b.1)) (s.staging.map swapKey)
    accSets := s.accSets.map fun a => { a with pages := a.pages.map fun y => if y.1 = p then (q, y.2) else y }
    parts := s.parts.map fun x => (x.1, { x.2 with placement := rePage p q x.2.placement })
    fab :=
      { s.fab with
        conns := s.fab.conns.map fun x => (x.1, { x.2 with slots := x.2.slots.map fun y => (y.1, slot y.2) })
        bufs := s.fab.bufs.map fun x => (x.1, { x.2 with pages := rePage p q x.2.pages })
        bodies := s.fab.bodies.map fun x => (x.1, x.2.1, rePage p q x.2.2.1, x.2.2.2)
        demand := s.fab.demand.map fun x =>
          { x with pages := x.pages.map fun y => if y.2.2 = p then (y.1, y.2.1, q) else y } }
    host :=
      { s.host with
        rings := s.host.rings.map fun x => (x.1, ring x.2)
        ctlPages := s.host.ctlPages.map fun x => if x.2 = p then (x.1, q) else x } }

/-! ### Moving and losing a page (R406, R419 step 1) -/

/-- Bytes of a page that nothing can read any more. -/
def lostBytes (s : State) : List Byte × State :=
  let t := freeTick s
  ((List.range pageSize).map fun k => Config.indeterminate (2 ^ 51 + 65536 * t.1 + k), t.2)

/-- What the page mover brings to a page's new place: its bytes, or free values where its die is lost (`gone`). -/
def movedBytes (p : Nat) (gone : Bool) (s : State) : List Byte × State :=
  if gone then lostBytes s else (hbmRead s (pageAddr p) pageSize, s)

/-- The page mover copies a page to a free page of the next pseudo-channel of its partition's rotation (R70); none where the
partition has no free page. -/
def movePage (p : Nat) (gone : Bool) (s : State) : Option State :=
  match mfind s.pages p with
  | none => none
  | some r =>
    match allocPage r.part (pcIndex s r.part (pagePc p) + 1) r.exc s with
    | none => none
    | some (q, s1) =>
      let t := movedBytes p gone s1
      let s2 := chargeReads r.part (if gone then 0 else pageSize) (hbmWrite (pageAddr q) t.1 t.2)
      let s3 := renamePage p q { s2 with pages := mset s2.pages q { r with use := r.use } }
      some (leavePage p { s3 with pages := mset s3.pages p { r with use := .inUse } })

/-- Without a free page, the page goes out to a swap slot (R358); none where no slot is free or nothing can name it. -/
def moveOut (p : Nat) (s : State) : Option State :=
  match entryAt s p with
  | none => none
  | some (m, i, j, _) =>
    match (desc? s m).bind fun d => (part? s d.part).bind (·.swapArea) with
    | none => none
    | some a =>
      match freeSlots a 1 with
      | k :: _ => if hostUsable s then some (swapOutOne m i j k s) else none
      | [] => none

/-- A page's rows that belong to an open tail (R212): the pages of a stream that hold one. -/
def tailPages (d : Desc) (st : Stream) : List Nat :=
  match d.chrysalis with
  | none => []
  | some c => ((List.range (c.counts.getD st.layerIdx 0)).map fun k => (placeIn st (c.base + k)).1).dedup

/-- The accepted commit of a tail that fails is the request that needs the failed part: it is answered as Table 14.4 states, and the
rows that it has sent leave the replica behind a primary that never commits them, so it is ABSENT from then on (log 76). -/
def failCommit (m : Nat) (s : State) : State :=
  let mine : ReplWait → Bool := fun w => match w.next with | .commit k _ => k == m | _ => false
  let ws := s.fab.replWaits.filter mine
  let s1 := ws.foldl (fun s w => answerUnavailable w.req w.op m s)
    { s with fab := { s.fab with replWaits := s.fab.replWaits.filter fun w => !mine w } }
  if ws.isEmpty then s
  else forceDrop m 3 (match desc? s1 m with
    | some d => if d.repl.state = .sync then makeAbsent m false 0xFF s1 else s1
    | none => s1)

/-- A tail whose page or record fails is dropped, and its tag kept (Table 14.4); one past its deadline had ended before (R224). -/
def failTail (m : Nat) (s : State) : State :=
  if commitPending s m then failCommit m s
  else
    let s1 := expireTail m s.tb.now s
    match desc? s1 m with
    | none => s1
    | some d =>
      if d.chrysalis.isNone then s1
      else forceDrop m 3 (updDesc m (fun d => { d with repl := { d.repl with keptTag := d.specTag } }) s1)

/-- The replica holds a page of the descriptor (R406). -/
def pageHeldByReplica (d : Desc) (e : PageEntry) : Bool := replicaHolds d && e.repl == 2

/-- One page entry fails: PAGE_FETCH where the replica holds it, else LOST (Table 14.4). -/
def failEntry (m i j : Nat) (s : State) : State :=
  match desc? s m with
  | none => s
  | some d =>
    match (d.streams[i]?).bind (·.entries[j]?) with
    | none => s
    | some e => if e.fetching then s else if pageHeldByReplica d e then queueFetch m i j s else loseEntry m i j s

/-- A shared page fails: the first descriptor whose replica holds it fetches it, else it is lost for all. -/
def failRef (idx : Nat) (s : State) : State :=
  let held := firstSome (fun (x : Nat × Desc) =>
    firstSome (fun (y : Stream × Nat) =>
      (y.1.entries.zipIdx.find? fun z => z.1.shared && z.1.refIdx == idx && (z.1.fetching || pageHeldByReplica x.2 z.1)).map
        fun z => (x.1, y.2, z.2, z.1.fetching)) x.2.streams.zipIdx) s.descs
  match held with
  | some (m, i, j, fetching) => if fetching then s else queueFetch m i j s
  | none => loseRef idx s

/-- A page that cannot be read any more, or cannot be moved, fails (R406). -/
def failPage (p : Nat) (s : State) : State :=
  match mfind s.staging p with
  | some _ => discardStaged p s
  | none =>
    match refAt s p with
    | some idx => failRef idx s
    | none =>
      match entryAt s p with
      | none => s
      | some (m, i, j, _) =>
        let tail := match desc? s m with
          | some d => (match d.streams[i]? with | some st => (tailPages d st).contains j | none => false)
          | none => false
        let s1 := if tail then failTail m s else s
        match entryAt s1 p with
        | some (m, i, j, _) => failEntry m i j s1
        | none => s1

/-- A descriptor's MDB, extension or PLB fails: the key is kept and marked failed (Table 14.4). -/
def failDesc (m : Nat) (s : State) : State := updDesc m (fun d => { d with failed := true }) s

/-- A metadata block fails. -/
def failMdb (m : Nat) (s : State) : State :=
  match desc? s m with
  | some _ => failDesc m s
  | none =>
    match s.descs.find? fun x => (chainMdbs x.2).contains m with
    | some x => failDesc x.1 s
    | none => s

/-- An accumulator set fails or is freed: its held requests are answered (Table 14.4). -/
def failSet (m layer : Nat) (s : State) : State :=
  match accSet? s m layer with
  | none => s
  | some a =>
    let s1 := updDesc m (fun d => { d with repl := { d.repl with failedSets := d.repl.failedSets ++ [layer] } }) (dropAccSet m layer s)
    (a.held ++ a.turn).foldl (fun s h => answerUnavailable h.req 3 m s) s1

/-! ### MEMORY_ERROR (R416, R418) -/

/-- Whether the re-reads of an error leave it transient, and whether its data is lost (Table 14.8). -/
def classify (first : ReadOutcome) (rereads : List ReadOutcome) : Bool × Bool :=
  let three := (List.range 3).map fun k => rereads.getD k .clean
  if first = .correctable then (three.all (· == .clean), false)
  else (three.any (· != .uncorrectable), three.all (· == .uncorrectable))

/-- The accumulator allocation that holds a byte of a flexible area, counted from its top (R34; their order is that of the sets,
log 64). -/
def accAt (g : Nat) : Nat → List (Nat × Nat × Nat × Nat) → Option (Nat × Nat)
  | _, [] => none
  | off, (p, n, m, l) :: rest => if pagePc p ≠ g then accAt g off rest else if off < n then some (m, l) else accAt g (off - n) rest

/-- Data of one codeword is lost: what lies at (bank, row, col) of a pseudo-channel fails. Firmware data, tables, programs and
connection records are taken from their duplicates (R418). Bytes of pages that are neither cache nor staged are free values. -/
def loseAt (g bank row col : Nat) (s : State) : State :=
  if row < 4480 then
    let p := g * pcPages + 4 * row + bank / 8
    match mfind s.pages p with
    | none => s
    | some r =>
      if r.use = .inUse ∨ r.use = .staged then
        if (mfind s.staging p).isSome || (refAt s p).isSome || (entryAt s p).isSome then failPage p s
        else
          let t := freeTick s
          hbmWrite (unitAddr g bank row (col % 8192 / 64)) ((List.range 64).map fun k => Config.indeterminate (2 ^ 50 + 64 * t.1 + k)) t.2
      else s
  else if 4484 ≤ row ∧ row < 4516 then failMdb (g * pcMdbs + (((row - 4484) * 32 + bank) * 8192 + col) / 512) s
  else if 4520 ≤ row then
    let off := flexBytes - 1 - (((row - 4520) * 32 + bank) * 8192 + col)
    match accAt g off (s.accSets.flatMap fun a => a.pages.map fun y => (y.1, y.2, a.mdb, a.layer)) with
    | some (m, l) => failSet m l s
    | none => s
  else s

/-- The requests whose page tasks read a page that cannot be read any more are answered under Table 14.4 (R190, R418): nothing that they
have read of it enters a response. -/
def failReaders (p : Nat) (s : State) : State :=
  let hit := (s.sched.tasks.filter fun x => x.2.page == p).filterMap fun x => (job? s x.2.job).map fun y => (y.run, x.2.mdb)
  hit.foldl (fun s x => match mfind s.sched.runs x.1 with
    | some y => answerUnavailable y.req y.op x.2 (cancelRun x.1 y s)
    | none => s) s

/-- A Moss task that an uncorrectable codeword of its page has stopped runs again from its first step (R190). -/
def restartMoss (g p : Nat) (s : State) : State :=
  match (pcCtl s g).mossCur with
  | some (t, _) =>
    match task? s t with
    | some x =>
      let k := match (pcCtl s g).body with | .moss _ k _ => k | _ => 0
      if x.page = p then updPc g (fun c => { c with mossCur := some (t, taskSteps x + k) }) s else s
    | none => s
  | none => s

/-- An uncorrectable codeword of a page as its readers meet it: data that a re-read brought serves them, lost data fails them. -/
def meetReaders (g bank row : Nat) (lost : Bool) (s : State) : State :=
  match rowPage g (bank / 8) row with
  | none => s
  | some p => if lost then afterWork (failReaders p s) else restartMoss g p s

/-- MEMORY_ERROR: a codeword error is re-read and classified (R416). `unit` is the codeword of the row; a code-stale row is not read
(R207). -/
def execMemoryError (g bank row unit : Nat) (first : SymErrors) (rereads : List SymErrors) (s : State) :
    Host.Outcome State Fault Refusal :=
  let one := readOutcome first
  if !serving s || !pcInService s g || decide (768 ≤ g) || decide (32 ≤ bank) || decide (4608 ≤ row) || one == .clean || isStale s g bank row then
    done s s
  else
    let found := (pcCtl s g).scrubErr == some (bank, row)
    let s1 := if found then updPc g (fun c => { c with scrubErr := none }) s
      else updMemDie (pcDie g) (fun d =>
        { d with
          corrected := if one = .correctable then sat32 (d.corrected + 1) else d.corrected
          uncorrected := if one = .uncorrectable then sat32 (d.uncorrected + 1) else d.uncorrected }) s
    let (transient, lost) := classify one (rereads.map readOutcome)
    let seen := (pcHealth s g).transients.countP fun x => x.1 == bank && x.2.1 == row && decide (s.tb.now ≤ x.2.2 + dayNs)
    let s2 :=
      if transient && decide (seen < 3) then
        addPc g (if one = .uncorrectable then 16 else 1)
          (updPcHealth g (fun h => { h with transients := (h.transients.filter fun x => decide (s.tb.now ≤ x.2.2 + dayNs)) ++ [(bank, row, s.tb.now)] })
            (logEvent 0x0101 (mbSource g) none g [bank, row, bnat (one == .uncorrectable)] s1))
      else
        updPcHealth g (fun h =>
          { h with
            permFaults := sat32 (h.permFaults + 1)
            faults := if h.faults.contains (bank, row) then h.faults else h.faults ++ [(bank, row)] })
          (logEvent 0x0103 (mbSource g) none g [bank, row] s1)
    if one = .correctable then
      let a := unitAddr g bank row unit
      done s (hbmWrite a (decodedData (hbmRead s a 64) first) s2)
    else done s (meetReaders g bank row lost (if lost then loseAt g bank row (64 * unit) s2 else s2))

/-! ### PAGE_REPAIR (R419, R420) -/

def endFault (g bank row : Nat) (s : State) : State :=
  updPcHealth g (fun h => { h with faults := h.faults.filter (· != (bank, row)) }) s

/-- Spare rows used in a pseudo-channel, and in one bank of it: hard repairs are permanent. -/
def sparesUsed (s : State) (g : Nat) : Nat := s.nv.repaired.countP fun x => x.1 == g
def bankUsed (s : State) (g bank : Nat) : Nat := s.nv.repaired.countP fun x => x.1 == g && x.2.1 == bank

/-- The bank has a spare row left. -/
def hasSpare (s : State) (g bank : Nat) : Bool := decide (bankUsed s g bank < 2) && decide (sparesUsed s g < 64)

/-- Hard post-package repair of a row. -/
def remapRow (g bank row : Nat) (s : State) : State :=
  let s1 := endFault g bank row { s with nv := { s.nv with repaired := s.nv.repaired ++ [(g, bank, row)] } }
  addPc g 48 (logEvent 0x0104 (mbSource g) none g [bank, row, 64 - sparesUsed s1 g] s1)

/-- A page is retired (R420); the 359th makes its pseudo-channel a candidate (R421). -/
def retirePage (p : Nat) (s : State) : State :=
  let g := pagePc p
  let r : PageRec := { use := .retired, part := (ownerOf s g).getD 64 }
  let s1 := wearPage p { hbmZero (pageAddr p) pageSize s with pages := mset s.pages p r }
  let s2 := updPcHealth g (fun h => { h with faults := h.faults.filter fun x => g * pcPages + 4 * x.2 + x.1 / 8 != p }) s1
  let s3 := readvertise (addPc g 96 (logEvent 0x0105 (mbSource g) none g [p] s2))
  if 359 ≤ pcRetiredPages s3 g then makeCandidate g 0 s3 else s3

/-- The entry of a page waits for its PAGE_FETCH, whose copy goes to a new page. -/
def fetchingAt (s : State) (p : Nat) : Bool := match entryAt s p with | some (_, _, _, e) => e.fetching | none => false

/-- Step 1: the page is emptied, or the repair waits. -/
def vacate (p : Nat) (s : State) : State :=
  match mfind s.pages p with
  | none => s
  | some r =>
    if (r.use = .inUse ∨ r.use = .staged) ∧ !fetchingAt s p ∧ !(s.fab.copies.any fun c => c.src == p || c.dst == p) then
      match movePage p false s with
      | some s1 => s1
      | none => (moveOut p s).getD s
    else s

/-- Steps 2 and 3, once nothing holds the page. -/
def repairRow (g bank row p : Nat) (s : State) : State :=
  let free := match mfind s.pages p with | none => true | some r => r.use == .zeroing
  if !free then s
  else if hasSpare s g bank then remapRow g bank row s
  else retirePage p s

/-- PAGE_REPAIR: a row with a permanent fault is repaired, or its page retired; the command is repeated while the repair waits. -/
def execPageRepair (g bank row : Nat) (s : State) : Host.Outcome State Fault Refusal :=
  if !serving s || !pcInService s g || !(pcHealth s g).faults.contains (bank, row) then done s s
  else if row < 4480 then
    let p := g * pcPages + 4 * row + bank / 8
    match mfind s.pages p with
    | some { use := .retired, .. } => done s (endFault g bank row s)
    | _ => done s (repairRow g bank row p (vacate p s))
  else if hasSpare s g bank then done s (remapRow g bank row s)
  else done s (makeCandidate g 1 (endFault g bank row s))

/-! ### PC_RETIRE (R421, R424, R425) -/

/-- A number replaced by another. -/
def reNat (a b x : Nat) : Nat := if x = a then b else x

/-- A descriptor moves to another MDB: every record that names it follows, its key by replacement (R90). The descriptor of a clone that
is not answered has no key yet (R67). -/
def renameDesc (m k : Nat) (s : State) : State :=
  match desc? s m with
  | none => s
  | some d =>
    let re := reNat m k
    let then_ : ReplThen → ReplThen := fun x => match x with
      | .answer => .answer
      | .append a l t h => .append (re a) l t h
      | .commit a n => .commit (re a) n
      | .closed t c => .closed t c
    let run : Running → Running := fun x =>
      { x with mdbs := x.mdbs.map re, undo := x.undo.map fun u => (re u.1, u.2.1, u.2.2.map fun a => { a with mdb := re a.mdb }) }
    let plan : TaskPlan → TaskPlan := fun x => { x with mdb := re x.mdb }
    let key := seqKey d.tenant d.seqId d.layerGroup
    let rekey : State → State := fun s =>
      match dirSearch s d.part key with
      | some (_, e) => if dataMdb e.data.toNat = m then dirReplace d.part key (seqData k (dataLc e.data.toNat)) s else s
      | none => s
    rekey
      { s with
        descs := mset (mdel s.descs m) k d
        mdbs := mdel s.mdbs m
        staging := s.staging.map fun x => (x.1, { x.2 with mdb := re x.2.mdb })
        accSets := s.accSets.map fun a => { a with mdb := re a.mdb }
        fab :=
          { s.fab with
            repl := s.fab.repl.map fun x => { x with mdb := x.mdb.map re }
            replWaits := s.fab.replWaits.map fun w => { w with places := w.places.map re, next := then_ w.next }
            demand := s.fab.demand.map fun x => { x with mdb := re x.mdb }
            ahead := s.fab.ahead.map fun x => (re x.1, x.2)
            stalled := s.fab.stalled.map fun x => { x with mdb := re x.mdb }
            copies := s.fab.copies.map fun x => { x with mdb := re x.mdb, from_ := re x.from_ }
            clones := s.fab.clones.map fun x => { x with srcs := x.srcs.map re, news := x.news.map fun y => (re y.1, y.2) } }
        sched :=
          { s.sched with
            runs := s.sched.runs.map fun x => (x.1, run x.2)
            jobs := s.sched.jobs.map fun x => (x.1, { x.2 with plan := x.2.plan.map plan })
            tasks := s.sched.tasks.map fun x => (x.1, { x.2 with mdb := re x.2.mdb }) }
        epochs := { s.epochs with announceWait := s.epochs.announceWait.map fun x => (x.1, x.2.map re) } }

/-- A stream extension, a PLB or a block of a buffer or a body moves to another MDB. -/
def renameChain (m k : Nat) (s : State) : State :=
  let re := reNat m k
  let slot : Slot → Slot := fun x => { x with mdbs := x.mdbs.map re }
  { s with
    mdbs := mdel s.mdbs m
    descs := s.descs.map fun x =>
      (x.1, { x.2 with exts := x.2.exts.map re, streams := x.2.streams.map fun st => { st with plbs := st.plbs.map re } })
    fab :=
      { s.fab with
        bufs := s.fab.bufs.map fun x => (x.1, { x.2 with mdbs := x.2.mdbs.map re })
        bodies := s.fab.bodies.map fun x => (x.1, x.2.1, x.2.2.1, x.2.2.2.map re)
        conns := s.fab.conns.map fun x => (x.1, { x.2 with slots := x.2.slots.map fun y => (y.1, slot y.2) }) } }

/-- A reference entry moves to another index. -/
def renameRef (i k : Nat) (s : State) : State :=
  match mfind s.refs i with
  | none => s
  | some r =>
    let entry : PageEntry → PageEntry := fun e => if e.shared && e.refIdx == i then { e with refIdx := k } else e
    let prefixes := s.dir.entries.filter fun x => keyIsPrefix x.2.key && dataRef x.2.data.toNat == i && mget 64 s.dir.segOwn (x.1 / segSize) == (ownerOf s (i / pcRefs)).getD 64
    prefixes.foldl (fun s x => dirPut x.1 (dirWord x.2.key 4 k) s)
      { s with
        refs := mset (mdel s.refs i) k r
        staging := s.staging.map fun x => (x.1, { x.2 with refIdx := x.2.refIdx.map (reNat i k) })
        descs := s.descs.map fun x =>
          (x.1, { x.2 with streams := x.2.streams.map fun st => { st with entries := st.entries.map entry } }) }

/-- The new place of an MDB by its kind (R498): a descriptor's, a stream extension or PLB beside its descriptor, or another. -/
def newMdbFor (n m : Nat) (s : State) : Option (Nat × State) :=
  if (desc? s m).isSome then allocDescMdb n s
  else match s.descs.find? fun x => (chainMdbs x.2).contains m with
    | some x => (allocChainMdbs n x.1 1 s).bind fun y => y.1.head?.map fun k => (k, y.2)
    | none => allocOtherMdb n s

/-- An MDB holds a descriptor, or a part of one. -/
def ofDesc (s : State) (m : Nat) : Bool := (desc? s m).isSome || s.descs.any fun x => (chainMdbs x.2).contains m

/-- One MDB of a retiring pseudo-channel moves, or what it holds fails: that of a descriptor on a lost die. -/
def moveMdb (n : Nat) (gone : Bool) (m : Nat) (s : State) : State :=
  if gone && ofDesc s m then failMdb m s
  else match newMdbFor n m s with
  | none => failMdb m s
  | some (k, s1) => if (desc? s m).isSome then renameDesc m k s1 else renameChain m k s1

/-- The MDBs of a retiring pseudo-channel move, descriptors first. -/
def moveMdbs (n g : Nat) (gone : Bool) (s : State) : State :=
  let mine := (s.mdbs.filter fun x => x.1 / pcMdbs == g).map (·.1)
  ((mine.filter fun m => (desc? s m).isSome) ++ mine.filter fun m => (desc? s m).isNone).foldl (fun s m => moveMdb n gone m s) s

/-- One reference entry of a retiring pseudo-channel moves (R498: from the shared page's pseudo-channel on; that of a swapped page from
its own on, log 86), or fails. -/
def moveRef (n i : Nat) (s : State) : State :=
  let g := match (mfind s.refs i).bind fun r => residentPage (locOfRef r) with | some p => pagePc p | none => i / pcRefs
  match refSlotFor s n g with
  | none => failRef i s
  | some k => renameRef i k s

/-- A page holds cache rows: its own descriptor's, or those of a reference entry. -/
def ofCache (s : State) (p : Nat) : Bool := (refAt s p).isSome || (entryAt s p).isSome

/-- One page of a retiring pseudo-channel moves as in step 1 of R419, or fails: a page of the cache on a lost die. -/
def movePageAway (gone : Bool) (p : Nat) (s : State) : State :=
  match mfind s.pages p with
  | none => s
  | some r =>
    if r.use ≠ .inUse ∨ fetchingAt s p then s
    else if gone && ofCache s p then failPage p s
    else match movePage p gone s with
      | some s1 => s1
      | none => match moveOut p s with
        | some s1 => s1
        | none => failPage p s

/-- Weight sets that no longer find room in the flexible areas of their partition are unloaded (R421, R391). -/
def fitWeights (n : Nat) (s : State) : State :=
  match part? s n with
  | none => s
  | some p =>
    p.wsets.reverse.foldl (fun s w =>
      if (ownedPcs s n).isEmpty || (ownedPcs s n).any (fun g => decide (flexBytes < flexUsed s g)) then
        updPart n (fun p => { p with wsets := p.wsets.filter fun x => x.id != w.id }) (measure n 2 1 w.id w.image s)
      else s) s

/-- The page tasks of a retiring pseudo-channel end with its Moss unit: their rows were read (log 64). -/
def endTasksIn (g : Nat) (s : State) : State :=
  let ts := s.sched.tasks.filter fun x => pagePc x.2.page == g
  ts.foldl (fun s x => afterWork (settleJob x.2.job (endTask x.1 s))) s

/-- What the partition keeps in a retiring pseudo-channel leaves it (step 2). -/
def leavePc (n g : Nat) (gone : Bool) (s : State) : State :=
  let sets := s.accSets.filter fun a => a.pages.any fun y => pagePc y.1 == g
  let s1 := sets.foldl (fun s a => failSet a.mdb a.layer s) (endTasksIn g s)
  let s2 := (s1.staging.filter fun x => pagePc x.1 == g).foldl (fun s x => discardStaged x.1 s) s1
  let s3 := s2.dir.entries.foldl (fun s x =>
    if !keyIsPrefix x.2.key || mget 64 s.dir.segOwn (x.1 / segSize) != n then s
    else match mfind s.refs (dataRef x.2.data.toNat) with
      | some r => if r.refs = 1 ∧ residentPage (locOfRef r) ≠ none ∧ pagePc r.page = g then dropPrefixKey n x.1 (dataRef x.2.data.toNat) s else s
      | none => s) s2
  let s4 := (s3.pages.filter fun x => pagePc x.1 == g).foldl (fun s x => movePageAway gone x.1 s) s3
  let s5 := moveMdbs n g gone s4
  (s5.refs.filter fun x => x.1 / pcRefs == g).foldl (fun s x => moveRef n x.1 s) s5

/-- A pseudo-channel retires (R421). Nothing can be read of one that a lost die takes with it (cause 3): its pages and descriptors fail
under R406 (DEDUCED, log 64). -/
def retirePc (g cause : Nat) (s : State) : State :=
  let gone := cause == 3
  let s0 := (s.fab.copies.filter fun c => pagePc c.dst == g).foldl (fun s c => if gone then failClone c s else moverCopy c s) s
  let s1 := updPcHealth g (fun h => { h with state := .retiring, candidate := none, faults := [] }) s0
  let owner := ownerOf s1 g
  let s2 := match owner with | some n => leavePc n g gone s1 | none => s1
  let s3 := wipePc g s2
  let parts : List (Nat × Part) := s3.parts.map fun x => (x.1, { x.2 with pcs := x.2.pcs.filter (· != g) })
  let s4 := updPcHealth g (fun h => { h with state := .retired }) { s3 with parts := parts }
  let s5 := match owner with | some n => fitWeights n s4 | none => s4
  let s6 := if cause = 3 then s5 else { s5 with health := { s5.health with pcRetirements := s5.health.pcRetirements ++ [s.tb.now] } }
  readvertise (addDie (mbSource g) 128 (logEvent 0x0107 (mbSource g) owner g [cause] (wearPc g s6)))

/-- The units of a health table in degraded-kept state, by falling score and then rising index (R425). -/
def keptOrder (l : List (Nat × Nat)) : List Nat :=
  (sortBy (fun a b => decide (b.2 < a.2) || (a.2 == b.2 && decide (a.1 ≤ b.1))) l).map (·.1)

/-- One candidate retires within the budget, or is kept. -/
def tryRetirePc (g : Nat) (s : State) : State :=
  let h := pcHealth s g
  if inDay s s.health.pcRetirements < budgetPc s then retirePc g (h.candidate.getD 2) s
  else if h.state = .inService then
    logEvent 0x0106 (mbSource g) none g [h.score] (updPcHealth g (fun h => { h with state := .degradedKept }) s)
  else s

/-- PC_RETIRE: a candidate retires within the expulsion budget; degraded-kept units come first. -/
def execPcRetire (g : Nat) (s : State) : Host.Outcome State Fault Refusal :=
  let h := pcHealth s g
  if !serving s || h.candidate.isNone || !pcInService s g || decide (768 ≤ g) then done s s
  else
    let kept := keptOrder ((s.health.pcs.filter fun x => x.2.state == .degradedKept).map fun x => (x.1, x.2.score))
    done s ((kept ++ (if kept.contains g then [] else [g])).foldl (fun s x => tryRetirePc x s) s)

/-! ### Lanes and modules (R417, R422) -/

/-- The dies that a lane or module is a unit of (R430, Table 16.2). -/
def laneDies (l : Nat) : List Nat :=
  if l < 64 then [0x28 + l / 16]
  else if l < 80 then [0x30]
  else
    let m := l - 128
    if m < 192 then [0x10 + m / 16, 4 * (m / 48) + m % 16 / 4]
    else if m < 208 then [0x28 + (m - 192) / 4, m - 192]
    else if m < 272 then
      let x := (m - 208) / 2
      [if x < 16 then x else if x < 28 then x else 0x28 + (x - 28), 0x20 + m % 2]
    else if m < 276 then [0x20, 0x21]
    else
      let y := (m - 276) / 2
      [if y < 4 then 0x30 + y else 0x38 + (y - 4), 0x20 + m % 2]

/-- A lane or module that exists (R430). -/
def laneExists (l : Nat) : Bool := decide (l < 80) || (decide (128 ≤ l) && decide (l < 416))

/-- SOURCE of a lane's events: its die; of a module's, the die that Table 16.2 names first. -/
def laneSource (l : Nat) : Nat := (laneDies l).headD srcCt

def laneIn (s : State) (l : Nat) : Bool := (laneHealth s l).state == .inService || (laneHealth s l).state == .degradedKept

/-- The lanes of a fabric port that are in service, as a mask. -/
def goodLanesOf (s : State) (p : Nat) : Nat := ((List.range 8).map fun i => if laneIn s (8 * p + i) then 2 ^ i else 0).sum

/-- The lanes a native port can run on: all eight, lanes 0 to 3, or lanes 4 to 7 (R262). -/
def runLanes (mask : Nat) : Nat :=
  if mask % 256 = 255 then 0xFF else if mask % 16 = 15 then 0x0F else if mask / 16 % 16 = 15 then 0xF0 else 0

/-- A port runs on the lanes of a mask, or goes down without enough of them (R262; an Ethernet port needs all its lanes). -/
def settlePort (p mask : Nat) (s : State) : State :=
  let x := portOf s p
  let m := mask &&& goodLanesOf s p
  let mode := portMode s p
  if mode = 0 then
    let k := runLanes (m &&& x.lanes)
    if !x.upA then s
    else if k = 0 then updPort p (fun x => { x with upA := false, lanes := 0, linkVer := 0 }) s
    else updPort p (fun x => { x with lanes := k }) s
  else if mode = 1 then
    if m % 256 = 255 then s else updPort p (fun x => { x with upA := false, lanes := 0 }) s
  else
    let a := x.upA && decide (m % 16 = 15)
    let b := x.upB && decide (m / 16 % 16 = 15)
    updPort p (fun x => { x with upA := a, upB := b, lanes := bnat a * 0x0F + bnat b * 0xF0 }) s

/-- The CXL link narrows to eight lanes of one half, or goes down (Table 12.1). -/
def settleCxl (s : State) : State :=
  let half := fun (k : Nat) => (List.range 8).all fun i => laneIn s (64 + k + i)
  if !s.host.up || (half 0 && half 8) then s
  else if half 0 || half 8 then { s with host := { s.host with width := min 8 s.host.width } }
  else linkIsDown s

/-- A lane or module retires. -/
def retireLane (l : Nat) (s : State) : State :=
  let s1 := updLane l (fun h => { h with state := .retired, probation := 0 })
    { s with health := { s.health with laneRetirements := s.health.laneRetirements ++ [s.tb.now] } }
  let s2 := logEvent 0x0202 (laneSource l) none l [] (wearUnit l s1)
  let s3 := (laneDies l).foldl (fun s d => addDie d 128 s) s2
  if l < 64 then settlePort (l / 8) 0xFF s3 else if l < 80 then settleCxl s3 else s3

/-- One lane or module retires within the budget, or is kept (R425). -/
def tryRetireLane (l : Nat) (s : State) : State :=
  let h := laneHealth s l
  if inDay s s.health.laneRetirements < budgetLane s then retireLane l s
  else if h.state = .inService then
    logEvent 0x0203 (laneSource l) none l [h.score] (updLane l (fun h => { h with state := .degradedKept }) s)
  else s

/-- A candidate among the lanes: the degraded-kept ones retire first. -/
def retireLanes (l : Nat) (s : State) : State :=
  let kept := keptOrder ((s.health.lanes.filter fun x => x.2.state == .degradedKept).map fun x => (x.1, x.2.score))
  (kept ++ (if kept.contains l then [] else [l])).foldl (fun s x => tryRetireLane x s) s

/-- Redundant lanes of a die-to-die module, which training finds (log 65). -/
def moduleSpares : Nat := 4

/-- An addition of Table 14.9 to a lane or module. -/
def addLane (l k : Nat) (s : State) : State :=
  let new := min 1023 ((laneHealth s l).score + k)
  let s1 := (laneDies l).foldl (fun s d => addDie d (k / 2) s) (updLane l (fun h => { h with score := new }) s)
  if hsThresh s ≤ new then retireLanes l s1 else s1

/-- A permanent fault of a lane or module (R422): a module is repaired, then runs at half width; what neither helps takes the
full score. -/
def laneFault (l : Nat) (s : State) : State :=
  let h := laneHealth s l
  if 128 ≤ l ∧ h.repaired < moduleSpares then addLane l 64 (updLane l (fun h => { h with repaired := h.repaired + 1 }) s)
  else if 128 ≤ l ∧ !h.halfWidth then updLane l (fun h => { h with halfWidth := true }) s
  else addLane l (1023 - h.score) s

/-- LANE_ERROR_WINDOW: the frame replays of a lane or module in the 1 ms window that ended (R417). `retrained`: the retrain that
too many of them bring succeeds. -/
def execLaneErrorWindow (l replays : Nat) (retrained : Bool) (s : State) : Host.Outcome State Fault Refusal :=
  let h := laneHealth s l
  if !serving s || !laneExists l || !laneIn s l then done s s
  else if laneErr s < replays then
    let before := h.retrainTimes.filter fun t => decide (s.tb.now ≤ t + dayNs)
    let s1 := updLane l (fun h => { h with retrains := sat32 (h.retrains + 1), retrainTimes := before ++ [s.tb.now], probation := 3 }) s
    let s2 := logEvent 0x0201 (laneSource l) none l [replays] s1
    if retrained && decide (before.length < 3) then done s s2
    else done s (laneFault l (updLane l (fun h => { h with probation := 0 }) s2))
  else if h.probation = 0 then done s s
  else if replays = laneErr s then done s (updLane l (fun h => { h with probation := 0 }) s)
  else
    let s1 := updLane l (fun h => { h with probation := h.probation - 1 }) s
    done s (if h.probation = 1 then addLane l 8 s1 else s1)

/-! ### DIE_LOST (R423) -/

/-- A die of the package (Table 14.10). -/
def dieExists (d : Nat) : Bool :=
  decide (d < 0x1C) || d == 0x20 || d == 0x21 || (decide (0x28 ≤ d) && decide (d < 0x2C)) ||
    (decide (0x30 ≤ d) && decide (d < 0x34)) || d == 0x38 || d == 0x39

/-- A run whose work cannot go on ends with SCHEDULE_FAULT. -/
def faultRun (k : Nat) (s : State) : State :=
  let op := match mfind s.sched.runs k with | some y => y.op | none => 1
  failRun k stScheduleFault (refusedBody op stScheduleFault) s

/-- The cores of a lost die leave placement: a job is never migrated (R249), so requests with a job placed there, or waiting for a place
there, end with SCHEDULE_FAULT, and so do those whose jobs wait in a group that has no core left (log 64). -/
def leaveCores (d : Nat) (s : State) : State :=
  let empty := fun (g : Nat) => (List.range 4).all fun i => dieLost s (4 * g + i)
  let hit := s.sched.jobs.filter fun x => match x.2.core with
    | some c => c / 4 == d
    | none => (match x.2.lcPlace with | some y => y.1 / 4 == d | none => empty x.2.group)
  ((hit.map fun x => x.2.run).dedup).foldl (fun s k => faultRun k s) s

/-- Every pseudo-channel of a memory base die retires, outside the budget; allocation stops in all of them first. -/
def retireStack (b : Nat) (s : State) : State :=
  let gs := ((List.range 64).map fun k => 64 * b + k).filter fun g => (pcHealth s g).state != .retired
  gs.foldl (fun s g => retirePc g 3 s) (gs.foldl (fun s g => updPcHealth g (fun h => { h with state := .retiring }) s) s)

/-- What the loss of a die takes with it. -/
def loseDie (d : Nat) (s : State) : State :=
  if d < 16 then
    let s1 := readvertise (afterWork (leaveCores d s))
    if (List.range 4).all fun i => dieLost s1 (4 * (d / 4) + i) then
      (List.range 3).foldl (fun s i => retireStack (3 * (d / 4) + i) s) s1
    else s1
  else if d < 0x1C then retireStack (d - 0x10) s
  else if 0x28 ≤ d ∧ d < 0x2C then
    let n := d - 0x28
    let s1 := (List.range 2).foldl (fun s i => updPort (2 * n + i) (fun x => { x with upA := false, upB := false, lanes := 0, linkVer := 0 }) s) s
    ((s1.fab.conns.filter fun x => x.2.home == n).map (·.1)).foldl (fun s c => dropConn c s) s1
  else portsDown { s with health := { s.health with stopped := true } }

/-- Self-test runs of the units of a lost die end: their verdict is 3 (Table 16.6), and their commands are answered DATA_LOST
(DESIGN CHOICE, log 68). -/
def abortRuns (d : Nat) (s : State) : State :=
  let on : BistRunning → Bool := fun r =>
    let u := r.testId % 4096
    match r.testId / 4096 with
    | 1 => (laneDies (128 + u)).contains d
    | 2 => mbSource u == d
    | 3 => (laneDies u).contains d
    | 4 => (laneDies (64 + u)).contains d
    | 6 => (laneDies u).contains d
    | _ => false
  let dead := s.bist.running.filter on
  let results := dead.foldl (fun m r => mset m r.testId { mget {} m r.testId with verdict := 3, inService := false }) s.bist.results
  let s1 := { s with bist := { s.bist with running := s.bist.running.filter fun r => !on r, results := results } }
  dead.foldl (fun s r => match r.cmd with | some c => mgmtAnswer c stDataLost 0 [] s | none => s) s1

/-- DIE_LOST: a die has no module left in service. -/
def execDieLost (d : Nat) (s : State) : Host.Outcome State Fault Refusal :=
  if !s.boot.powered || s.health.stopped || s.boot.thermTrip || !dieExists d || dieLost s d then done s s
  else
    let s1 := { s with health :=
      { s.health with replaceReq := true, dies := mset s.health.dies d { dieHealth s d with lost := true } } }
    done s (loseDie d (abortRuns d (logEvent 0x0204 d none d [] (wearUnit (512 + d) s1))))

/-- HEALTH_DECAY: every hour each score falls by a sixteenth, rounded up (R424). -/
def execHealthDecay (s : State) : Host.Outcome State Fault Refusal :=
  if !serving s then done s s
  else
    let less : Nat → Nat := fun k => k - ceilDiv' k 16
    let pcs : List (Nat × PcHealth) := s.health.pcs.map fun x => (x.1, { x.2 with score := less x.2.score })
    let lanes : List (Nat × LaneHealth) := s.health.lanes.map fun x => (x.1, { x.2 with score := less x.2.score })
    let dies : List (Nat × DieHealth) := s.health.dies.map fun x => (x.1, { x.2 with score := less x.2.score })
    done s { s with health := { s.health with pcs := pcs, lanes := lanes, dies := dies } }

end Sys2Proof.Machine
end

