-- ==== Sys2Proof/Machine/SelfTest.lean ====
section
/-!
DEFINITION. The units of self-test and the start of a run (chapter 16): test IDs (R458, R459), when Table 16.4 lets a unit be tested,
and the runs that wait or are deferred (R462, R464).
-/

namespace Sys2Proof.Machine

open Sys2Proof

/-! ### Test IDs (Table 16.1) -/

def testClass (t : Nat) : Nat := t / 4096
def testUnit (t : Nat) : Nat := t % 4096

/-- Units of a class. -/
def classUnits (c : Nat) : Nat :=
  match c with
  | 1 => 288
  | 2 => 768
  | 3 => 64
  | 4 => 16
  | 5 => 1
  | 6 => 80
  | _ => 0

/-- A test ID that is not a reserved encoding. -/
def testExists (t : Nat) : Bool := decide (testUnit t < classUnits (testClass t))

/-- The unit under test: `some (some l)` lane or module l, `some none` the board, and none for a pseudo-channel. -/
def testLane (t : Nat) : Option Nat :=
  match testClass t with
  | 1 => some (128 + testUnit t)
  | 3 => some (testUnit t)
  | 4 => some (64 + testUnit t)
  | 6 => some (testUnit t)
  | _ => none

/-- Two tests are of one unit. -/
def sameUnit (a b : Nat) : Bool :=
  match testLane a, testLane b with
  | some l, some k => l == k
  | none, none => a == b
  | _, _ => false

/-! ### When a unit can be tested (Table 16.4) -/

/-- The unit is in service. -/
def testedInService (s : State) (t : Nat) : Bool :=
  match testLane t with
  | some l => laneIn s l && !(laneDies l).any (dieLost s)
  | none => testClass t == 2 && pcInService s (testUnit t) && !dieLost s (mbSource (testUnit t))

/-- The lanes that the port of a fabric lane runs on while the lane is under test: the other half of a native port (R262, R464); none
where the port carries nothing on the half that is tested. -/
def restLanes (s : State) (l : Nat) : Option Nat :=
  let x := portOf s (l / 8)
  let half := if l % 8 < 4 then 0x0F else 0xF0
  if x.upA && portMode s (l / 8) == 0 && x.lanes == 0xFF then some (0xFF - half) else none

/-- The port of a fabric lane that is up can spare the lane: a native port without entries in the active frond table, with its other
half (Table 16.4). A table's period is at most 100 µs, so each of its port entries comes in any 100 µs. -/
def portSpares (s : State) (l : Nat) : Bool :=
  let x := portOf s (l / 8)
  let half := if l % 8 < 4 then 0x0F else 0xF0
  portMode s (l / 8) == 0 && (x.lanes == 0xFF || (x.lanes &&& half) == 0) &&
    match activeTable s with
    | some f => !(f.entries.any fun e => e.kind == 1 && e.index == l / 8)
    | none => true

/-- Table 16.4: a fabric lane runs while its port can spare it or is down, a CXL lane while the CXL link is down, every other unit at
once; so does a unit out of service (R463). -/
def testRunsNow (s : State) (t : Nat) : Bool :=
  if !testedInService s t then true
  else match testClass t with
    | 3 => let x := portOf s (testUnit t / 8); !(x.upA || x.upB) || portSpares s (testUnit t)
    | 4 => !s.host.up
    | _ => true

/-! ### Runs that start, wait or are deferred (R462 to R464) -/

/-- A run starts. Before boundary scan drives any pin, every port is brought down and the management ports stop, and the node serves
nothing until the next cold start; a run of class 0x2 takes four test slots; the port of a fabric lane goes on with its other half. -/
def startTest (r : BistRunning) (s : State) : State :=
  let go : BistRunning → State → State := fun r s => { s with bist := { s.bist with running := s.bist.running ++ [r] } }
  let r := { r with deferred := false }
  match testClass r.testId with
  | 5 | 6 =>
    let s2 := portsDown (go r s)
    { s2 with mgmt := { s2.mgmt with portsUp := false }, boot := { s2.boot with scanIdle := true } }
  | 2 => updPc (testUnit r.testId) (fun c => { c with rowQ := c.rowQ ++ [{ op := .selfTest, issuer := .firmware, testSlots := 4 }] })
      (go r s)
  | 3 =>
    if !testedInService s r.testId then go r s
    else match restLanes s (testUnit r.testId) with
      | some k => updPort (testUnit r.testId / 8) (fun x => { x with lanes := k }) (go { r with savedLanes := 0xFF } s)
      | none => go r s
  | _ => go r s

/-- The port of a fabric lane whose test ended takes back the half that was tested, unless another test still runs in it. -/
def returnLanes (r : BistRunning) (s : State) : State :=
  let p := testUnit r.testId / 8
  let sameHalf : BistRunning → Bool := fun q => testClass q.testId == 3 && testUnit q.testId / 4 == testUnit r.testId / 4
  if r.savedLanes = 0 then s
  else match s.bist.running.find? sameHalf with
    | some q =>
      let runs := s.bist.running.map fun x => if x.testId = q.testId then { x with savedLanes := r.savedLanes } else x
      { s with bist := { s.bist with running := runs } }
    | none =>
      if (portOf s p).upA && portMode s p == 0 then updPort p (fun x => { x with lanes := runLanes (goodLanesOf s p) }) s else s

/-- The engine can take a run: fewer than 8 run, and none of them is of its unit. -/
def engineFree (s : State) (t : Nat) : Bool :=
  decide (s.bist.running.length < 8) && !(s.bist.running.any fun x => sameUnit x.testId t)

/-- A run starts, waits for the engine, or is deferred, which is counted. -/
def tryRun (r : BistRunning) (s : State) : State :=
  if !testRunsNow s r.testId then
    { s with bist :=
      { s.bist with waiting := s.bist.waiting ++ [{ r with deferred := true }], deferred := sat32 (s.bist.deferred + 1) } }
  else if engineFree s r.testId then startTest r s
  else { s with bist := { s.bist with waiting := s.bist.waiting ++ [{ r with deferred := false }] } }

def keepWaiting (r : BistRunning) (s : State) : State :=
  { s with bist := { s.bist with waiting := s.bist.waiting ++ [r] } }

/-- The runs that wait for the engine start in the order of their arrival, as far as they can. -/
def startWaiting (s : State) : State :=
  s.bist.waiting.foldl (fun s r => if r.deferred then keepWaiting r s else tryRun r s) { s with bist := { s.bist with waiting := [] } }

/-- A new run comes behind those that wait. -/
def addRun (r : BistRunning) (s : State) : State := tryRun r s

/-- The deferred runs are tried again `n` times, at the start of as many periods of the active frond table (R464). -/
def retryDeferred (n : Nat) (s : State) : State :=
  if n = 0 then s
  else s.bist.waiting.foldl (fun s r =>
    if !r.deferred then keepWaiting r s
    else
      let s1 := tryRun r s
      if testRunsNow s r.testId then s1 else { s1 with bist := { s1.bist with deferred := sat32 (s1.bist.deferred + (n - 1)) } })
    { s with bist := { s.bist with waiting := [] } }

/-- Starts of the periods of a table up to a time. -/
def startsUpTo (f : FrondTable) (t : Nat) : Nat :=
  if f.period = 0 ∨ t < f.start then 0 else (t - f.start) / (f.period * 100) + 1

/-- Periods of the active frond table that start after one time and not after another, as far as no shadow table takes over (R314);
where no table is active, one (log 90). -/
def periodStarts (a b : Nat) (s : State) : Nat :=
  match activeTable s with
  | none => 1
  | some f =>
    let last := match shadowTable s with
      | some g => min b (g.start - 1)
      | none => b
    startsUpTo f last - startsUpTo f a

end Sys2Proof.Machine
end

