-- ==== Sys2Proof/Machine/Timebase.lean ====
section
/-!
DEFINITION. The timebase between nodes (R303 to R306): distribution ticks, markers, holdover, and the load of a root.
-/

namespace Sys2Proof.Machine

open Sys2Proof

/-! ### TLM_TBCFG (Table 10.9) -/

def tbCfg (s : State) : Nat := regWord s 0x01809008
/-- The node is timebase root (R304). -/
def isRoot (s : State) : Bool := bitOf (tbCfg s) 0 || s.tb.mapRoot
def ptpEn (s : State) : Bool := bitOf (tbCfg s) 1
def markerNs (s : State) : Nat := min 100 (max 1 (bitsOf (tbCfg s) 15 8)) * 1000
def holdoverNs (s : State) : Nat := max 1 (bitsOf (tbCfg s) 31 16) * 1000

/-- The root's timebase is loaded once, and is locked from then on (R305 step 5). -/
def loadRoot (time : Nat) (s : State) : State :=
  if s.tb.loaded then { s with tb := { s.tb with locked := true, holdover := false } }
  else { s with tb := { s.tb with loaded := true, locked := true, now := time } }

/-- A root that does not wait for IEEE 1588 loads zero. -/
def rootLoad (s : State) : State := if isRoot s && (s.tb.loaded || !ptpEn s) then loadRoot 0 s else s

/-! ### Ticks (R303, R323) -/

/-- The slots of a core entry that begin in the microsecond from `t`. -/
def slotsBegun (f : FrondTable) (e : FrondEntry) (t : Nat) : Nat :=
  let a := t + (f.start % 100 + 100 - t % 100) % 100
  (List.range 10).countP fun i => decide (a + 100 * i < t + 1000) && inRun f e (a + 100 * i)

/-- Owned core slots of every partition that began in the microsecond from `t` (R323). -/
def chargeSlots (t : Nat) (s : State) : State :=
  match frondTable s with
  | none => s
  | some f => (f.entries.filter fun e => e.kind == 0).foldl (fun s e =>
      match slotsBegun f e t with
      | 0 => s
      | k => chargeAt e.part t (fun c => { c with lcSlots := sat64 (c.lcSlots + k) }) s) s

/-- Held pages, TOTAL − FREE, are added at a tick (R323). -/
def chargePages (t : Nat) (s : State) : State :=
  s.parts.foldl (fun s x =>
    chargeAt x.1 t (fun c => { c with pageUs := sat64 (c.pageUs + (partTotal s x.1 - partFree s x.1)) }) s) s

/-- A slew of 1 ns in each microsecond, toward the offset that is left (R305 step 2). -/
def slewed (k : Int) : Int := if k = 0 then 0 else if 0 < k then k - 1 else k + 1

/-- Between the last marker of parent or alternate and the holdover limit: TLM_TBSYNC.HOLDOVER (R305 step 4). -/
def inHoldover (s : State) : Bool :=
  s.tb.locked && !isRoot s && decide (markerNs s < s.tb.now - s.tb.lastMarker)

def setHoldover (s : State) : State := { s with tb := { s.tb with holdover := inHoldover s } }

/-- TIMEBASE_TICK: the timebase reaches its next multiple of 1,000 ns: owned slots and held pages are charged, LC jobs past
their last slot are counted, deferred self-test runs are tried at the starts of frond periods, and the slew goes on. -/
def execTimebaseTick (s : State) : Host.Outcome State Fault Refusal :=
  if !s.boot.powered || !s.tb.loaded then done s s
  else
    let t := (s.tb.now / 1000 + 1) * 1000
    let s1 := { s with tb := { s.tb with now := t, slew := slewed s.tb.slew } }
    done s (setHoldover (noteOverruns (chargePages t (chargeSlots (t - 1000) (retryDeferred (periodStarts s.tb.now t s) s1)))))

/-! ### Markers (R304, R305) -/

def markerPort (s : State) (p : Nat) : MarkerPort := mget {} s.tb.ports p
def setMarkerPort (p : Nat) (m : MarkerPort) (s : State) : State := { s with tb := { s.tb with ports := mset s.tb.ports p m } }

/-- A native port that is up. -/
def nativeUp (s : State) (p : Nat) : Bool := decide (p < 8) && portMode s p == 0 && (portOf s p).upA

/-- TIMEBASE_MARKER_SEND: a native port that is up sends a marker once in each marker interval, with the time of its first
symbol and the time at which the last marker came in on the port. -/
def execTimebaseMarkerSend (port : Nat) (s : State) : Host.Outcome State Fault Refusal :=
  if !s.boot.powered || s.health.stopped || !nativeUp s port then done s s
  else
    let m := markerPort s port
    if m.sent && decide (s.tb.now < m.lastSent + markerNs s) && s.tb.loaded then done s s
    else done s (setMarkerPort port { m with lastSent := s.tb.now, sent := true } s)

/-- The port that the node follows: the parent of the map, or the alternate while the parent's port is down. -/
def followed (s : State) : Option Nat :=
  if isRoot s then none
  else match s.tb.parent with
    | some p => if nativeUp s p then some p else s.tb.alternate
    | none => s.tb.alternate

/-- Half of an interval, rounded toward zero (DESIGN CHOICE, log 61). -/
def half (k : Int) : Int := Int.tdiv k 2

/-- A 64-bit two's complement argument. -/
def arg64 (k : Int) : Nat := (k % 0x10000000000000000).toNat

/-- The node becomes unlocked (R305 step 4): counted, with its event. -/
def unlock (port : Nat) (offset : Int) (s : State) : State :=
  logEvent 0x0602 srcCt none port [arg64 offset]
    { s with tb := { s.tb with locked := false, holdover := false, good := 0, unlocks := sat32 (s.tb.unlocks + 1) } }

/-- An offset from the parent is taken (R305 steps 1 to 4). A positive offset is a node ahead of its parent. -/
def takeOffset (port : Nat) (o : Int) (s : State) : State :=
  if !s.tb.loaded then
    { s with tb := { s.tb with loaded := true, now := (((s.tb.now : Nat) : Int) - o).toNat, offset := o, slew := 0, good := 0,
                               ports := s.tb.ports.map fun x => (x.1, { x.2 with sent := false }) } }
  else
    let good := if o.natAbs ≤ 15 then s.tb.good + 1 else 0
    let s1 := { s with tb := { s.tb with offset := o, slew := -o, good := min 8 good } }
    if s.tb.locked then (if 20 < o.natAbs then unlock port o s1 else s1)
    else if 8 ≤ good then { s1 with tb := { s1.tb with locked := true } }
    else s1

/-- TIMEBASE_MARKER_RECEIVE: a marker of the peer comes in: its two times, and the time of its arrival here. -/
def execTimebaseMarkerReceive (port peerSend peerLastRx at_ : Nat) (s : State) : Host.Outcome State Fault Refusal :=
  if !s.boot.powered || s.health.stopped || !nativeUp s port then done s s
  else
    let s1 := touch at_ s
    let t2 := if s1.tb.loaded then at_ else 0
    let m := markerPort s1 port
    let s2 := setMarkerPort port { m with lastRx := t2, lastPeerSend := peerSend, seen := true } s1
    let named := s.tb.parent == some port || s.tb.alternate == some port
    let take := followed s2 == some port && m.sent
    let o := half (((t2 : Int) - (peerSend : Int)) - ((peerLastRx : Int) - (m.lastSent : Int)))
    let s3 := if take then takeOffset port o s2 else s2
    let s4 := if named then { s3 with tb := { s3.tb with lastMarker := s3.tb.now } } else s3
    done s (setHoldover { s4 with tb := { s4.tb with altInUse := s.tb.alternate == followed s4 && (followed s4).isSome && followed s4 != s.tb.parent } })

/-- HOLDOVER_EXPIRE: neither the parent nor the alternate has delivered a marker for HOLDOVER_US. -/
def execHoldoverExpire (s : State) : Host.Outcome State Fault Refusal :=
  if !s.boot.powered || !s.tb.locked || isRoot s || decide (s.tb.now < s.tb.lastMarker + holdoverNs s) then done s s
  else done s (unlock (s.tb.parent.getD 0) s.tb.offset s)

/-- PTP_TIMEBASE_LOAD: a root with PTP_EN takes the time of IEEE 1588 once. -/
def execPtpTimebaseLoad (time : Nat) (s : State) : Host.Outcome State Fault Refusal :=
  if !s.boot.powered || !s.boot.locked || !isRoot s || !ptpEn s || s.tb.loaded then done s s
  else done s (loadRoot time s)

end Sys2Proof.Machine
end

