-- ==== Sys2Proof/Machine/Compose.lean ====
section
/-!
DEFINITION. Composition changes: MAP_COMMIT and the adoption of its epoch (R315 to R317, R327), announced moves and promotion
(R328, R408), shard groups and placement records (R318 to R320, R329), drain and release (R321, R322).
-/

namespace Sys2Proof.Machine

open Sys2Proof

/-! ### MAP_COMMIT (R315, R327) -/

/-- The move entries of a list of bytes (Table 10.12). -/
def moveEntries (bs : List Byte) : List Move := (chunks 16 (bs.length / 16) bs).map fun b =>
  { tenant := fieldAt b 0 2, movedIn := fieldAt b 2 1 == 1, peer := fieldAt b 4 2 % 4096, seqId := fieldAt b 8 5 }

/-- Their form. -/
def movesOk (bs : List Byte) : Bool := (chunks 16 (bs.length / 16) bs).all fun b =>
  decide (fieldAt b 2 1 < 2) && fieldAt b 3 1 == 0 && decide (fieldAt b 4 2 < 4096) && fieldAt b 6 2 == 0 &&
    decide (fieldAt b 8 8 < 2 ^ 40)

/-- The 16-byte shard-group records of a list of bytes (R327). -/
def shardEntries (bs : List Byte) : List ShardRec := (chunks 16 (bs.length / 16) bs).map fun b =>
  { part := fieldAt b 0 1, role := fieldAt b 1 1, group := fieldAt b 2 2, steward := fieldAt b 4 2 }

def shardsOk (bs : List Byte) : Bool := (chunks 16 (bs.length / 16) bs).all fun b =>
  decide (fieldAt b 0 1 < 64) && decide (fieldAt b 1 1 < 3) && decide (fieldAt b 4 2 < 4096) && allZero (b.drop 6)

/-- The 24-byte neighbour entries of a list of bytes (R327): node, port, Ethernet port, address. -/
def neighbourEntries (bs : List Byte) : List (Nat × Nat × Nat × Nat) := (chunks 24 (bs.length / 24) bs).map fun b =>
  (fieldAt b 0 2, fieldAt b 2 1 % 8, fieldAt b 2 1 / 8 % 2, beNat (sliceBytes b 8 16))

/-- Their form; the Ethernet port is given only for a fabric port in mode 0b10. -/
def neighboursOk (s : State) (bs : List Byte) : Bool := (chunks 24 (bs.length / 24) bs).all fun b =>
  decide (fieldAt b 0 2 < 4096) && decide (fieldAt b 2 1 < 16) && allZero (sliceBytes b 3 5) &&
    (!bitOf (fieldAt b 2 1) 3 || portMode s (fieldAt b 2 1 % 8) == 2)

/-- The port that a PARENT or ALTERNATE byte names. -/
def namedPort (b : Nat) : Option Nat := if bitOf b 7 then none else some (b % 8)

/-- Where the three lists of a MAP_COMMIT input start. -/
def commitLists (b : List Byte) : Nat × Nat × Nat :=
  (64, 64 + 16 * fieldAt b 6 2, 64 + 16 * fieldAt b 6 2 + 24 * fieldAt b 8 2)

/-- The commit that an input spells. -/
def commitOf (at_ : Nat) (b : List Byte) : Commit :=
  let (a, n, m) := commitLists b
  { at_ := at_
    epoch := fieldAt b 2 2
    root := bitOf (fieldAt b 1 1) 0
    parent := namedPort (fieldAt b 4 1)
    alternate := namedPort (fieldAt b 5 1)
    shards := shardEntries ((b.drop a).take (n - a))
    neighbours := neighbourEntries ((b.drop n).take (m - n))
    moves := moveEntries (b.drop m) }

/-- The form of a MAP_COMMIT input (R327). -/
def commitOk (s : State) (b : List Byte) : Bool :=
  let (a, n, m) := commitLists b
  let ns := fieldAt b 6 2
  let nn := fieldAt b 8 2
  let nm := fieldAt b 0xC 4
  let cm := commitOf 0 b
  decide (64 ≤ b.length) && fieldAt b 0 1 == 1 && decide (fieldAt b 1 1 < 2) && bitsOf (fieldAt b 4 1) 6 3 == 0 &&
    bitsOf (fieldAt b 5 1) 6 3 == 0 && decide (ns ≤ 64) && decide (nn ≤ 4096) && decide (nm ≤ 65536) && fieldAt b 0xA 2 == 0 &&
    allZero (sliceBytes b 0x10 44) && b.length == m + 16 * nm && fieldAt b 0x3C 4 == crc32cAt b 0x3C &&
    shardsOk ((b.drop a).take (n - a)) && neighboursOk s ((b.drop n).take (m - n)) && movesOk (b.drop m) &&
    distinct (cm.shards.map (·.part)) && distinct (cm.neighbours.map (·.1))

/-- The epoch that a new commit is compared with: that of the commit accepted last, or the current one (DESIGN CHOICE,
log 62). -/
def lastEpoch (s : State) : Nat := match s.epochs.pending.getLast? with | some c => c.epoch | none => s.epochs.current

/-- No MAP_COMMIT has been accepted since cold start. -/
def firstCommit (s : State) : Bool := !s.epochs.mapped && s.epochs.pending.isEmpty

/-- MAP_COMMIT: accepted, it waits for the next distribution tick. -/
def execMapCommit (c : MgmtCmd) (s : State) : Host.Outcome State Fault Refusal :=
  mgmtCmd c (c.role == .operator) s
    (if !commitOk s c.input then mgmtAnswer c stFormat 0 [] s
     else if !firstCommit s && !newerEpoch (fieldAt c.input 2 2) (lastEpoch s) then mgmtAnswer c stNotPermitted 0 [] s
     else
       let p := s.epochs.pending ++ [commitOf s.tb.now c.input]
       mgmtAnswer c stOk 0 [] { s with epochs := { s.epochs with pending := p } })

/-! ### Sequences that move (R317, R328, R408) -/

/-- The descriptors held here of a sequence, as primary or as replica. -/
def descsOfSeq (s : State) (tenant seq : Nat) (replica : Bool) : List Nat :=
  (s.descs.filter fun x => x.2.tenant == tenant && x.2.seqId == seq && x.2.replica == replica).map (·.1)

/-- The directory address of a descriptor's key. -/
def keyAddr (s : State) (m : Nat) : Option Nat :=
  (desc? s m).bind fun d => shadowAddr s d.part (seqKey d.tenant d.seqId d.layerGroup)

/-- A descriptor and its key go, as by SEQ_CLOSE. -/
def closeWithKey (m : Nat) (s : State) : State :=
  closeDesc m (match desc? s m, keyAddr s m with | some d, some a => dirRemove d.part a s | _, _ => s)

/-- A moved-out sequence is closed at the end of its grace window, with what of it was evicted. -/
def closeSeq (tenant seq : Nat) (s : State) : State :=
  let s1 := (descsOfSeq s tenant seq false).foldl (fun s m => closeWithKey m s) s
  match partOfTenant s1 tenant with
  | none => s1
  | some n =>
    match (part? s1 n).bind (·.evictArea) with
    | none => s1
    | some a =>
      if a.keys = 0 then s1 else (List.range 256).foldl (fun s g => closeEvicted n (seqKey tenant seq g) s) s1

def closeMoved (s : State) : State :=
  (s.epochs.moves.filter fun m => !m.movedIn).foldl (fun s m => closeSeq m.tenant m.seqId s) s

/-- A moved-out sequence has no step toward its target any more. -/
def stopMove (m : Nat) (s : State) : State :=
  let s1 := unwait ((s.fab.repl.filter fun x => x.mdb == some m && x.move).map (·.id))
    { s with fab := { s.fab with repl := s.fab.repl.filter fun x => !(x.mdb == some m && x.move) } }
  settleAnnounces (updDesc m (fun d => { d with moveRepl := none }) s1)

/-- The most TOKENS of a descriptor's streams. -/
def maxTokens (d : Desc) : Nat := d.streams.foldl (fun k st => max k st.tokens) 0

/-- A moved-in sequence becomes this node's, or is declared lost (R408). -/
def takeOver (tenant seq : Nat) (s : State) : State :=
  let ms := descsOfSeq s tenant seq true
  let part := partOfTenant s tenant
  if ms.isEmpty then logEvent 0x0305 srcCt part 0 [seq, 0] s
  else if ms.all (fun m => match desc? s m with | some d => d.repl.complete | none => false) then
    logEvent 0x0304 srcCt part 0 [seq]
      (ms.foldl (fun s m => updDesc m (fun d => { d with replica := false, repl := { unread := true } }) s) s)
  else
    logEvent 0x0305 srcCt part 0 [seq, ms.length]
      (ms.foldl (fun s m => updDesc m (fun d =>
        { d with replica := false, repl := {}, declaredLost := true, loss := true, lostFirst := 0, lostEnd := maxTokens d }) s) s)

/-- An announced move that the commit of its epoch does not name: the target closes its copy, the source stops. -/
def dropAnnounced (m : Move) (s : State) : State :=
  if m.movedIn then (descsOfSeq s m.tenant m.seqId true).foldl (fun s k => closeWithKey k s) s
  else (descsOfSeq s m.tenant m.seqId false).foldl (fun s k => stopMove k s) s

/-- The announcements of an epoch are settled at its adoption (R317, R328). -/
def settleMoves (c : Commit) (s : State) : State :=
  let named : Move → Bool := fun m => c.moves.any fun x => x.tenant == m.tenant && x.seqId == m.seqId && x.movedIn == m.movedIn
  let gone := (s.epochs.announced.filter fun x => x.1 == c.epoch && !named x.2).map (·.2)
  let s1 := gone.foldl (fun s m => dropAnnounced m s)
    { s with epochs := { s.epochs with moves := c.moves, announced := s.epochs.announced.filter fun x => x.1 != c.epoch } }
  c.moves.foldl (fun s m =>
    if m.movedIn then takeOver m.tenant m.seqId s
    else (descsOfSeq s m.tenant m.seqId false).foldl (fun s k => stopMove k s) s) s1

/-! ### Drain states and placement after an adoption (R321, R398) -/

/-- The drain state of a partition at an adoption (Table 10.7). -/
def drainAt (first leaving : Bool) (old : Nat) : Nat :=
  if !leaving then 0 else if first then 2 else if old = 0 then 1 else 2

/-- The partitions take their shard records and drain states. -/
def settleShards (first : Bool) (s : State) : State :=
  s.parts.foldl (fun s x =>
    let s1 := applyShard x.1 s
    updPart x.1 (fun p => { p with drain := drainAt first p.leaving p.drain }) s1) s

/-- The replica of a descriptor is read again: from the steward's own buffer at once, from another node by PLACEMENT_READ; a
partition with no shard group has none. -/
def rereadPlacement (m : Nat) (s : State) : State :=
  match desc? s m with
  | none => s
  | some d =>
    if d.replica || d.declaredLost then s
    else match part? s d.part with
      | none => s
      | some p =>
        if sharded s d.part && !p.steward then updRec m false (fun x => { x with unread := true }) s
        else
          let answer := if p.steward then localRecord s d.part d.seqId else some (zeroBytes 64)
          let (ids, s1) := applyPlacement m answer s
          placementKnown m ids s1

/-- A connection that this node opened, that carries nothing, and whose other end is no replica of the partition any more is
closed (DESIGN CHOICE, log 23). -/
def closeIdle (cid : Nat) (s : State) : State :=
  match conn? s cid with
  | none => s
  | some c =>
    let used := s.descs.any fun x => x.2.part == c.part &&
      (x.2.repl.unread || x.2.repl.node == some c.peer || (match x.2.moveRepl with | some y => y.node == some c.peer | none => false))
    if !c.own || c.closing || c.opening || !c.tx.isEmpty || used then s
    else
      let m : TxMsg := ⟨0, 0xE2, 0, s.tb.now, 0, zeroBytes 8, .closing, s.epochs.current, true⟩
      transmitTx cid m false (setConn cid { c with closing := true, tx := [m] } s)

/-! ### EPOCH_ADOPT and GRACE_END (R315) -/

/-- A commit takes effect at its tick. -/
def adopt (c : Commit) (s : State) : State :=
  let t := (c.at_ / 1000 + 1) * 1000
  let first := !s.epochs.mapped
  let s0 := touch t s
  let s1 := if s0.epochs.graceEnd.isSome then closeMoved s0 else s0
  let g := graceNs s1
  let e : Epochs :=
    { s1.epochs with
      previous := if first then c.epoch else s1.epochs.current
      current := c.epoch
      mapped := true
      graceStart := t
      graceEnd := if first then none else some (t + g)
      adoptTs := t
      shardRecs := c.shards }
  let wasRoot := isRoot s1
  let s2 := discardStagedWhere (fun _ => true) { s1 with epochs := e }
  let s3 := rootLoad
    { s2 with
      tb := { s2.tb with parent := c.parent, alternate := c.alternate, mapRoot := c.root,
                         lastMarker := if wasRoot then s2.tb.now else s2.tb.lastMarker }
      fab := { s2.fab with neighbours := c.neighbours } }
  let s4 := s3.parts.foldl (fun s x => cutCharge x.1 t false s) s3
  let s5 := settleShards first (settleMoves c s4)
  let s6 := (s5.descs.map (·.1)).foldl (fun s m => rereadPlacement m s) s5
  let s7 := if first then closeMoved s6 else s6
  (s7.fab.conns.map (·.1)).foldl (fun s k => closeIdle k s) (recheckHeld s7)

/-- EPOCH_ADOPT: the oldest accepted MAP_COMMIT takes effect at its distribution tick. -/
def execEpochAdopt (s : State) : Host.Outcome State Fault Refusal :=
  if !serving s then done s s
  else match s.epochs.pending with
    | [] => done s s
    | c :: cs => done s (adopt c { s with epochs := { s.epochs with pending := cs } })

/-- GRACE_END: the window closes: moved-out sequences are closed, and a leaving partition is DRAINED (R317, R321). -/
def execGraceEnd (s : State) : Host.Outcome State Fault Refusal :=
  if !serving s then done s s
  else match s.epochs.graceEnd with
    | none => done s s
    | some t =>
      if s.tb.now < t then done s s
      else
        let s1 := closeMoved s
        let parts : List (Nat × Part) := s1.parts.map fun x => (x.1, if x.2.drain = 1 then { x.2 with drain := 2 } else x.2)
        done s { s1 with parts := parts, epochs := { s1.epochs with graceEnd := none } }

/-! ### MOVE_ANNOUNCE (R328) -/

/-- The form of its input. -/
def announceOk (b : List Byte) : Bool :=
  let n := fieldAt b 4 4
  decide (16 ≤ b.length) && decide (1 ≤ n) && decide (n ≤ 65536) && b.length == 16 + 16 * n &&
    (chunks 16 n (b.drop 16)).all fun x => decide (fieldAt x 2 1 < 2)

/-- A moved-out descriptor's transfer starts: its tail drops, and it waits in the rebuild queue toward the target. -/
def startMove (m peer : Nat) (s : State) : State :=
  updDesc m (fun d => { d with moveRepl := some { node := some peer, state := .absent, queued := true } }) (endTail m 2 s)

/-- MOVE_ANNOUNCE: the source copies each sequence to its target and answers once all are in SYNC; the target records the
moves. -/
def execMoveAnnounce (c : MgmtCmd) (s : State) : Host.Outcome State Fault Refusal :=
  mgmtCmd c (c.role == .operator) s
    (if !announceOk c.input then mgmtAnswer c stFormat 0 [] s
     else
       let epoch := fieldAt c.input 0 2
       let ms := moveEntries (c.input.drop 16)
       let out := (ms.filter fun m => !m.movedIn).flatMap fun m => (descsOfSeq s m.tenant m.seqId false).map fun k => (k, m.peer)
       if out.any fun x => hasSet s x.1 then mgmtAnswer c stNotPermitted 0 [] s
       else
         let s1 := out.foldl (fun s x => startMove x.1 x.2 s) s
         settleAnnounces { s1 with epochs :=
           { s1.epochs with
             announced := s1.epochs.announced ++ ms.map fun m => (epoch, m)
             announceWait := s1.epochs.announceWait ++ [(c, out.map (·.1))] } })

/-! ### PLACE_SET and RELEASE (R320, R322, R329) -/

/-- The form of a PLACE_SET input. -/
def placeOk (b : List Byte) : Bool :=
  let r := b.drop 8
  b.length == 72 && decide (fieldAt b 0 1 < 64) && fieldAt b 1 1 == 0 && fieldAt b 4 4 == 0 && decide (fieldAt r 2 1 ≤ 12) &&
    decide (fieldAt r 3 1 < 2) && (fieldAt r 2 1 == 0 || fieldAt r 4 4 != 0) &&
    (List.range 12).all (fun i => decide (fieldAt r (8 + 4 * i) 4 < 2 ^ 25)) && fieldAt r 0x38 8 == 0

/-- PLACE_SET: a steward writes a placement record, with its own current epoch. -/
def execPlaceSet (c : MgmtCmd) (s : State) : Host.Outcome State Fault Refusal :=
  mgmtCmd c (c.role == .operator) s
    (if !placeOk c.input then mgmtAnswer c stFormat 0 [] s
     else match part? s (fieldAt c.input 0 1) with
       | none => mgmtAnswer c stNotPermitted 0 [] s
       | some p =>
         if !p.steward then mgmtAnswer c stNotPermitted 0 [] s
         else if p.placement.length < 64 then mgmtAnswer c stPoolFull 0 [] s
         else
           let record := leBytes 2 s.epochs.current ++ c.input.drop 10
           mgmtAnswer c stOk 0 [] (backedWrite p.placement 2 (64 * fieldAt c.input 2 2) record s))

/-- RELEASE: a DRAINED partition is torn down. -/
def execRelease (c : MgmtCmd) (s : State) : Host.Outcome State Fault Refusal :=
  mgmtCmd c (c.role == .operator) s
    (if 64 ≤ c.arg0 ∨ c.arg1 ≠ 0 ∨ c.arg2 ≠ 0 ∨ c.arg3 ≠ 0 ∨ c.input ≠ [] then mgmtAnswer c stFormat 0 [] s
     else match part? s c.arg0 with
       | none => mgmtAnswer c stNotPermitted 0 [] s
       | some p =>
         if p.drain ≠ 2 then mgmtAnswer c stNotPermitted 0 [] s else teardown c.arg0 (mgmtAnswer c stOk 0 []) s)

end Sys2Proof.Machine
end

