-- ==== Sys2Proof/Machine/Frond.lean ====
section
/-!
DEFINITION. Frond tables: the image (R307, R308), what refuses it (R309), and the switch at its START (R314).
-/

namespace Sys2Proof.Machine

open Sys2Proof

/-- One entry of an image (Table 10.3). -/
def frondEntry (b : List Byte) : FrondEntry :=
  let w := leNat b
  { first := bitsOf w 9 0
    len := bitsOf w 19 10
    kind := bitsOf w 21 20
    index := bitsOf w 27 22
    frames := bitsOf w 31 28
    frond := bitsOf w 43 32
    part := bitsOf w 49 44
    conn := bitsOf w 87 64 }

/-- The table that an image spells (Table 10.2). -/
def frondImage (b : List Byte) : FrondTable :=
  { period := fieldAt b 2 2
    chunkMax := fieldAt b 6 2
    tableId := fieldAt b 8 4
    dirStep := fieldAt b 0xC 1 % 4
    start := fieldAt b 0x10 8
    entries := (chunks 16 (fieldAt b 4 2) (b.drop 64)).map frondEntry
    image := b }

/-- The reserved bits of an entry are zero. -/
def entryReserved (b : List Byte) : Bool := bitsOf (leNat b) 63 50 == 0 && bitsOf (leNat b) 127 88 == 0

/-- The fields of an entry lie in their ranges. -/
def frondEntryOk (period : Nat) (e : FrondEntry) : Bool :=
  decide (e.first < period) && decide (1 ≤ e.len) && decide (e.first + e.len ≤ period) &&
    (if e.kind = 0 then e.frames != 0
     else if e.kind = 1 then decide (e.index < 8) && e.frames == 0
     else e.kind == 2 && e.index == 0 && e.frames == 0)

/-- The form of an image (R309, first case). -/
def frondForm (b : List Byte) : Bool :=
  let f := frondImage b
  let n := fieldAt b 4 2
  decide (1 ≤ n) && decide (n ≤ 4096) && b.length == 64 + 16 * n && fieldAt b 0 1 == 1 && fieldAt b 1 1 == 0 &&
    decide (20 ≤ f.period) && decide (f.period ≤ 1000) && decide (fieldAt b 0xC 1 < 4) && fieldAt b 0xD 3 == 0 &&
    allZero (sliceBytes b 0x18 36) && fieldAt b 0x3C 4 == crc32cAt b 0x3C &&
    (chunks 16 n (b.drop 64)).all entryReserved && f.entries.all (frondEntryOk f.period)

/-- Two entries of one core or port that share a slot, or two of one core that give the same query frame. -/
def entriesClash (a b : FrondEntry) : Bool :=
  a.kind == b.kind && a.kind != 2 && a.index == b.index &&
    ((decide (a.first < b.first + b.len) && decide (b.first < a.first + a.len)) || (a.kind == 0 && (a.frames &&& b.frames) != 0))

/-- No entry clashes with a later one. -/
def noClash : List FrondEntry → Bool
  | [] => true
  | e :: es => !(es.any (entriesClash e)) && noClash es

/-- The entries of one frond: one admission window, one partition, one connection. -/
def frondWhole (es : List FrondEntry) (n : Nat) : Bool :=
  let mine := es.filter fun e => e.frond == n
  match mine with
  | [] => true
  | a :: _ => mine.countP (fun e => e.kind == 2) == 1 && mine.all fun e => e.part == a.part && e.conn == a.conn

/-- An entry of a confidential partition keeps to its run (R251, R309). -/
def inConfRun (s : State) (f : FrondTable) (e : FrondEntry) : Bool :=
  match part? s e.part with
  | none => true
  | some p =>
    if !p.conf then true
    else
      f.period == 1000 && f.start % 100000 == 0 &&
        (e.kind != 0 || (bitOf p.tdmCores e.index && decide (p.tdmFirst * 10 ≤ e.first) &&
          decide (e.first + e.len ≤ (p.tdmFirst + p.tdmCount) * 10)))

/-- The case of R309 that refuses an image, counted from 0 in its order, with its status. -/
def frondRefusal (s : State) (b : List Byte) : Option (Nat × Nat) :=
  let f := frondImage b
  if !frondForm b then some (0, stFormat)
  else if (List.range 12).any (fun d => !dieLost s (0x10 + d) && chunkMax s d != f.chunkMax) then some (1, stNotPermitted)
  else if !noClash f.entries then some (2, stNotPermitted)
  else if !((f.entries.map (·.frond)).dedup.all (frondWhole f.entries)) then some (3, stNotPermitted)
  else if !(f.entries.all (inConfRun s f)) then some (4, stNotPermitted)
  else if f.start < s.tb.now + 100000 then some (5, stNotPermitted)
  else match activeTable s with
    | some a => if a.start ≤ f.start ∧ (f.start - a.start) % (a.period * 100) = 0 then none else some (6, stNotPermitted)
    | none => none

/-- A table goes to the bank that is not active. -/
def setShadow (f : Option FrondTable) (s : State) : State :=
  let fr := s.fronds
  { s with fronds :=
    { fr with
      bank0 := if fr.activeBank = 0 then fr.bank0 else f
      bank1 := if fr.activeBank = 0 then f else fr.bank1
      shadowValid := f.isSome } }

/-- FROND_LOAD: the image is validated and waits in the shadow bank. -/
def execFrondLoad (c : MgmtCmd) (s : State) : Host.Outcome State Fault Refusal :=
  mgmtCmd c (c.role == .operator) s
    (match frondRefusal s c.input with
     | some (cause, st) =>
       mgmtAnswer c st 0 [] (logEvent 0x0603 srcCt none 0 [fieldAt c.input 8 4, cause]
         { s with fronds := { s.fronds with loadRefused := sat32 (s.fronds.loadRefused + 1) } })
     | none => mgmtAnswer c stOk 0 [] (setShadow (some (frondImage c.input)) s))

/-- Jobs of an old table lose their slots: each counts as past its last owned slot, and goes on in open time (R313, R314). -/
def releaseFrondJobs (s : State) : State :=
  s.sched.jobs.foldl (fun s x =>
    if x.2.frond.isNone then s
    else
      let count := if x.2.overrun then s.fronds.overruns else sat32 (s.fronds.overruns + 1)
      updJob x.1 (fun y => { y with frond := none, overrun := true }) { s with fronds := { s.fronds with overruns := count } }) s

/-- FROND_SWITCH: at its START the shadow table becomes active, and the bank of the former one an empty shadow. -/
def execFrondSwitch (s : State) : Host.Outcome State Fault Refusal :=
  if !serving s then done s s
  else match shadowTable s with
    | none => done s s
    | some f =>
      if !s.tb.loaded || decide (s.tb.now < f.start) then done s s
      else
        let s1 := releaseFrondJobs (noteOverruns s)
        let fr := s1.fronds
        let first := fr.activeBank = 0
        done s (retryDeferred (startsUpTo f s.tb.now) { s1 with fronds :=
          { fr with
            activeBank := if first then 1 else 0
            bank0 := if first then none else fr.bank0
            bank1 := if first then fr.bank1 else none
            activeValid := true
            shadowValid := false
            taken := [] } })

end Sys2Proof.Machine
end

