-- ==== Sys2Proof/Machine/Keys.lean ====
section
/-!
DEFINITION. Keys of partitions and ports (chapter 13): secrets that a tenant installs, MACsec associations, the rotation of a
confidential partition's page key, and the walk that re-encrypts its pages (R377 to R384).
-/

namespace Sys2Proof.Machine

open Sys2Proof

/-! ### KEY_INSTALL and SAK_INSTALL (R377, R381) -/

/-- KEY_INSTALL: the tenant's connection master secret or checkpoint secret; a new one replaces the old. -/
def execKeyInstall (c : CocoonCmd) (s : State) : Host.Outcome State Fault Refusal :=
  let n := match c.role with | .tenant n => some n | _ => none
  cocoonCmd c n.isSome 40 s fun b s =>
    let k := n.getD 0
    let kind := fieldAt b 0 1
    if (kind ≠ 1 ∧ kind ≠ 2) ∨ !allZero (sliceBytes b 1 7) then cocoonAnswer c stFormat [] s
    else if (part? s k).isNone || (isConf s k && s.cocoon.erased) then cocoonAnswer c stNotPermitted [] s
    else
      let secret : BitVec 256 := BitVec.ofNat 256 (fieldAt b 8 32)
      cocoonAnswer c stOk [] (updPart k (fun p =>
        if kind = 1 then { p with connSecret := some secret } else { p with ckptSecret := some secret }) s)

/-- SAK_INSTALL: the key of one MACsec association of an Ethernet port; the last one installed for transmit is used
(log 22). -/
def execSakInstall (c : CocoonCmd) (s : State) : Host.Outcome State Fault Refusal :=
  cocoonCmd c (c.role == .operator) 64 s fun b s =>
    let port := fieldAt b 0 1
    let eth := fieldAt b 1 1
    let an := fieldAt b 2 1
    let dir := fieldAt b 3 1
    if 8 ≤ port ∨ 2 ≤ eth ∨ 4 ≤ an ∨ 2 ≤ dir ∨ fieldAt b 20 4 ≠ 0 ∨ (dir = 0 ∧ fieldAt b 56 8 ≠ 0) then
      cocoonAnswer c stFormat [] s
    else
      let id : Nat × Nat × Nat × Bool := (port, eth, an, dir == 1)
      let key : BitVec 256 := BitVec.ofNat 256 (fieldAt b 24 32)
      let saks := (id, (key, fieldAt b 8 12, fieldAt b 4 4, fieldAt b 56 8)) :: s.fab.saks.filter fun x => decide (x.1 ≠ id)
      let txPn := if dir = 0 then mset s.fab.txPn (2 * port + eth) 0 else s.fab.txPn
      cocoonAnswer c stOk [] { s with fab := { s.fab with saks := saks, txPn := txPn } }

/-! ### Key slots (R382, R383) -/

/-- The partition whose pseudo-channels hold a reference entry. -/
def refOf (p : Part) (idx : Nat) : Bool := p.pcs.contains (idx / pcRefs)

/-- Pages whose own entry or reference entry names a slot, LOST ones excluded (R382): resident ones, and those in swap slots, which
are counted there, for the entries of an evicted sequence lie in its image. -/
def slotPages (s : State) (n k : Nat) : Nat :=
  match part? s n with
  | none => 0
  | some p =>
    let own := ((s.descs.filter fun x => x.2.part == n).map fun x =>
      (x.2.streams.map fun st => st.entries.countP fun e => !e.shared && !e.lost && !e.swapped && e.keySlot == k).sum).sum
    own + (s.refs.countP fun x => refOf p x.1 && !x.2.lost && !x.2.swapped && x.2.keySlot == k) +
      p.swapKeys.countP fun x => x.2 == k

/-- A RETIRING slot that no page names any more is erased and FREE; the walk stops when none is RETIRING (R383, R384). -/
def settleSlots (n : Nat) (s : State) : State :=
  updPart n (fun p =>
    let slots : List KeySlot := p.slots.zipIdx.map fun x =>
      if x.1.state = .retiring ∧ slotPages s n x.2 = 0 then {} else x.1
    { p with slots := slots, walking := p.walking && slots.any fun x => x.state == .retiring }) s

/-- The lowest FREE slot. -/
def freeSlot (p : Part) : Option Nat := (List.range 4).find? fun k => decide ((p.slots.getD k {}).state = .free)

/-- A rotation as it is carried out (R383 steps 1 and 2). -/
def startRotation (n : Nat) (c : CocoonCmd) (s : State) : State :=
  let s1 := settleSlots n s
  match part? s1 n with
  | none => cocoonAnswer c stNotPermitted [] s1
  | some p =>
    if !p.conf || s1.cocoon.erased || p.state == .teardown then cocoonAnswer c stNotPermitted [] s1
    else match freeSlot p with
      | none => cocoonAnswer c stKeySlotsFull [] s1
      | some k =>
        let d := draw512 s1
        updPart n (fun p =>
          { p with
            slots := p.slots.set k { state := .free, key := some d.1 }
            rotateTo := some (k, s1.tb.now, c) }) d.2

/-- KEY_ROTATE: rotations of a partition are carried out one at a time, in the order of their arrival. -/
def execKeyRotate (c : CocoonCmd) (s : State) : Host.Outcome State Fault Refusal :=
  cocoonCmd c (c.role == .operator || c.role == .tenant (fieldAt c.payload 8 1)) 8 s fun b s =>
    let n := fieldAt b 0 1
    if 64 ≤ n ∨ !allZero (b.drop 1) then cocoonAnswer c stFormat [] s
    else match part? s n with
      | none => cocoonAnswer c stNotPermitted [] s
      | some p =>
        if p.rotateTo.isSome then updPart n (fun p => { p with rotateWait := p.rotateWait ++ [c] }) s
        else startRotation n c s

/-- Rotations that waited are carried out until one holds a slot, or none is left. -/
def nextRotation (n : Nat) : List CocoonCmd → State → State
  | [], s => updPart n (fun p => { p with rotateWait := [] }) s
  | c :: cs, s =>
    let s1 := startRotation n c s
    match (part? s1 n).bind (·.rotateTo) with
    | some _ => updPart n (fun p => { p with rotateWait := cs }) s1
    | none => nextRotation n cs s1

/-- KEY_SLOT_SWITCH: at the first distribution tick after its key is loaded the new slot becomes ACTIVE, the old one
RETIRING, the command is answered, and the walk restarts (R383 steps 3 and 4). -/
def execKeySlotSwitch (n : Nat) (s : State) : Host.Outcome State Fault Refusal :=
  if !serving s then done s s
  else match part? s n with
    | none => done s s
    | some p =>
      match p.rotateTo with
      | none => done s s
      | some (k, t, c) =>
        let s1 := touch ((t / 1000 + 1) * 1000) s
        let s2 := updPart n (fun p =>
          let slots : List KeySlot := p.slots.zipIdx.map fun x =>
            if x.2 = k then { x.1 with state := .active }
            else if x.1.state = .active then { x.1 with state := .retiring }
            else x.1
          { p with slots := slots, rotateTo := none, rotations := sat32 (p.rotations + 1), walking := true }) s1
        done s (nextRotation n p.rotateWait (settleSlots n (cocoonAnswer c stOk (leBytes 8 k) s2)))

/-! ### The walk (R384) -/

/-- A page that the walk may take now: resident and held by no page task, or swapped out with its slot in reach. -/
def walkable (s : State) (l : PageLoc) (active : Nat) : Bool :=
  !l.lost && l.keySlot != active && (if l.swapped then hostUsable s else !pageHeld s l.page)

/-- The bytes of a page under one slot's key, written under another's. -/
def rekey (s : State) (n : Nat) (l : PageLoc) (slot : Nat) (raw : List Byte) : List Byte :=
  match pageKey s n l.keySlot, pageKey s n slot with
  | some a, some b => xtsUnits true b l 0 (chunks 128 512 (xtsUnits false a l 0 (chunks 128 512 raw)))
  | _, _ => raw

/-- A resident page is rewritten in place under the ACTIVE slot. -/
def walkResident (n : Nat) (l : PageLoc) (slot : Nat) (s : State) : State :=
  chargeReads n pageSize (hbmWrite (pageAddr l.page) (rekey s n l slot (hbmRead s (pageAddr l.page) pageSize)) s)

/-- A swapped page is rewritten in its slot, with a new OUT_TS and CHECK, and its staged copy discarded; none where its slot
does not hold the page. -/
def walkSwapped (n fmt gen : Nat) (l : PageLoc) (slot : Nat) (s : State) : Option State × State :=
  match readSlotOf n fmt gen l s, (part? s n).bind (·.swapArea) with
  | (some raw, s1), some a =>
    let new := rekey s1 n l slot raw
    let head := mapHead false fmt gen slot n l.serial l s1.tb.now
    let entry := head ++ checkWord s1 n l.page s1.tb.now (new ++ head) ++ zeroBytes 16
    let s2 := hostWrite (mapAddr a l.page) entry (hostWrite (slotAddr a l.page) new s1)
    let s3 := noteSwapKey n l.page slot
      (chargeHost n (65536 + 64) (discardStagedWhere (fun r => r.part == n && r.slot == l.page) s2))
    (some s3, s3)
  | (_, s1), _ => (none, s1)

/-- One page of a reference entry. -/
def walkRef (n idx : Nat) (r : RefEntry) (slot : Nat) (s : State) : State :=
  let l := locOfRef r
  let put := fun (s : State) => match mfind s.refs idx with
    | some r => { s with refs := mset s.refs idx { r with keySlot := slot } }
    | none => s
  if l.swapped then
    match walkSwapped n r.fmt r.excGen l slot s with
    | (some s1, _) => put s1
    | (none, s1) => freeSlotUsed n l.page (loseRef idx s1)
  else put (walkResident n l slot s)

/-- One page of a descriptor's own. -/
def walkEntry (n m i j : Nat) (l : PageLoc) (e : PageEntry) (slot : Nat) (s : State) : State :=
  let put := fun (s : State) => updEntry m i j (fun e => { e with keySlot := slot }) s
  if l.swapped then
    match walkSwapped n e.fmt e.excGen l slot s with
    | (some s1, _) => put s1
    | (none, s1) => freeSlotUsed n l.page (loseEntry m i j s1)
  else put (walkResident n l slot s)

/-- The next reference entry of the walk. -/
def nextRef (s : State) (p : Part) (active : Nat) : Option (Nat × RefEntry) :=
  s.refs.find? fun x => refOf p x.1 && walkable s (locOfRef x.2) active

/-- The next page of the walk among descriptors: MDB, stream, index. -/
def nextOwn (s : State) (n active : Nat) : Option (Nat × Nat × Nat × PageLoc × PageEntry) :=
  firstSome (fun (x : Nat × Desc) =>
    firstSome (fun (y : Stream × Nat) =>
      firstSome (fun (z : PageEntry × Nat) =>
        let l := locOf s x.2 z.1
        if !z.1.shared && walkable s l active then some (x.1, y.2, z.2, l, z.1) else none) y.1.entries.zipIdx)
      x.2.streams.zipIdx) (s.descs.filter fun x => x.2.part == n)

/-- TLM_KEYCFG.WALK_PAGES. -/
def walkPages (s : State) (n : Nat) : Nat := max 1 (bitsOf (regWord s (0x0180C800 + n * 8)) 15 0)

/-- REENCRYPT_WALK: the walk of a partition re-encrypts its next page, within the pages of the present 1 ms window. -/
def execReencryptWalk (n : Nat) (s : State) : Host.Outcome State Fault Refusal :=
  if !serving s then done s s
  else match part? s n with
    | none => done s s
    | some p =>
      let w := s.tb.now / 1000000
      let taken := if p.walkWindow = w then p.walkTaken else 0
      if !p.walking || decide (walkPages s n ≤ taken) then done s (settleSlots n s)
      else
        let k := activeSlot p
        let count := fun (s : State) => settleSlots n (updPart n (fun p => { p with walkWindow := w, walkTaken := taken + 1 }) s)
        match nextRef s p k with
        | some (idx, r) => done s (count (walkRef n idx r k s))
        | none =>
          match nextOwn s n k with
          | some (m, i, j, l, e) => done s (count (walkEntry n m i j l e k s))
          | none => done s (settleSlots n s)

end Sys2Proof.Machine
end

