-- ==== Sys2Proof/Machine/Links.lean ====
section
/-!
DEFINITION. Fabric links coming up and going down (R260 to R263), and the next hop of Ethernet ports (R276).
-/

namespace Sys2Proof.Machine

open Sys2Proof

/-- The ports train from phase 6 on, in a lifecycle state with a fabric, and while nothing has stopped the node (Table 15.1, Table
15.10, R423, R463, R468, R475). -/
def portsTrain (s : State) : Bool :=
  s.nv.lifecycle != .decommissioned && s.boot.powered && !s.boot.recovery && decide (6 ≤ s.boot.stage) && !s.boot.thermTrip && !s.boot.scanIdle && !s.boot.compatOpen &&
    !s.health.stopped

/-- The highest link version common to both sides, as VPORT_STATUS.LINK_VER gives it: the node offers 2.0 and 2.1 (R263). A set
has bit 16 × major + minor for each version. -/
def linkVersion (peer : Nat) : Option Nat := if bitOf peer 33 then some 0x21 else if bitOf peer 32 then some 0x20 else none

/-- LINK_UP: a port has trained on some of its lanes; a native one exchanges link versions. `second`: the second Ethernet port of
mode 0b10. -/
def execLinkUp (port peerVersions lanes : Nat) (second : Bool) (s : State) : Host.Outcome State Fault Refusal :=
  if !portsTrain s || decide (8 ≤ port) || dieLost s (0x28 + port / 2) then done s s
  else
    let good := lanes &&& goodLanesOf s port
    let mode := portMode s port
    if mode = 0 then
      let k := runLanes good
      if k = 0 ∨ second then done s s
      else match linkVersion peerVersions with
        | some v => done s (updPort port (fun x => { x with upA := true, verFail := false, lanes := k, linkVer := v }) s)
        | none =>
          done s (logEvent 0x0205 (0x28 + port / 2) none port []
            (updPort port (fun x => { x with upA := false, verFail := true, lanes := 0, linkVer := 0 }) s))
    else if mode = 1 then
      if good % 256 = 255 ∧ !second then done s (updPort port (fun x => { x with upA := true, lanes := 0xFF }) s) else done s s
    else if mode = 2 then
      let x := portOf s port
      let a := x.upA || (!second && decide (good % 16 = 15))
      let b := x.upB || (second && decide (good / 16 % 16 = 15))
      done s (updPort port (fun x => { x with upA := a, upB := b, lanes := bnat a * 0x0F + bnat b * 0xF0 }) s)
    else done s s

/-- LINK_DOWN: a port's link is left with the lanes of a mask: none where the link goes down, one half where lanes have retired
(R262). -/
def execLinkDown (port goodLanes : Nat) (s : State) : Host.Outcome State Fault Refusal :=
  if !s.boot.powered || decide (8 ≤ port) then done s s else done s (settlePort port (goodLanes % 256) s)

/-- NEIGHBOR_DISCOVERY: the default router that the configuration names for an Ethernet port answers with its MAC address. -/
def execNeighborDiscovery (port : Nat) (second : Bool) (mac : Nat) (s : State) : Host.Outcome State Fault Refusal :=
  let mode := portMode s port
  let x := portOf s port
  let named := s.boot.routers.any fun r => r.1 == port && r.2.1 == bnat second
  if !portsTrain s || decide (8 ≤ port) || !named then done s s
  else if second then
    if mode = 2 ∧ x.upB then done s (updPort port (fun x => { x with nextHopB := some (mac % 2 ^ 48) }) s) else done s s
  else if (mode = 1 ∨ mode = 2) ∧ x.upA then done s (updPort port (fun x => { x with nextHopA := some (mac % 2 ^ 48) }) s)
  else done s s

end Sys2Proof.Machine
end

