-- ==== Sys2Proof/Machine/Regs.lean ====
section
/-!
DEFINITION. The register window (R8 to R11, R29, Table 1.8): what every register of Tables 1.9, 2.10, 3.9, 5.7, 6.7, 7.6, 8.6,
9.13, 10.9, 11.5, 12.11, 13.11, 14.12, 15.14, 16.6 and 17.6 reads, the tenant view (R388, Table 13.7), and writes by access
code (Table 0.3).
-/

namespace Sys2Proof.Machine

open Sys2Proof

/-! ### Packing -/

/-- A word from its fields: value, lowest bit, width. -/
def pk : List (Nat × Nat × Nat) → Nat
  | [] => 0
  | (v, lo, w) :: fs => v % 2 ^ w * 2 ^ lo + pk fs

/-- The index and the offset within it of an instance among `cnt` of a register block from `base`. -/
def instOf (o base stride cnt : Nat) : Option (Nat × Nat) :=
  if base ≤ o ∧ o < base + stride * cnt then some ((o - base) / stride, (o - base) % stride) else none

/-- The value of a field that only an existing partition has. -/
def ofPart (s : State) (n : Nat) (f : Part → Nat) : Nat := match part? s n with | some p => f p | none => 0

/-- Counters of a partition's number, which only a cold start clears. -/
def ofNumber (s : State) (n : Nat) (f : Part → Nat) : Nat :=
  match part? s n with
  | some p => f p
  | none => match mfind s.pastParts n with | some p => f p | none => 0

/-- The first register block that holds an offset answers for it. -/
def pick (l : List (Option Nat)) : Nat := (firstSome id l).getD 0

/-! ### Identity block (Tables 1.9 and 15.14) -/

def lifecycleCode : Lifecycle → Nat
  | .manufacture => 1
  | .provisioned => 2
  | .deployed => 3
  | .rma => 4
  | .decommissioned => 5

/-- Cores of the attention dies in service. -/
def coresPresent (s : State) : Nat := 4 * (List.range 16).countP fun d => !dieLost s d
/-- Pseudo-channels in service. -/
def pcActive (s : State) : Nat := 768 - s.health.pcs.countP fun x => x.2.state == .retired

def idReg (s : State) (o : Nat) : Nat :=
  match o with
  | 0x00 => pk [(0x9720, 0, 16), (0x10, 16, 8), (0x44, 24, 8)]
  | 0x08 => pk [(poolPages s, 0, 24), (0x0C, 24, 8), (pcActive s, 32, 10), (coresPresent s, 48, 7)]
  | 0x10 => s.tb.now % 2 ^ 64
  | 0x18 =>
    pk [(lifecycleCode s.nv.lifecycle, 0, 3), (bnat s.boot.cfgDefaulted, 3, 1), (bnat s.boot.recovery, 4, 1),
      (s.boot.recoveryCause, 5, 3), (bnat s.boot.calFallback, 8, 1), (bnat s.boot.fwPending, 9, 1),
      (bnat s.boot.cfgPending, 10, 1), (bnat (!s.nv.recalKinds.isEmpty), 11, 1), (bnat s.boot.locked, 12, 1),
      (s.boot.stage, 16, 4)]
  | 0x20 =>
    pk [(s.boot.fwVersion, 0, 32), (s.boot.svn, 32, 8), (s.nv.svnMin, 40, 8), (s.nv.lcSteps, 48, 6), (s.nv.roots.length, 54, 3)]
  | 0x28 => pk [(s.boot.cver, 0, 8), (s.boot.applied, 8, 16), (s.boot.refused, 24, 16)]
  | 0x30 => pk [(1, 0, 8), (1, 8, 8), (1, 16, 8), (0x21, 24, 8)]
  | 0x38 => pk [(s.boot.calBad, 0, 10), (s.boot.calUser, 10, 10)]
  | 0x40 => pk [(s.accCount, 0, 32), (s.accOffset, 32, 26)]
  | _ => 0

/-! ### Command rings and host die (Tables 12.2, 12.11) -/

def ringReg (s : State) (o : Nat) : Option Nat :=
  (instOf o 0x00100000 0x40 1024).map fun (k, d) =>
    let n := k / 16
    let r := k % 16
    let x := ring s n r
    if 8 ≤ r then 0
    else if d = 0x10 then
      pk [(bnat x.enabled, 0, 1), (bnat x.error, 1, 1), (x.errStatus, 8, 8), (x.sqHead, 16, 16), (x.cqTail % 2 ^ x.cqLog, 32, 16)]
    else if d = 0x18 then pk [(x.done, 0, 32)]
    else 0

/-- Word `i` of the node DVSEC (Table 12.2). -/
def dvsecWord (s : State) (i : Nat) : Nat :=
  match i with
  | 0 => pk [(0x0023, 0, 16), (1, 16, 4), (Config.dvsecNext.toNat, 20, 12), (0x1F3E, 32, 16), (1, 48, 4), (0x040, 52, 12)]
  | 1 => pk [(0x0A01, 0, 16), (s.host.select, 16, 16), (bnat s.host.selectErr, 32, 1)]
  | 2 => 0x0000000100040000
  | 3 =>
    pk [(bnat s.boot.locked, 0, 1), (bnat s.boot.recovery, 1, 1), (bnat s.host.viral, 2, 1), (bnat s.boot.locked, 3, 1),
      (0x40000000, 32, 32)]
  | 4 => (s.parts.map fun x => 2 ^ x.1).sum
  | _ => 0

def hostReg (s : State) (o : Nat) : Option Nat :=
  let h := s.host
  if o = 0x01400000 then
    some (pk [(bnat h.up, 0, 1), (bnat h.cxl, 1, 1), (bnat h.flit256, 2, 1), (bnat h.latOpt, 3, 1), (bnat h.negotFail, 4, 1),
      (h.width, 8, 5), (h.speed, 16, 4), (bnat h.ideIo.isSome, 24, 1), (bnat h.ideCm.isSome, 25, 1), (bnat h.viralEn, 26, 1)])
  else if o = 0x01400008 then some (pk [(h.cause, 0, 4)])
  else if o = 0x01400010 then some (h.viralTs % 2 ^ 64)
  else if o = 0x01400018 then some (pk [(h.unbacked, 0, 24), (h.rmaNoCq, 24, 8), (h.checkFail, 32, 32)])
  else if o = 0x01400020 then some h.txBytes
  else if o = 0x01400028 then some h.rxBytes
  else if 0x01400100 ≤ o ∧ o < 0x01400140 then some (dvsecWord s ((o - 0x01400100) / 8))
  else if o = 0x01400200 then
    some (match h.spill with | some a => pk [(a.records, 0, 25), (a.used.length, 25, 25)] | none => 0)
  else (instOf o 0x01401000 0x20 64).map fun (n, d) =>
    if d = 0 then ofPart s n fun p => match p.swapArea with | some a => pk [(a.slots, 0, 24), (a.used.length, 24, 24)] | none => 0
    else if d = 8 then ofNumber s n fun p => pk [(p.swapOuts, 0, 32), (p.swapIns, 32, 32)]
    else if d = 0x10 then ofNumber s n fun p => pk [(p.preempted, 0, 32), (p.starvations, 32, 32)]
    else
      pk [(ofPart s n fun p => match p.evictArea with | some a => a.buckets | none => 0, 0, 23),
        (ofNumber s n fun p => p.probeFull, 32, 32)]

/-! ### Cocoon mailbox (Table 13.11) -/

/-- A register of the mailbox instance that the access's route reaches (R376); `d` counts from the instance's base. -/
def mailboxReg (s : State) (inst d : Nat) : Nat :=
  let m := mailbox s inst
  if d = 0 then pk [(bnat m.busy, 0, 1), (m.reqLen, 32, 17)]
  else if d = 8 then
    pk [(bnat m.busy, 0, 1), (bnat m.done, 1, 1), (bnat s.cocoon.approved, 2, 1), (bnat s.cocoon.errorState, 3, 1),
      (m.sessions.length, 8, 8), (m.rsp.length, 32, 20)]
  else if 0x10000 ≤ d ∧ d < 0x20000 then mget 0 m.req ((d - 0x10000) / 8)
  else if 0x80000 ≤ d ∧ d < 0x100000 then fieldAt m.rsp (d - 0x80000) 8
  else 0

/-! ### Directory (Table 3.9) -/

/-- A register of die `d`; `step` is the throttle step that EFFECTIVE shows. -/
def dirReg (s : State) (step d o : Nat) : Nat :=
  let x := dirDie s d
  pick [
    if o = 0 then some (regWord s (0x00400000 + d * 0x200000)) else none,
    if o = 8 then
      some (pk [(bnat x.ready, 0, 1), (bnat s.dir.cascadeUp, 1, 1), (s.dir.step, 2, 2),
        (countKeys s.dir.entries (d * 2097152) ((d + 1) * 2097152), 8, 22)])
    else none,
    if o = 0x10 then some (pk [(x.corrected, 0, 32), (x.uncorrected, 32, 32)]) else none,
    (instOf o 0x1000 8 128).map fun (g, _) =>
      match mfind s.dir.segOwn (128 * d + g) with | some n => pk [(n, 0, 6), (1, 6, 1)] | none => 0,
    (instOf o 0x2000 0x10 64).map fun (n, k) =>
      if k = 0 then ofPart s n fun p =>
        let q := if d = 0 then p.quota0 else p.quota1
        pk [(q, 0, 10), (effQuota q step, 16, 10)]
      else pk [(dirUsed s n d, 0, 22), (mget 0 x.qwait n, 32, 32)],
    if d ≠ 0 then none
    else (instOf o 0x3000 0x10 64).map fun (n, k) =>
      if k = 0 then regWord s (0x00403000 + n * 0x10)
      else pk [(dirUsed s n 0 + dirUsed s n 1, 0, 23),
        (ofPart s n fun p => match p.evictArea with | some a => a.keys | none => 0, 32, 32)]]

/-! ### Memory base dies (Table 6.7) -/

def memReg (s : State) (d o : Nat) : Nat :=
  let x := memDie s d
  match o with
  | 0x00 => regWord s (0x00800000 + d * 0x10000)
  | 0x08 => pk [(x.tasks, 0, 32), (x.chunks, 32, 32)]
  | 0x10 => x.steps
  | 0x18 => pk [(x.waitMax, 0, 16), (x.slotMax, 16, 16), (x.yields, 32, 32)]
  | 0x20 => pk [(x.corrected, 0, 32), (x.uncorrected, 32, 32)]
  | 0x28 => pk [(x.rowDone, 0, 32), (x.rowRefused, 32, 32)]
  | 0x30 => pk [(min 0xFFFF (s.mem.stale.countP fun r => r.1 / 64 == d), 0, 16), (x.staleReads, 16, 32)]
  | 0x38 => pk [(bnat x.hot, 0, 1), (x.postponedMax, 8, 3), (x.forced, 16, 32)]
  | _ => 0

/-! ### Attention dies (Tables 5.7 and 8.6) -/

/-- Page frames that the jobs of a core hold. -/
def pageFramesHeld (s : State) (c : Nat) : Nat := ((jobsOn s c).map fun x => x.2.pageFrames.length).sum

def attReg (s : State) (d o : Nat) : Nat :=
  let x := attDie s d
  pick [
    if o = 0 then some (regWord s (0x00C00000 + d * 0x10000)) else none,
    if o = 0x10 then some (pk [(x.tagMiss, 0, 32), (x.invalidates, 32, 32)]) else none,
    if o = 0x100 then some (pk [(x.corrupt, 0, 32), (x.recovered, 32, 32)]) else none,
    if o = 0x108 then some (pk [(x.stall, 0, 32)]) else none,
    (instOf o 0x200 0x20 4).map fun (j, k) =>
      let c := 4 * d + j
      let y := coreOf s c
      if k = 0 then pk [((jobsOn s c).length, 0, 5), (4 - framesHeld s c, 8, 3), (48 - pageFramesHeld s c, 16, 6)]
      else if k = 8 then pk [(y.lcCmds, 0, 32), (y.beCmds, 32, 32)]
      else if k = 0x10 then y.busy
      else pk [(y.switches, 0, 32), (y.switchMax, 32, 16)]]

/-! ### Network dies (Tables 9.13 and 10.9) -/

def portReg (s : State) (p d o : Nat) : Nat :=
  let x := portOf s p
  match d with
  | 0x00 => regWord s o
  | 0x08 =>
    pk [(bnat x.upA, 0, 1), (bnat x.upB, 1, 1), (bnat x.verFail, 2, 1), (x.lanes, 8, 8), (x.linkVer, 16, 8)]
  | 0x10 => x.rxPkts
  | 0x18 => x.txPkts
  | _ => regWord s o

/-- Registers of a network die beside those of its ports; the node-wide ones lie in the block of NI0 only. -/
def netReg (s : State) (n d o : Nat) : Nat :=
  let x := netDie s n
  let open_ := s.fab.conns.filter fun c => !c.2.opening
  let own := fun (v : Nat) => if n = 0 then v else 0
  if d < 0x50 then portReg s (2 * n) d o
  else if 0x100 ≤ d ∧ d < 0x150 then portReg s (2 * n + 1) (d - 0x100) o
  else match d with
  | 0x800 => regWord s o
  | 0x808 => own 0x0000000700080000
  | 0x810 => own (pk [(s.epochs.current, 0, 16), (s.epochs.previous, 16, 16), (bnat s.epochs.graceEnd.isSome, 32, 1)])
  | 0x818 => own (pk [(regWord s 0x01000818, 0, 32), (minReuse s, 32, 32)])
  | 0x820 => own (regWord s 0x01000820)
  | 0x828 => pk [(x.hcrc, 0, 32), (x.lifetime, 32, 32)]
  | 0x830 => pk [(x.unknown, 0, 32), (x.auth, 32, 32)]
  | 0x838 => pk [(x.window, 0, 32), (x.nores, 32, 32)]
  | 0x840 => pk [(open_.countP fun c => c.2.home == n && c.2.tier == .chip, 0, 16), (open_.countP fun c => c.2.home == n, 16, 25)]
  | 0x848 => pk [(x.stalls, 0, 32), (x.retrySent, 32, 32)]
  | 0x850 => own (regWord s 0x01000850)
  | 0x858 => own (pk [(open_.length, 0, 25), (open_.countP fun c => c.2.tier == .host, 25, 25)])
  | 0x868 => pk [(x.stale, 0, 32), (x.reuseWaits, 32, 32)]
  | 0x870 => own (pk [(regWord s 0x01000870, 0, 26), (bnat s.epochs.mapped, 63, 1)])
  | 0x878 => own (pk [((List.range 4).foldl (fun m k => sat32 (m + (netDie s k).staleSent)) 0, 0, 32),
      ((List.range 4).foldl (fun m k => sat32 (m + (netDie s k).heldCount)) 0, 32, 32)])
  | 0x880 => own (s.epochs.adoptTs % 2 ^ 64)
  | _ => own (((instOf d 0x1000 0x10 64).map fun (m, k) =>
      if k = 0 then pk [(waysOf s m, 0, 7), (ofPart s m (·.connQuota), 8, 25), (open_.countP fun c => c.2.part == m, 33, 25)] else 0).getD 0)

/-! ### Telemetry block -/

/-- Free pages of the node (TLM_POOL_PAGES.FREE). -/
def freePages (s : State) : Nat :=
  let out := s.health.pcs.filter fun x => x.2.state == .retired
  pcPages * (768 - out.length) - s.pages.countP fun x => !(out.any fun y => y.1 == pagePc x.1)

/-- Pages of a partition under a key slot (R382). -/
def slotCount (s : State) (n k : Nat) : Nat := slotPages s n k

def slotStateCode : SlotState → Nat
  | .free => 0
  | .active => 1
  | .retiring => 2

/-- The bytes of a charging record (Table 10.8). -/
def chargeBytes (n : Nat) (isOpen : Bool) (c : Charge) : List Byte :=
  leBytes 2 c.epoch ++ leBytes 1 n ++ leBytes 1 (bnat isOpen + 2 * bnat c.byTeardown) ++ zeroBytes 4 ++ leBytes 8 c.start ++
  leBytes 8 (if isOpen then 0 else c.stop) ++ leBytes 8 (if isOpen then 0 else c.stop - c.start) ++ leBytes 8 c.pageUs ++
  leBytes 8 c.rxBytes ++ leBytes 8 c.txBytes ++ leBytes 8 c.hostBytes ++ leBytes 8 c.hbmBytes ++ leBytes 8 c.attOps ++
  leBytes 8 c.appendTokens ++ leBytes 8 c.otherOps ++ leBytes 8 c.engineCycles ++ leBytes 8 c.mossSteps ++ leBytes 8 c.lcSlots ++
  zeroBytes 8

/-- Pool, tables, speculation and tasks (Tables 2.10, 5.7, 7.6, 8.6). -/
def poolReg (s : State) (o : Nat) : List (Option Nat) := [
  if o = 0x01800100 then some (pk [(freePages s, 0, 24), (s.refs.length, 24, 24)]) else none,
  if o = 0x01800108 then
    some (pk [(s.pages.countP fun x => x.2.use == .zeroing, 0, 24), (s.pages.countP fun x => x.2.use == .retired, 24, 24)])
  else none,
  (instOf o 0x01801000 0x20 64).map fun (n, k) => ofPart s n fun p =>
    let pcs := (ownedPcs s n).length
    if k = 0 then
      pk [(partFree s n, 0, 24), (partTotal s n, 24, 24), (bnat (decide (partFree s n < p.lowWm)), 48, 1), (bnat p.preempt, 49, 1)]
    else if k = 8 then pk [(p.lowWm, 0, 24), (p.highWm, 24, 24)]
    else if k = 0x10 then pk [(partMdbFree s n, 0, 24), (pcMdbs * pcs, 24, 24)]
    else pk [(partRefFree s n, 0, 22), (pcRefs * pcs, 22, 22)],
  (instOf o 0x01802000 0x80 64).map fun (n, k) => ofPart s n fun p =>
    let i := k / 8
    let t := mget {} p.tables i
    pk [(bnat t.newest.isSome, 0, 1), (match t.newest with | some g => g.1 | none => 0, 1, 2), (bnat t.older.isSome, 3, 1),
      (bnat t.pending.isSome, 4, 1), (match t.newest with | some g => tableRefs s n i g.1 | none => 0, 8, 24),
      (match t.older with | some g => tableRefs s n i g.1 | none => 0, 32, 24)],
  (instOf o 0x01804000 8 64).map fun (n, _) => ofNumber s n fun p => pk [(p.convSat, 0, 32), (p.convNonfinite, 32, 32)],
  (instOf o 0x01805000 0x20 64).map fun (n, k) =>
    if k = 0 then regWord s o
    else if k = 8 then ofNumber s n fun p => pk [(p.specOpened, 0, 32), (p.specCommitted, 32, 32)]
    else if k = 0x10 then ofNumber s n fun p => pk [(p.specExpired, 0, 32), (p.specForced, 32, 32)]
    else pk [(stagedCount s n, 0, 24), (ofNumber s n fun p => p.stageDiscarded, 32, 32)],
  (instOf o 0x01806000 0x10 64).map fun (n, k) =>
    if k = 0 then pk [(ofPart s n (·.taskQuota), 0, 11), (tasksInUse s n, 32, 23)] else ofNumber s n fun p => pk [(p.taskWaits, 0, 32)],
  (instOf o 0x01807000 0x10 64).map fun (n, k) =>
    if k = 0 then ofPart s n fun p =>
      pk [(p.progQuota, 0, 10), ((p.progs.map fun x => progKib x.image).sum, 16, 10), (p.progs.length, 32, 13)]
    else 0,
  (instOf o 0x01807800 0x10 64).map fun (n, k) => ofPart s n fun p =>
    if k = 0 then pk [(p.tdmFirst, 0, 7), (p.tdmCount, 8, 7), (bnat p.conf, 16, 1)] else p.tdmCores % 2 ^ 64]

/-- Timebase, shard groups, charging, partitions and keys (Tables 10.9 and 13.11). -/
def partReg (s : State) (o : Nat) : List (Option Nat) := [
  (instOf o 0x01808000 0x10 64).map fun (n, k) =>
    if k = 0 then ofNumber s n fun p => pk [(p.chargeHead, 0, 6), (p.chargeOverflow, 32, 32)] else 0,
  if o = 0x01809000 then
    some (pk [(bnat s.tb.locked, 0, 1), (bnat (isRoot s), 1, 1), (bnat s.tb.holdover, 2, 1), (bnat s.tb.loaded, 3, 1),
      ((followed s).getD 0, 8, 3), (bnat s.tb.altInUse, 11, 1),
      ((max (-32767) (min 32767 s.tb.offset) % 65536).toNat, 16, 16), (s.tb.unlocks, 32, 32)])
  else none,
  if o = 0x01809008 then some (regWord s o) else none,
  (instOf o 0x0180A000 0x10 64).map fun (n, k) =>
    if k ≠ 0 then 0
    else match s.epochs.shardRecs.find? fun x => x.part == n with
      | some r =>
        pk [(bnat (r.role == 0), 0, 1), (bnat (r.role == 2), 1, 1), (ofPart s n (·.drain), 2, 2), (r.steward, 16, 12), (r.group, 32, 16)]
      | none => ofPart s n fun p => pk [(p.drain, 2, 2)],
  (instOf o 0x0180B000 0x20 64).map fun (n, k) =>
    if k = 0 then ofPart s n fun p =>
      pk [(p.tenant, 0, 16), (bnat p.conf, 16, 1), (if p.state = .active then 1 else 2, 17, 2), (p.clkLevel, 32, 8),
        (p.pcs.length, 40, 10), ((segsOf s n).length, 50, 9)]
    else if k = 8 then
      pk [(ofPart s n fun p => if p.conf then activeSlot p else 0, 0, 2),
        (ofPart s n fun p => (p.slots.zipIdx.map fun x => slotStateCode x.1.state * 4 ^ x.2).sum, 8, 8),
        (ofPart s n fun p => bnat p.walking, 16, 1), (ofNumber s n (·.rotations), 32, 32)]
    else
      let i := if k = 0x10 then 0 else 2
      ofPart s n fun p => if p.conf then pk [(slotCount s n i, 0, 32), (slotCount s n (i + 1), 32, 32)] else 0,
  (instOf o 0x0180C000 8 64).map fun (n, _) =>
    pk [(ofPart s n fun _ => s.power.latchDir, 0, 2), (ofPart s n fun _ => s.power.latchClk, 4, 4), (ofNumber s n (·.throtMs), 32, 32)],
  (instOf o 0x0180C800 8 64).map fun _ => regWord s o,
  (instOf o 0x01810000 0x80 64).map fun (n, k) => ofPart s n fun p => fieldAt (chargeBytes n true p.charge) k 8,
  (instOf o 0x01820000 0x2000 64).map fun (n, k) => ofNumber s n fun p =>
    match mfind p.ring (k / 0x80) with
    | some c => fieldAt (chargeBytes n false c) (k % 0x80) 8
    | none => 0]

/-- The bytes of a queue sample record (Table 11.3). -/
def queueBytes (r : QRec) : List Byte :=
  leBytes 8 r.tStart ++ leBytes 4 r.depthStart ++ leBytes 4 r.depthMax ++ leBytes 4 r.arrBytes ++ leBytes 4 r.depBytes ++
  leBytes 2 r.arrUnits ++ leBytes 2 r.depUnits ++ leBytes 4 r.delayMax

def unitCode : UnitState → Nat
  | .inService => 0
  | .degradedKept => 1
  | .retiring => 2
  | .retired => 3

/-- Queue telemetry and health (Tables 11.5 and 14.12). -/
def healthReg (s : State) (o : Nat) : List (Option Nat) := [
  if o = 0x018B0000 then some (regWord s o) else none,
  (instOf o 0x018B0008 8 784).map fun (g, _) =>
    let q := mget ({} : QTel) s.fab.telemetry g
    pk [(q.head, 0, 5), (q.overwrites, 32, 32)],
  (instOf o 0x018C0000 0x400 784).map fun (g, k) =>
    match mfind (mget ({} : QTel) s.fab.telemetry g).recs (k / 0x20) with
    | some r => fieldAt (queueBytes r) (k % 0x20) 8
    | none => 0,
  if o = 0x01990000 then
    some (pk [(bnat s.health.belowFloor, 0, 1), (bnat s.health.replaceReq, 1, 1), (bnat s.health.stopped, 2, 1),
      (inDay s s.health.pcRetirements, 8, 8), (inDay s s.health.laneRetirements, 16, 8)])
  else none,
  if o = 0x01990008 ∨ o = 0x01990010 then some (regWord s o) else none,
  (instOf o 0x01991000 8 768).map fun (g, _) =>
    let h := pcHealth s g
    pk [(h.score, 0, 10), (unitCode h.state, 10, 2), (pcRetiredPages s g, 16, 9), (64 - sparesUsed s g, 25, 7), (h.permFaults, 32, 32)],
  (instOf o 0x01993000 8 416).map fun (l, _) =>
    let h := laneHealth s l
    if !laneExists l then 0
    else pk [(h.score, 0, 10), (unitCode h.state, 10, 2), (if l < 128 ∨ s.boot.stage < 3 then 0 else moduleSpares - h.repaired, 12, 4), (h.retrains, 32, 32)],
  (instOf o 0x01995000 8 64).map fun (d, _) => pk [((dieHealth s d).score, 0, 10), (bnat (dieHealth s d).lost, 10, 1)],
  (instOf o 0x01996000 0x10 64).map fun (n, k) =>
    let mine := s.descs.filter fun x => x.2.part == n && !x.2.replica
    if k = 0 then pk [(mine.countP fun x => x.2.repl.state == .sync, 0, 24), (mine.countP fun x => x.2.repl.state == .rebuild, 24, 24)]
    else ofNumber s n fun p => pk [(p.replAbsent, 0, 32), (p.replRebuilt, 32, 32)]]

/-- The clock of an attention core now, in MHz (R477, R480); none runs after a thermal trip (R475). -/
def coreMhz (s : State) (c : Nat) : Nat :=
  if s.boot.thermTrip then 0
  else match runPart s c s.tb.now with
    | some (_, p) => 2500 - 250 * (p.clkLevel - 1)
    | none => if s.power.boost then 2750 else 2500

/-- A temperature in 16 bits. -/
def temp16 (t : Int) : Nat := (t % 65536).toNat

/-- Self-test, power and sensors (Tables 16.6 and 17.6). -/
def powerReg (s : State) (o : Nat) : List (Option Nat) :=
  let p := s.power
  [ if o = 0x01A00000 then
      some (pk [(regWord s o, 0, 8), (bnat s.boot.compatOpen, 8, 1), (min 7 s.bist.running.length, 9, 3), (s.bist.deferred, 32, 32)])
    else none,
    (instOf o 0x01A12000 0x2000 6).map fun (c, k) =>
      let r := mget ({} : BistRes) s.bist.results (4096 * (c + 1) + k / 8)
      pk [(r.verdict, 0, 2), (bnat r.inService, 2, 1), (r.fails, 16, 16), (r.runs, 32, 32)],
    if o = 0x01B00000 then some (regWord s o) else none,
    if o = 0x01B00008 then
      some (pk [(p.avgW, 0, 11), (capW s, 16, 11), (p.clockStep, 32, 2), (bnat p.boost, 34, 1), (bnat p.fast, 35, 1),
        (p.pwrStep, 36, 2), (p.thermStep, 38, 2)])
    else none,
    if o = 0x01B00010 then some (pk [(p.stepChanges, 0, 32), (p.fastEvents, 32, 32)]) else none,
    if o = 0x01B00018 then some (pk [(temp16 p.hottest, 0, 16), (p.hotSensor, 16, 7), (p.sensorFaults, 32, 32)]) else none,
    (instOf o 0x01B01000 8 128).map fun (k, _) =>
      if 116 ≤ k then 0
      else pk [(temp16 (mget 0 p.temps k), 0, 16), (temp16 (mget 0 p.maxes k), 16, 16),
        (bnat (sensorValid p k && (mfind p.temps k).isSome), 32, 1)],
    (instOf o 0x01B02000 8 16).map fun (d, _) => pk [(if s.boot.stage < 5 then 0 else coreMhz s (4 * d), 0, 12), ((attDie s d).clkSwitches, 32, 32)] ]

/-! ### Frond tables, traffic control, event log (Tables 10.9, 11.5, 14.12) -/

/-- `step`: the directory throttle step that STEP_EXCEEDED shows. -/
def frondReg (s : State) (step o : Nat) : Option Nat :=
  let f := s.fronds
  let image := fun (b : Option FrondTable) (k : Nat) => match b with | some t => fieldAt t.image k 8 | none => 0
  if o = 0x01C00000 then
    some (pk [(f.activeBank, 0, 1), (bnat f.activeValid, 1, 1), (bnat f.shadowValid, 2, 1), (bnat (!s.tb.locked), 3, 1),
      (match activeTable s with | some t => bnat (decide (t.dirStep < step)) | none => 0, 4, 1),
      (match activeTable s with | some t => t.tableId | none => 0, 32, 32)])
  else if o = 0x01C00008 then some (match shadowTable s with | some t => t.start % 2 ^ 64 | none => 0)
  else if o = 0x01C00010 then some (pk [(f.admitted, 0, 32), (f.refused, 32, 32)])
  else if o = 0x01C00018 then some (pk [(f.overruns, 0, 32), (f.loadRefused, 32, 32)])
  else if 0x01C10000 ≤ o ∧ o < 0x01C30000 then some (image f.bank0 (o - 0x01C10000))
  else if 0x01C30000 ≤ o ∧ o < 0x01C50000 then some (image f.bank1 (o - 0x01C30000))
  else none

def trafficReg (s : State) (o : Nat) : List (Option Nat) :=
  let k := s.tb.now / 1000
  [ (instOf o 0x02000000 0x20 1032).map fun (i, d) =>
      let b := bucketAt true k (policerOf s i)
      if d = 0 then pk [(b.rate, 0, 18), (b.burst, 32, 24), (bnat b.en, 63, 1)]
      else if d = 8 then b.passBytes
      else if d = 0x10 then pk [(b.dropPkts, 0, 32), (b.passPkts, 32, 32)]
      else b.dropBytes,
    (instOf o 0x02010000 8 1032).map fun (i, _) =>
      let b := bucketAt true k (policerOf s i)
      pk [(b.tokens, 0, 24), (b.changes, 32, 32)],
    (instOf o 0x02100000 0x20 512).map fun (i, d) =>
      let b := bucketAt false k (shaperOf s i)
      if d = 0 then pk [(b.rate, 0, 18), (b.burst, 32, 24), (bnat b.tokInit, 62, 1), (bnat b.en, 63, 1)]
      else if d = 8 then pk [(b.tokens, 0, 24), (b.changes, 32, 32)]
      else if d = 0x10 then b.sentBytes
      else b.waitNs ]

/-- The bytes of an event record (Table 14.10). -/
def eventBytes (r : EvRec) : List Byte :=
  leBytes 8 r.seqno ++ leBytes 8 r.ts ++ leBytes 2 r.code ++ leBytes 1 r.sev ++ leBytes 1 r.source ++
  leBytes 1 (match r.part with | some n => n % 64 + 128 | none => 0) ++ zeroBytes 1 ++ leBytes 2 r.times ++ leBytes 4 r.unit ++
  zeroBytes 4 ++ (List.range 4).flatMap fun i => leBytes 8 (r.args.getD i 0)

def eventReg (s : State) (o : Nat) : Option Nat :=
  if o = 0x03400000 then some (pk [(s.ev.head, 0, 16), (bnat s.ev.wrapped, 16, 1), (s.ev.overflow, 32, 32)])
  else if o = 0x03400008 then some (s.ev.next % 2 ^ 64)
  else (instOf o 0x03000000 0x40 65536).map fun (e, d) =>
    match mfind s.ev.recs e with | some r => fieldAt (eventBytes r) d 8 | none => 0

/-! ### The window -/

/-- The word at an aligned offset, as an access over the route of mailbox instance `inst` sees it; `step` is the directory
throttle step that SDIR_PQUOTA.EFFECTIVE and FROND_STATUS.STEP_EXCEEDED show. Offsets that no register occupies read zero (R29). -/
def readRegAt (s : State) (inst step o : Nat) : Nat :=
  if o < 0x00100000 then idReg s o
  else if o < 0x00200000 then (ringReg s o).getD 0
  else if o < 0x00400000 then
    if (o - 0x00200000) / 0x100000 = inst then mailboxReg s inst (o % 0x100000) else 0
  else if o < 0x00800000 then dirReg s step ((o - 0x00400000) / 0x200000) (o % 0x200000)
  else if o < 0x00C00000 then
    let d := (o - 0x00800000) / 0x10000
    if d < 12 then memReg s d (o % 0x10000) else 0
  else if o < 0x01000000 then
    let d := (o - 0x00C00000) / 0x10000
    if d < 16 then attReg s d (o % 0x10000) else 0
  else if o < 0x01400000 then netReg s ((o - 0x01000000) / 0x100000) (o % 0x100000) o
  else if o < 0x01800000 then (hostReg s o).getD 0
  else if o < 0x01C00000 then pick (poolReg s o ++ partReg s o ++ healthReg s o ++ powerReg s o)
  else if o < 0x02000000 then (frondReg s step o).getD 0
  else if o < 0x03000000 then pick (trafficReg s o)
  else (eventReg s o).getD 0

/-- The full view (R8). -/
def readReg (s : State) (inst o : Nat) : Nat := readRegAt s inst s.dir.step o

/-! ### The tenant view (R388, Table 13.7) -/

/-- What a register shows to the tenant of partition `n`: the bits of it, and whether a confidential tenant sees it too. -/
def tenantSees (n o : Nat) : Option (Nat × Bool) :=
  let all := 0xFFFFFFFFFFFFFFFF
  let mine := fun (base stride cnt : Nat) => match instOf o base stride cnt with | some (k, _) => k == n | none => false
  let any := fun (base stride cnt : Nat) => (instOf o base stride cnt).isSome
  let d := o % 0x100000
  let inNet := decide (0x01000000 ≤ o) && decide (o < 0x01400000)
  let inNi0 := decide (0x01000000 ≤ o) && decide (o < 0x01100000)
  if o = 0x00 ∨ o = 0x08 ∨ o = 0x10 then some (all, true)
  -- instances of partition n
  else if mine 0x01801000 0x20 64 || mine 0x00402000 0x10 64 || mine 0x00602000 0x10 64 || mine 0x00403000 0x10 64 ||
      mine 0x01802000 0x80 64 || mine 0x01804000 8 64 || mine 0x01805000 0x20 64 || mine 0x01806000 0x10 64 ||
      mine 0x01807000 0x10 64 || mine 0x01807800 0x10 64 || mine 0x01001000 0x10 64 || mine 0x0180A000 0x10 64 ||
      mine 0x01808000 0x10 64 || mine 0x01810000 0x80 64 || mine 0x01820000 0x2000 64 || mine 0x01401000 0x20 64 ||
      mine 0x0180B000 0x20 64 || mine 0x0180C000 8 64 || mine 0x0180C800 8 64 then some (all, true)
  else if mine 0x00100000 0x400 64 then some (all, true)
  -- policers, shapers and queues of partition n
  else match instOf o 0x02000000 0x20 1032, instOf o 0x02010000 8 1032, instOf o 0x02100000 0x20 512 with
  | some (i, _), _, _ => if i % 129 / 2 = n ∧ i % 129 ≠ 128 then some (all, true) else none
  | _, some (i, _), _ => if i % 129 / 2 = n ∧ i % 129 ≠ 128 then some (all, true) else none
  | _, _, some (i, _) => if i % 64 = n then some (all, true) else none
  | none, none, none =>
    match (instOf o 0x018B0008 8 784).map (·.1), (instOf o 0x018C0000 0x400 784).map (·.1) with
    | some g, _ | none, some g =>
      let k := g % 196
      if (k < 132 ∧ k % 66 = 2 + n) ∨ k = 132 + n then some (all, true)
      else if k < 132 ∧ k % 66 < 2 then some (all, false)
      else none
    | none, none =>
      -- node-wide registers
      if o = 0x01809000 ∨ o = 0x01000810 ∨ o = 0x01000880 ∨ o = 0x01C00000 then some (all, true)
      else if (inNet && d == 0x800) || o == 0x01000818 || o == 0x01000820 || o == 0x01000850 || o == 0x01000870 ||
          o == 0x01809008 || o == 0x01A00000 then
        (rwlReg (canonOffset o)).map fun r => (r.2, true)
      -- shared dies and node-wide counters: an ordinary tenant only
      else if o = 0x01800100 ∨ o = 0x01800108 then some (all, false)
      else if o = 0x00400008 ∨ o = 0x00600008 ∨ o = 0x00400010 ∨ o = 0x00600010 then some (all, false)
      else if any 0x00800000 0x10000 12 && decide (o % 0x10000 ≠ 0) then some (all, false)
      else if any 0x00C00000 0x10000 16 && decide (o % 0x10000 ≠ 0) then some (all, false)
      else if inNet && ((decide (d < 0x20) && decide (0 < d)) || (decide (0x100 < d) && decide (d < 0x120)) || d == 0x828 || d == 0x830 ||
          d == 0x838 || d == 0x840 || d == 0x848 || d == 0x868) then some (all, false)
      else if inNi0 && (d == 0x858 || d == 0x878) then some (all, false)
      else if o = 0x01C00010 ∨ o = 0x01C00018 ∨ o = 0x01400000 ∨ o = 0x01400018 ∨ o = 0x01400020 ∨ o = 0x01400028 ∨
          o = 0x01400200 then some (all, false)
      else none

/-- The word that REG_READ returns to the tenant of partition `n`. -/
def tenantReg (s : State) (n o : Nat) : Nat :=
  let conf := isConf s n
  match tenantSees n o with
  | none => 0
  | some (mask, both) =>
    if conf && !both then 0 else readRegAt s 2 (if conf then s.power.latchDir else s.dir.step) o &&& mask

/-! ### Writes (R8, R9, Table 0.3) -/

/-- An access that R8 refuses is counted. -/
def accessFault (o : Nat) (s : State) : State :=
  { s with accCount := sat32 (s.accCount + 1), accOffset := o % 0x4000000 }

/-- The bits that an access of `width` bits at offset `o` writes, and the value on them. -/
def writtenBits (o width value : Nat) : Nat × Nat :=
  let sh := o % 8 * 8
  ((2 ^ width - 1) * 2 ^ sh, value % 2 ^ width * 2 ^ sh)

/-- A write of CCMB_CTRL (Table 13.11): REQ_LEN, and GO, which starts the message (R376). A length that the field does not admit
starts nothing (log 66). -/
def writeCtrl (inst mask value : Nat) (s : State) : State :=
  let m := mailbox s inst
  if m.busy then s
  else
    let len := if bitOf mask 32 then bitsOf value 48 32 else m.reqLen
    let go := bitOf value 0 && bitOf mask 0 && decide (1 ≤ len) && decide (len ≤ 65536)
    setMailbox inst { m with reqLen := len, busy := go } s

/-- A write of a mailbox register other than CCMB_CTRL; CCMB_STATUS.DONE is RW1C. -/
def writeMailbox (inst d mask value : Nat) (s : State) : State :=
  let m := mailbox s inst
  if d = 0 then writeCtrl inst mask value s
  else if d = 8 then if bitOf value 1 && bitOf mask 1 then setMailbox inst { m with done := false } s else s
  else if 0x10000 ≤ d ∧ d < 0x20000 then
    if m.busy then s
    else
      let w := (d - 0x10000) / 8
      let old := mget 0 m.req w
      setMailbox inst { m with req := mset m.req w ((old &&& (0xFFFFFFFFFFFFFFFF ^^^ mask)) ||| (value &&& mask)) } s
  else s

/-- An agent's access to the window is one that Table 13.3 and the start of the node allow (R375, R444, R451): BAR0 and the
OPERATOR once configuration lock is set, the BOARD from the start on. -/
def mayAccess (s : State) (a : Agent) : Bool :=
  s.boot.powered && !s.boot.recovery && !s.boot.thermTrip && !s.health.stopped &&
    (match a with
      | .bar0 => s.boot.locked && s.nv.lifecycle != .decommissioned && s.host.up && !s.boot.scanIdle && !s.boot.compatOpen
      | .mgmt .board => true
      | .mgmt .operator => s.boot.locked
      | .mgmt _ => false)

def agentInst : Agent → Nat
  | .bar0 => 0
  | .mgmt _ => 1

/-- One aligned write of 32 or 64 bits: the register's word `o8` takes the value on the bits written. -/
def writeWord (a : Agent) (o8 mask value : Nat) (s : State) : State :=
  if 0x00200000 ≤ o8 ∧ o8 < 0x00400000 then
    if (o8 - 0x00200000) / 0x100000 = agentInst a then writeMailbox (agentInst a) (o8 % 0x100000) mask value s else s
  else match instOf o8 0x00100000 0x40 1024 with
  | some (k, d) =>
    if 8 ≤ k % 16 ∨ mask &&& 0xFFFF = 0 then s
    else if d = 0 then sqDoorbell (k / 16) (k % 16) (value % 65536) s
    else if d = 8 then cqDoorbell (k / 16) (k % 16) (value % 65536) s
    else s
  | none => match rwlReg (canonOffset o8) with
  | none => s
  | some (_, rw) =>
    if rw &&& mask = 0 then s
    else if s.boot.locked then logEvent 0x0001 srcCt none 0 [o8] s
    else setRegWord o8 ((regWord s o8 &&& (0xFFFFFFFFFFFFFFFF ^^^ mask)) ||| (value &&& mask)) s

/-- An access of some width at an offset is one that the window accepts (R8). -/
def wellPlaced (o width : Nat) : Bool := (width == 32 && o % 4 == 0) || (width == 64 && o % 8 == 0)

/-- What a read of `width` bits returns: the addressed half of the word for 32 bits (R32), the word for 64, all ones for any
other read (R8). -/
def windowRead (s : State) (inst offset width : Nat) : Nat :=
  if !wellPlaced offset width then 0xFFFFFFFFFFFFFFFF
  else readReg s inst (offset / 8 * 8) / 2 ^ (offset % 8 * 8) % 2 ^ width

/-- A read of the window: its value goes back as data, and a read that R8 refuses is counted. -/
def readWindow (offset width value : Nat) (s : State) : State :=
  if wellPlaced offset width then setReadData (leBytes (width / 8) value) s
  else accessFault offset (setReadData (leBytes 8 value) s)

/-- A write of the window: the register's access code decides (Table 0.3), and a write that R8 refuses is only counted. -/
def writeWindow (a : Agent) (offset width value : Nat) (s : State) : State :=
  if wellPlaced offset width then
    writeWord a (offset / 8 * 8) (writtenBits offset width value).1 (writtenBits offset width value).2 s
  else accessFault offset s

/-- A read of the window is accepted where its agent may access it; the identity block answers the host before configuration lock
and in recovery mode, in which every other offset reads zero (R368, R444, R451). -/
def readValue (s : State) (a : Agent) (offset width : Nat) : Option Nat :=
  if mayAccess s a then some (windowRead s (agentInst a) offset width)
  else if a == .bar0 && s.boot.powered && s.host.up then
    if offset < 0x00100000 then some (windowRead s 0 offset width)
    else if s.boot.recovery then some (if wellPlaced offset width then 0 else 0xFFFFFFFFFFFFFFFF)
    else none
  else none

/-- REGISTER_WRITE: an access to the register window: a write of a register that has no row of its own acts by its access code;
no value is a read (log 75). -/
def execRegisterWrite (agent : Agent) (offset width : Nat) (value : Option Nat) (s : State) :
    Host.Outcome State Fault Refusal :=
  if 0x4000000 ≤ offset then done s s
  else match value with
  | some v => if mayAccess s agent then done s (writeWindow agent offset width v s) else done s s
  | none =>
    match readValue s agent offset width with
    | some v => done s (readWindow offset width v s)
    | none => done s s

end Sys2Proof.Machine
end

