-- ==== Sys2Proof/Machine/Cocoon.lean ====
section
/-!
DEFINITION. The cocoon beside partitions and keys (chapter 13): its mailbox and sessions (R375, R376), attestation (R390 to R392),
the tenant's register reads (R388), and the loss of its keys (R393, R394); with them the firmware watchdog (R365).
-/

namespace Sys2Proof.Machine

open Sys2Proof

/-! ### Mailbox and sessions (R375, R376) -/

/-- MAILBOX_GO: a write of CCMB_CTRL with GO, over the route of the agent. -/
def execMailboxGo (agent : Agent) (value : Nat) (s : State) : Host.Outcome State Fault Refusal :=
  if mayAccess s agent then done s (writeCtrl (agentInst agent) 0xFFFFFFFFFFFFFFFF value s) else done s s

/-- The cocoon takes SPDM messages at an instance: past its self-tests, not confined to its ROM services, and with the route up
(R394, R444, R468). -/
def spdmServes (s : State) (inst : Nat) : Bool :=
  s.boot.powered && s.cocoon.approved && !s.boot.recovery && !s.boot.compatOpen && !s.boot.scanIdle && !s.boot.thermTrip &&
    !s.health.stopped && (if inst = 0 then s.boot.locked && s.host.up else s.mgmt.portsUp)

/-- A requester can prove a role: its root is provisioned, or its partition exists (R375). -/
def roleExists (s : State) : Role → Bool
  | .none => false
  | .operator | .board => !s.nv.roots.isEmpty
  | .tenant n => (part? s n).isSome

/-- The SPDM error Busy: version 1.3, ERROR, code 0x03 (PRESUMED from the SPDM standard, log 12). -/
def spdmBusy : List Byte := [0x13#8, 0x7F#8, 0x03#8, 0x00#8]

/-- SPDM_MESSAGE: session establishment, its end, or another message of the standard, whose answers are free values (log 12). -/
def execSpdmMessage (inst : Nat) (m : SpdmMsg) (s : State) : Host.Outcome State Fault Refusal :=
  if !spdmServes s inst then done s s
  else
    let b := mailbox s inst
    match m with
    | .keyExchange role sid authentic =>
      if 8 ≤ b.sessions.length then done s (mailboxReply inst spdmBusy s)
      else if !authentic || !roleExists s role || s.cocoon.aliasSeed.isNone || s.cocoon.errorState then
        done s (mailboxReply inst (Config.standardResponse 6 (leBytes 4 sid)) s)
      else
        let sessions := (b.sessions.filter fun x => x.1 != sid) ++ [(sid, role)]
        done s (mailboxReply inst (Config.standardResponse 5 (leBytes 4 sid)) (setMailbox inst { b with sessions := sessions } s))
    | .endSession sid =>
      let sessions := b.sessions.filter fun x => x.1 != sid
      let stored := if inst = 1 then mdel s.mgmt.stored sid else s.mgmt.stored
      let s1 := setMailbox inst { b with sessions := sessions } { s with mgmt := { s.mgmt with stored := stored } }
      done s (mailboxReply inst (Config.standardResponse 7 (leBytes 4 sid)) s1)
    | .other bytes => done s (mailboxReply inst (Config.standardResponse 8 bytes) s)

/-! ### Attestation (R390 to R392, Tables 13.9 and 13.10) -/

/-- The loaded items of one kind as measurement entries in ascending IDENT; an item: IDENT, time of its load, image. -/
def kindEntries (kind : Nat) (items : List (Nat × Nat × List Byte)) : List (List Byte) :=
  let sorted : List (Nat × (Nat × List Byte)) := items.foldl (fun m x => mset m x.1 x.2) []
  sorted.map fun x => measureEntry kind 0 x.1 x.2.1 (sha384 x.2.2)

/-- The generations that a table slot holds, as items. -/
def tableItems (k : Nat) (t : TableSlot) : List (Nat × Nat × List Byte) :=
  (match t.newest with | some (g, rec) => [(k + 16 * g, t.loadedAt, rec)] | none => []) ++
    (match t.older with | some (g, rec) => [(k + 16 * g, t.olderAt, rec)] | none => [])

/-- One entry for each item loaded, in ascending KIND and IDENT. -/
def loadedEntries (p : Part) : List (List Byte) :=
  kindEntries 1 (p.progs.map fun x => (x.number, x.loadTs, x.image)) ++
    kindEntries 2 (p.wsets.map fun x => (x.id, x.loadTs, x.image)) ++
    kindEntries 3 (p.tables.flatMap fun x => tableItems x.1 x.2)

/-- The certificate section: each chain after its length, at most 65,536 bytes together. -/
def certSection (seed : BitVec 256) : List Byte :=
  let ed := (Config.certChain false seed).take 32764
  let ml := (Config.certChain true seed).take 32764
  leBytes 4 ed.length ++ ed ++ leBytes 4 ml.length ++ ml

/-- The report for a nonce and a partition number (Table 13.9), signed under the alias keys of `seed`. -/
def attestReport (s : State) (seed : BitVec 256) (nonce : List Byte) (n : Nat) : List Byte :=
  let p := if n = 0xFF then none else part? s n
  let entries := match p with | some p => loadedEntries p | none => []
  let certs := certSection seed
  let len := 0x210 + certs.length + 64 * entries.length + 3373
  let body := leBytes 2 1 ++ leBytes 2 (bnat p.isSome + 2 * bnat s.boot.cfgDefaulted) ++ leBytes 4 len ++ nonce ++
    leBytes 8 s.tb.now ++ leBytes 2 0x9720 ++ leBytes 1 0x10 ++ leBytes 1 (lifecycleCode s.nv.lifecycle) ++
    leBytes 1 (bnat s.cocoon.approved + 2 * bnat s.cocoon.errorState) ++ leBytes 1 n ++
    leBytes 2 (match p with | some p => p.tenant | none => 0) ++ leBytes 8 s.nv.serial ++ s.boot.fwDigest ++ s.boot.cocoonDigest ++
    s.boot.configDigest ++ (match p with | some p => p.measChain | none => zeroBytes 48) ++
    (match p with | some p => p.record | none => zeroBytes 256) ++ leBytes 4 entries.length ++ leBytes 4 certs.length ++
    zeroBytes 8 ++ certs ++ entries.flatten
  body ++ leBytes 64 (Config.signEd seed body).toNat ++ leBytes 3309 (Config.signMlDsa seed body).toNat

/-- ATTEST_REPORT: any agent may ask; no report is signed without alias keys or in DECOMMISSIONED (R375, R392, R444, R468). -/
def execAttestReport (c : CocoonCmd) (s : State) : Host.Outcome State Fault Refusal :=
  cocoonCmd c (s.nv.lifecycle != .decommissioned && s.cocoon.aliasSeed.isSome) 40 s fun b s =>
    let n := fieldAt b 32 1
    if !allZero (sliceBytes b 33 7) then cocoonAnswer c stFormat [] s
    else cocoonAnswer c stOk (attestReport s (s.cocoon.aliasSeed.getD 0) (sliceBytes b 0 32) n) s

/-! ### REG_READ (R388, R497) -/

/-- REG_READ: the words that the tenant of partition n reads through the view of Table 13.7. -/
def execRegRead (c : CocoonCmd) (s : State) : Host.Outcome State Fault Refusal :=
  let n := match c.role with | .tenant n => some n | _ => none
  cocoonCmd c ((n.bind (part? s)).isSome) 8 s fun b s =>
    let o := fieldAt b 0 4
    let k := fieldAt b 4 2
    if o % 8 ≠ 0 ∨ k = 0 ∨ 512 < k ∨ fieldAt b 6 2 ≠ 0 ∨ 0x4000000 < o + 8 * k then cocoonAnswer c stFormat [] s
    else cocoonAnswer c stOk ((List.range k).flatMap fun i => leBytes 8 (tenantReg s (n.getD 0) (o + 8 * i))) s

/-! ### Loss of the keys (R377, R378, R393, R394) -/

/-- The keys of a partition are erased; rotations that wait are not carried out. -/
def erasePartKeys (p : Part) : Part :=
  let slots : List KeySlot := p.slots.map fun x => { x with key := none }
  { p with
    slots := slots
    metaKey := none
    swapKey := none
    connSecret := none
    ckptSecret := none
    rotateTo := none
    rotateWait := []
    walking := false }

/-- Rotations that have not been answered: the commands, by partition. -/
def openRotations (s : State) : List CocoonCmd :=
  s.parts.flatMap fun x => (match x.2.rotateTo with | some (_, _, c) => [c] | none => []) ++ x.2.rotateWait

/-- Every key of Table 13.5 but the device unique secret goes, with every engine's copy of it: the IDE keys too. -/
def eraseKeys (s : State) : State :=
  let open_ := openRotations s
  let parts : List (Nat × Part) := s.parts.map fun x => (x.1, erasePartKeys x.2)
  let conns : List (Nat × Conn) := s.fab.conns.map fun x => (x.1, { x.2 with master := none })
  let egress : List (Nat × List OutPkt) :=
    s.fab.egress.map fun x => (x.1, x.2.map fun q => { q with key := q.key.map fun _ => 0#256 })
  let blocked := s.fab.blocked.map fun x => (x.1, { x.2 with key := x.2.key.map fun _ => 0#256 })
  let quarantine : List Quarantine := s.fab.quarantine.map fun q => { q with keys := q.keys.map fun _ => (0#256, 0#256) }
  let s1 : State :=
    { s with
      parts := parts
      fab := { s.fab with conns := conns, saks := [], egress := egress, blocked := blocked, quarantine := quarantine }
      host := { s.host with ideIo := none, ideCm := none }
      cocoon := { s.cocoon with erased := true, aliasSeed := none, spillKey := none, transportKeys := false } }
  open_.foldl (fun s c => cocoonAnswer c stNotPermitted [] s) s1

/-- Every page of a confidential partition is lost (R394): those of shared reference entries, then those of descriptors. -/
def loseConfPages (s : State) : State :=
  let refs := s.refs.filter fun x => s.parts.any fun y => y.2.conf && refOf y.2 x.1
  let s1 := refs.foldl (fun s x => if x.2.lost then s else loseRef x.1 s) s
  let own := s1.descs.flatMap fun x => if !isConf s1 x.2.part then [] else
    x.2.streams.zipIdx.flatMap fun y => y.1.entries.zipIdx.filterMap fun z =>
      if z.1.shared || z.1.lost then none else some (x.1, y.2, z.2)
  own.foldl (fun s x => loseEntry x.1 x.2.1 x.2.2 s) s1

/-- What follows the loss of the keys: the pages of confidential partitions are lost, and cause 0x4 of Table 12.10 holds. -/
def keysLost (s : State) : State := raiseViral 4 (loseConfPages s)

/-- TAMPER_EVENT: the cocoon erases every key, the device unique secret among them (R393, Table 13.5). -/
def execTamperEvent (s : State) : Host.Outcome State Fault Refusal :=
  if !s.boot.powered then done s s
  else done s (keysLost (eraseKeys { s with nv := { s.nv with secretErased := true } }))

/-- The cocoon enters its error state: every key is erased and ERROR_STATE set (R394). -/
def cocoonError (s : State) : State :=
  eraseKeys (logEvent 0x0801 srcCt none 0 [] { s with cocoon := { s.cocoon with errorState := true } })

/-- COCOON_SELF_TEST_FAIL: a conditional self-test fails. -/
def execCocoonSelfTestFail (s : State) : Host.Outcome State Fault Refusal :=
  if !s.boot.powered || s.cocoon.errorState then done s s else done s (keysLost (cocoonError s))

/-- WATCHDOG_EXPIRE: cause 0x3 of Table 12.10. -/
def execWatchdogExpire (s : State) : Host.Outcome State Fault Refusal :=
  if !s.boot.powered then done s s else done s (raiseViral 3 s)

end Sys2Proof.Machine
end

