-- ==== Sys2Proof/Machine/Nor.lean ====
section
/-!
DEFINITION. What lies in the configuration memory (chapter 15): the configuration block and its records (R435 to R439), the
firmware image (R441, R442), the calibration block and its records (R446 to R449), and the wear record as it is applied (R450).
-/

namespace Sys2Proof.Machine

open Sys2Proof

/-! ### The memory (R434, Table 15.2) -/

def norBytes : Nat := 0x4000000
def blockBase : Nat := 0
def calBase : Nat := 0x40000
def fwBase : Nat := 0x1000000
/-- Bytes of the configuration block region and of the calibration region. -/
def regionBytes : Nat := 262144
/-- Bytes of the firmware slot. -/
def slotBytes : Nat := 50331648

/-- A region is erased, and bytes are programmed from its start. -/
def norProgram (base size : Nat) (bs : List Byte) (s : State) : State :=
  norWrite base bs { s with nv := { s.nv with nor := cellsClear s.nv.nor base size } }

/-! ### The configuration block (R435 to R437) -/

/-- The records of a run of bytes; none where an RLEN is malformed or they do not fill it exactly. -/
def cutRecords : Nat → List Byte → Option (List (List Byte))
  | 0, b => if b.isEmpty then some [] else none
  | n + 1, b =>
    let len := fieldAt b 2 2
    if b.length < 8 ∨ len < 8 ∨ len % 8 ≠ 0 ∨ b.length < len then none
    else (cutRecords n (b.drop len)).map fun rs => b.take len :: rs

/-- The records of a block; none where the block as a whole is invalid (R437). -/
def blockRecords (serial : Nat) (b : List Byte) : Option (List (List Byte)) :=
  let len := fieldAt b 8 4
  let nrec := fieldAt b 0xC 4
  let own := fieldAt b 0x10 8
  if b.length < 64 ∨ fieldAt b 0 4 ≠ 0x46434E44 ∨ fieldAt b 4 1 ≠ 1 then none
  else if len % 8 ≠ 0 ∨ len < 64 ∨ regionBytes < len ∨ b.length < len ∨ 8192 < nrec then none
  else if own ≠ 0 ∧ own ≠ serial then none
  else if crc32cAt (b.take len) 0x3C ≠ fieldAt b 0x3C 4 then none
  else cutRecords nrec ((b.take len).drop 64)

/-- The block as it lies in the memory: as many bytes as its header gives, or the header alone. -/
def readBlock (s : State) : List Byte :=
  let h := norRead s blockBase 64
  let len := fieldAt h 8 4
  if fieldAt h 0 4 = 0x46434E44 ∧ len ≤ regionBytes then norRead s blockBase (max 64 len) else h

/-- The canonical empty block (R439). -/
def emptyBlock : List Byte :=
  let h := leBytes 4 0x46434E44 ++ leBytes 1 1 ++ zeroBytes 3 ++ leBytes 4 64 ++ zeroBytes 48
  h ++ leBytes 4 (crc32cAt (h ++ zeroBytes 4) 0x3C)

/-! ### Registers that a REG record can name -/

/-- Register blocks of the window: first offset, stride, count (the tables of the chapters). -/
def regBlocks : List (Nat × Nat × Nat) :=
  [(0, 8, 9)] ++
  (List.range 8).flatMap (fun r => (List.range 4).map fun d => (0x00100000 + r * 0x40 + 8 * d, 0x400, 64)) ++
  (List.range 2).flatMap (fun i =>
    let b := 0x00200000 + i * 0x100000
    [(b, 8, 2), (b + 0x10000, 8, 8192), (b + 0x80000, 8, 65536)]) ++
  (List.range 2).flatMap (fun d =>
    let b := 0x00400000 + d * 0x200000
    [(b, 8, 3), (b + 0x1000, 8, 128), (b + 0x2000, 8, 128)]) ++
  [(0x00403000, 8, 128)] ++
  (List.range 12).map (fun d => (0x00800000 + d * 0x10000, 8, 8)) ++
  (List.range 16).flatMap (fun d =>
    let b := 0x00C00000 + d * 0x10000
    [(b, 8, 1), (b + 0x10, 8, 1), (b + 0x100, 8, 2), (b + 0x200, 8, 16)]) ++
  (List.range 4).flatMap (fun n =>
    let b := 0x01000000 + n * 0x100000
    [(b, 8, 10), (b + 0x100, 8, 10), (b + 0x800, 8, 1), (b + 0x828, 8, 5), (b + 0x868, 8, 1)]) ++
  [(0x01000808, 8, 4), (0x01000850, 8, 2), (0x01000870, 8, 3), (0x01001000, 0x10, 64)] ++
  [(0x01400000, 8, 6), (0x01400100, 8, 8), (0x01400200, 8, 1), (0x01401000, 8, 256)] ++
  [(0x01800100, 8, 2), (0x01801000, 8, 256), (0x01802000, 8, 1024), (0x01804000, 8, 64), (0x01805000, 8, 256),
    (0x01806000, 8, 128), (0x01807000, 0x10, 64), (0x01807800, 8, 128), (0x01808000, 0x10, 64), (0x01809000, 8, 2),
    (0x0180A000, 0x10, 64), (0x0180B000, 8, 256), (0x0180C000, 8, 64), (0x0180C800, 8, 64), (0x01810000, 8, 1024),
    (0x01820000, 8, 65536), (0x018B0000, 8, 785), (0x018C0000, 8, 100352)] ++
  [(0x01990000, 8, 3), (0x01991000, 8, 768), (0x01993000, 8, 80), (0x01993400, 8, 288), (0x01995000, 8, 64),
    (0x01996000, 8, 128)] ++
  [(0x01A00000, 8, 1), (0x01A12000, 8, 288), (0x01A14000, 8, 768), (0x01A16000, 8, 64), (0x01A18000, 8, 16), (0x01A1A000, 8, 1),
    (0x01A1C000, 8, 80)] ++
  [(0x01B00000, 8, 4), (0x01B01000, 8, 116), (0x01B02000, 8, 16)] ++
  [(0x01C00000, 8, 4), (0x01C10000, 8, 16384), (0x01C30000, 8, 16384)] ++
  [(0x02000000, 8, 4128), (0x02010000, 8, 1032), (0x02100000, 8, 2048), (0x03000000, 8, 524288), (0x03400000, 8, 2)]

/-- An offset names a register. -/
def isRegister (o : Nat) : Bool := o % 8 == 0 && regBlocks.any fun b => match instOf o b.1 b.2.1 b.2.2 with
  | some (_, d) => d == 0
  | none => false

/-! ### Records (R436 to R438, Tables 15.4 and 15.5) -/

/-- A REG record writes RWL fields only. -/
def regRecord (b : List Byte) (s : State) : Option State :=
  let o := fieldAt b 0 8
  let mask := fieldAt b 8 8
  let rw := match rwlReg (canonOffset o) with | some r => r.2 | none => 0
  if !isRegister o || (mask &&& (0xFFFFFFFFFFFFFFFF ^^^ rw)) != 0 then none
  else some (setRegWord o ((regWord s o &&& (0xFFFFFFFFFFFFFFFF ^^^ mask)) ||| (fieldAt b 16 8 &&& mask)) s)

/-- RATE and BURST of an entry's policer or shaper word; none where a reserved bit is set. -/
def bucketWord (w : Nat) : Option (Nat × Nat) :=
  if bitsOf w 31 18 = 0 ∧ bitsOf w 63 56 = 0 then some (bitsOf w 17 0, bitsOf w 55 32) else none

/-- A partition entry (Table 15.5); none where a reserved bit is set or a field lies outside its range. -/
def partEntry (b : List Byte) : Option PartEntry :=
  let q0 := fieldAt b 2 2
  let q1 := fieldAt b 4 2
  let ways := fieldAt b 0xA 2
  let flags := fieldAt b 0x48 4
  match bucketWord (fieldAt b 0x30 8), bucketWord (fieldAt b 0x38 8), bucketWord (fieldAt b 0x40 8) with
  | some be, some lc, some shp =>
    if 64 ≤ fieldAt b 0 1 ∨ fieldAt b 1 1 ≠ 0 ∨ (1000 < q0 ∧ q0 ≠ 0xFFFF) ∨ (1000 < q1 ∧ q1 ≠ 0xFFFF) ∨ ways = 0 ∨ 64 < ways ∨
        16777216 < fieldAt b 0xC 4 ∨ 2 ^ 24 ≤ fieldAt b 0x10 4 ∨ 2 ^ 24 ≤ fieldAt b 0x14 4 ∨ 2 ^ 23 ≤ fieldAt b 0x18 4 ∨
        2 ^ 23 ≤ fieldAt b 0x1C 4 ∨ 2 ≤ fieldAt b 0x20 4 ∨ fieldAt b 0x2E 2 ≠ 0 ∨ 16 ≤ flags ∨ !allZero (sliceBytes b 0x4C 52) then none
    else some
      { part := fieldAt b 0 1
        quotaDd0 := q0
        quotaDd1 := q1
        progQuota := fieldAt b 6 2
        taskQuota := fieldAt b 8 2
        ways := ways
        connQuota := fieldAt b 0xC 4
        lowWm := fieldAt b 0x10 4
        highWm := fieldAt b 0x14 4
        entryLow := fieldAt b 0x18 4
        entryHigh := fieldAt b 0x1C 4
        evictEn := fieldAt b 0x20 4 == 1
        windowDef := fieldAt b 0x24 4
        stageMax := fieldAt b 0x28 2
        stageTtl := fieldAt b 0x2A 2
        walkPages := fieldAt b 0x2C 2
        polBeRate := be.1
        polBeBurst := be.2
        polLcRate := lc.1
        polLcBurst := lc.2
        shpRate := shp.1
        shpBurst := shp.2
        polBeEn := bitOf flags 0
        polLcEn := bitOf flags 1
        shpEn := bitOf flags 2
        tokInit := bitOf flags 3 }
  | _, _, _ => none

/-- The registers of a partition that firmware writes from its entry before lock (R438): TLM_SPECCFG, TLM_KEYCFG, SDIR_PEVICT. -/
def entryRegs (e : PartEntry) (s : State) : State :=
  let s1 := setRegWord (0x01805000 + e.part * 0x20) (pk [(e.windowDef, 0, 32), (e.stageMax, 32, 16), (e.stageTtl, 48, 16)]) s
  let s2 := setRegWord (0x0180C800 + e.part * 8) e.walkPages s1
  setRegWord (0x00403000 + e.part * 0x10) (pk [(e.entryLow, 0, 23), (e.entryHigh, 32, 23), (bnat e.evictEn, 63, 1)]) s2

/-- A PARTITION record. -/
def partitionRecord (b : List Byte) (s : State) : Option State :=
  match partEntry b with
  | none => none
  | some e =>
    if s.boot.entries.any fun x => x.part == e.part then none
    else some (entryRegs e { s with boot := { s.boot with entries := s.boot.entries ++ [e] } })

/-- A SHARD record: the first epoch's shard record of a partition (R318). -/
def shardRecord (b : List Byte) (s : State) : Option State :=
  let n := fieldAt b 0 1
  if 64 ≤ n ∨ 1 < fieldAt b 1 1 ∨ 4096 ≤ fieldAt b 4 2 ∨ fieldAt b 6 2 ≠ 0 then none
  else
    let r : ShardRec := { part := n, role := fieldAt b 1 1, group := fieldAt b 2 2, steward := fieldAt b 4 2 }
    some { s with epochs := { s.epochs with shardRecs := (s.epochs.shardRecs.filter fun x => x.part != n) ++ [r] } }

/-- A ROUTER record: the default router of an Ethernet port (R276). -/
def routerRecord (b : List Byte) (s : State) : Option State :=
  let p := fieldAt b 0 1
  let e := fieldAt b 1 1
  if 8 ≤ p ∨ 1 < e ∨ !allZero (sliceBytes b 2 6) then none
  else
    let rest := s.boot.routers.filter fun x => !(x.1 == p && x.2.1 == e)
    some { s with boot := { s.boot with routers := rest ++ [(p, e, fieldAt b 8 16)] } }

/-- A MGMT record: the address of a management port (R439). -/
def mgmtRecord (b : List Byte) (s : State) : Option State :=
  let p := fieldAt b 0 1
  let len := fieldAt b 1 1
  if 2 ≤ p ∨ 128 < len ∨ !allZero (sliceBytes b 4 4) then none
  else
    let rest := s.boot.mgmtPorts.filter fun x => x.1 != p
    some { s with boot := { s.boot with mgmtPorts := rest ++ [(p, len, fieldAt b 2 2, fieldAt b 8 16)] } }

/-- The effect of a record; none where it is skipped (R437). -/
def recordEffect (r : List Byte) (s : State) : Option State :=
  let kind := fieldAt r 0 2
  let len := fieldAt r 2 2
  let b := r.drop 8
  if fieldAt r 4 4 ≠ 0 then none
  else if kind = 1 ∧ len = 32 then regRecord b s
  else if kind = 2 ∧ len = 136 then partitionRecord b s
  else if kind = 3 ∧ len = 16 then shardRecord b s
  else if kind = 4 ∧ len = 32 then routerRecord b s
  else if kind = 5 ∧ len = 32 then mgmtRecord b s
  else none

/-- One record in block order: applied, or skipped and counted. -/
def applyRecord (s : State) (r : List Byte) : State :=
  match recordEffect r s with
  | some t => { t with boot := { t.boot with applied := t.boot.applied + 1 } }
  | none => { s with boot := { s.boot with refused := s.boot.refused + 1 } }

/-- The link-local address that RFC 4291 forms from a MAC address, its bytes in network order. -/
def linkLocal (mac : Nat) : Nat :=
  leNat ([0xFE#8, 0x80#8] ++ zeroBytes 6 ++ (leBytes 8 ((mac / 2 ^ 24 ^^^ 0x020000) * 2 ^ 40 + 0xFFFE * 2 ^ 24 + mac % 2 ^ 24)).reverse)

/-- The management ports of R439. -/
def defaultMgmtPorts : List (Nat × Nat × Nat × Nat) :=
  (List.range 2).map fun m => (m, 64, 0xC6A3, linkLocal (Config.mgmtMac m).toNat)

/-! ### The firmware image (R441, R442) -/

/-- Section `i` of an image: KIND, OFFSET, LEN. -/
def fwSection (img : List Byte) (i : Nat) : Nat × Nat × Nat :=
  (fieldAt img (0x20 + 16 * i) 2, fieldAt img (0x20 + 16 * i + 2) 4, fieldAt img (0x20 + 16 * i + 6) 4)

/-- The header and sections of an image meet R441, and every reserved byte is zero. -/
def fwForm (img : List Byte) : Bool :=
  let len := fieldAt img 8 4
  let secs := (List.range 5).map (fwSection img)
  img.length == len && fieldAt img 0 4 == 0x57464E44 && fieldAt img 4 1 == 1 && allZero (sliceBytes img 5 3) &&
    len % 4096 == 0 && decide (8192 ≤ len) && decide (len ≤ slotBytes) && fieldAt img 0xC 2 == 5 &&
    decide (fieldAt img 0xE 2 ≤ 63) && allZero (sliceBytes img 0x14 12) &&
    (List.range 5).all (fun i => allZero (sliceBytes img (0x20 + 16 * i + 10) 6)) && allZero (sliceBytes img 0x70 176) &&
    allZero (sliceBytes img 0xE4D 435) &&
    secs.all (fun x => x.2.1 % 4096 == 0 && decide (0x1000 ≤ x.2.1) && decide (x.2.1 + x.2.2 ≤ len)) &&
    [1, 2, 3, 4, 5].all (fun k => secs.countP (fun x => x.1 == k) == 1) &&
    (List.range 5).all fun i => (List.range i).all fun j =>
      let a := fwSection img i
      let b := fwSection img j
      decide (a.2.1 + a.2.2 ≤ b.2.1) || decide (b.2.1 + b.2.2 ≤ a.2.1)

/-- Why the cocoon does not accept an image, by the causes of Table 15.7; none where it does (R442). -/
def fwRefusal (s : State) (img : List Byte) (sig : SigCheck) : Option Nat :=
  if !fwForm img then some 1
  else if !(sig.ed && sig.mldsa) then some 2
  else if fieldAt img 0xE 2 < s.nv.svnMin then some 3
  else none

/-- The image as it lies in its slot: as many bytes as its header gives, or the header alone. -/
def slotImage (s : State) : List Byte :=
  let h := norRead s fwBase 4096
  let len := fieldAt h 8 4
  if fieldAt h 0 4 = 0x57464E44 ∧ len ≤ slotBytes then norRead s fwBase (max 4096 len) else h

/-- The cocoon firmware of an image: its section of KIND 2. -/
def cocoonSection (img : List Byte) : List Byte :=
  match ((List.range 5).map (fwSection img)).find? fun x => x.1 == 2 with
  | some x => sliceBytes img x.2.1 x.2.2
  | none => []

/-! ### Calibration (R446 to R449) -/

/-- Units and data bytes of a calibration kind (Table 15.9). -/
def calUnits (kind : Nat) : Nat × Nat :=
  match kind with
  | 1 => (12, 4096)
  | 2 => (64, 256)
  | 3 => (16, 256)
  | 4 => (288, 128)
  | 5 => (1, 256)
  | _ => (0, 0)

/-- Every unit: kind and unit number. -/
def allCalUnits : List (Nat × Nat) := (List.range 6).flatMap fun k => (List.range (calUnits k).1).map fun u => (k, u)

/-- The records of a run of bytes, as far as they go. -/
def cutCal : Nat → List Byte → List (List Byte)
  | 0, _ => []
  | n + 1, b =>
    let len := 32 + fieldAt b 4 4
    if b.length < len then [] else b.take len :: cutCal n (b.drop len)

/-- The calibration records that the memory holds; none where the block header is invalid. LENGTH and NREC lie where those of
Table 15.3 do (DESIGN CHOICE, log 67). -/
def calRecords (s : State) : List (List Byte) :=
  let h := norRead s calBase 64
  let len := fieldAt h 8 4
  if fieldAt h 0 4 ≠ 0x41434E44 ∨ len < 64 ∨ regionBytes < len ∨ fieldAt h 4 4 ≠ 0 ∨ !allZero (sliceBytes h 0x10 48) then []
  else cutCal (fieldAt h 0xC 4) (norRead s (calBase + 64) (len - 64))

/-- A record is that of a unit. -/
def calIs (kind unit : Nat) (r : List Byte) : Bool := fieldAt r 0 1 == kind && fieldAt r 2 2 == unit

/-- A record is good: its data, its part and its check word (R447). -/
def calGood (s : State) (r : List Byte) : Bool :=
  let k := fieldAt r 0 1
  decide (fieldAt r 2 2 < (calUnits k).1) && fieldAt r 4 4 == (calUnits k).2 && r.length == 32 + (calUnits k).2 &&
    fieldAt r 8 8 == s.nv.serial && fieldAt r 0x18 4 == crc32cAt r 0x18

/-- Units with a bad or missing record. -/
def calBadUnits (s : State) : Nat :=
  let rs := calRecords s
  allCalUnits.countP fun u => !(rs.any fun r => calIs u.1 u.2 r && calGood s r)

/-- A record with its check word. -/
def calRecord (kind origin unit serial ts : Nat) (data : List Byte) : List Byte :=
  let h := leBytes 1 kind ++ leBytes 1 origin ++ leBytes 2 unit ++ leBytes 4 data.length ++ leBytes 8 serial ++ leBytes 8 ts
  h ++ leBytes 4 (crc32cAt (h ++ zeroBytes 8 ++ data) 0x18) ++ zeroBytes 4 ++ data

/-- Records after one of them is replaced, or added where its unit has none. -/
def calReplace (rs : List (List Byte)) (r : List Byte) : List (List Byte) :=
  let same := calIs (fieldAt r 0 1) (fieldAt r 2 2)
  if rs.any same then rs.map fun x => if same x then r else x else rs ++ [r]

/-- Bytes of a block of records. -/
def calLength (rs : List (List Byte)) : Nat := 64 + (rs.map (·.length)).sum

/-- The block of some records is programmed; what it replaces is erased (R448). -/
def calProgram (rs : List (List Byte)) (s : State) : State :=
  let h := leBytes 4 0x41434E44 ++ zeroBytes 4 ++ leBytes 4 (calLength rs) ++ leBytes 4 rs.length ++ zeroBytes 48
  norProgram calBase regionBytes (h ++ rs.flatten) s

/-- The sensor offsets of a record of kind 5, in force at once. -/
def applyOffsets (data : List Byte) (s : State) : State :=
  let offsets : List (Nat × Int) := (List.range 128).map fun k =>
    let w := fieldAt data (2 * k) 2
    (k, if w < 32768 then (w : Int) else (w : Int) - 65536)
  { s with power := { s.power with offsets := offsets } }

/-- A record comes into force as Table 15.9 states: sensor offsets at once; the trim words of a fabric lane, too, which nothing
else in this model reads. -/
def calTakes (r : List Byte) (s : State) : State := if fieldAt r 0 1 = 5 then applyOffsets (r.drop 32) s else s

/-- The trim words that a measurement of a unit gives: free values (log 7). -/
def measuredTrim (kind unit len : Nat) (s : State) : List Byte × State :=
  let (k, s1) := freeTick s
  ((List.range len).map fun i => Config.trimByte k (4096 * kind + unit) i, s1)

/-- A unit of kinds 1 to 4 is measured and its record written, with ORIGIN 2. -/
def recalUnit (kind : Nat) (s : State) (unit : Nat) : State :=
  let (data, s1) := measuredTrim kind unit (calUnits kind).2 s
  calProgram (calReplace (calRecords s1) (calRecord kind 2 unit s1.nv.serial s1.tb.now data)) s1

/-- Every unit of a kind. -/
def recalKind (s : State) (kind : Nat) : State := (List.range (calUnits kind).1).foldl (recalUnit kind) s

/-- The offset of sensor k that makes its reading the reference: from its last raw reading; a free value where it has none. -/
def sensorOffset (s : State) (ref : Int) (tick k : Nat) : List Byte :=
  match mfind s.power.temps k with
  | some t => leBytes 2 ((ref - (t - mget 0 s.power.offsets k)) % 65536).toNat
  | none => [Config.trimByte tick (4096 * 5) (2 * k), Config.trimByte tick (4096 * 5) (2 * k + 1)]

/-- The sensor offsets are measured against a reference temperature, written and in force (R449). -/
def recalSensors (ref : Int) (s : State) : State :=
  let (k, s1) := freeTick s
  let data := (List.range 128).flatMap fun i => sensorOffset s ref k i
  let r := calRecord 5 2 0 s1.nv.serial s1.tb.now data
  applyOffsets data (calProgram (calReplace (calRecords s1) r) s1)

/-! ### The wear record at cold start (R450) -/

/-- A bit of the unit bitmap says in service. -/
def wearBit (s : State) (b : Nat) : Bool := bitOf ((norRead s (0x27F000 + b / 8) 1).headD 0#8).toNat (b % 8)

/-- Lanes and modules that the record retires stay out of link training (phase 3). -/
def wearLanes (s : State) : State :=
  (List.range 416).foldl (fun s l =>
    if laneExists l && !wearBit s l then updLane l (fun h => { h with state := .retired }) s else s) s

/-- The pages that the record retires in a pseudo-channel: entries up to the first erased one, those whose complement does not
match left out. -/
def wearPages (s : State) (g : Nat) : List Nat :=
  let e := (chunks 4 358 (norRead s (wearSlot g + 16) 1432)).map leNat
  (e.takeWhile fun w => decide (w ≠ 0xFFFFFFFF)).filterMap fun w =>
    if w % 65536 + w / 65536 = 65535 ∧ w % 65536 < pcPages then some (g * pcPages + w % 65536) else none

/-- Retired pages and pseudo-channels stay out of the page pool (phase 5). -/
def wearPool (s : State) : State :=
  (List.range 768).foldl (fun s g =>
    let s1 := (wearPages s g).foldl (fun s p => { s with pages := mset s.pages p { use := .retired, part := 64 } }) s
    if fieldAt (norRead s (wearSlot g) 4) 0 4 = 0xFFFFFFFF then s1
    else updPcHealth g (fun h => { h with state := .retired }) s1) s

/-- Lost dies are handled as R423 states (phase 5). -/
def wearDies (s : State) : State :=
  (List.range 64).foldl (fun s d =>
    if !dieExists d || wearBit s (512 + d) then s
    else
      let dies := mset s.health.dies d { dieHealth s d with lost := true }
      loseDie d (logEvent 0x0204 d none d [] { s with health := { s.health with replaceReq := true, dies := dies } })) s

end Sys2Proof.Machine
end

