-- ==== Sys2Proof/Machine/Startup.lean ====
section
/-!
DEFINITION. Power and cold start (R432, R433, R488, R489): what a cold start clears, the seven phases of Table 15.1, recovery mode
(R444), configuration lock (R451), and the control pins that follow the state (R493).
-/

namespace Sys2Proof.Machine

open Sys2Proof

/-! ### Cold start (R432) -/

/-- Self-test runs that a cold start aborts (Table 16.6). -/
def abortedRuns (s : State) : List (Nat × BistRes) :=
  s.bist.running.foldl (fun m r => mset m r.testId { verdict := 3 }) []

/-- A cold start begins: everything but fuses and the configuration memory takes its reset value. Host memory is the host's, a
response that was sent stays sent, and free values are not drawn twice. -/
def coldStart (s : State) : State :=
  { pending := s.pending
    nv := s.nv
    host := { mem := s.host.mem }
    mgmt := { sent := s.mgmt.sent }
    bist := { results := abortedRuns s }
    cocoon := { draws := s.cocoon.draws }
    free := s.free }

/-- POWER_ON: PWRGD_IN rises. With a rail out of range the behaviour is not defined (R489). -/
def execPowerOn (railsGood : Bool) (s : State) : Host.Outcome State Fault Refusal :=
  if s.boot.powered then done s s
  else if railsGood then done s (coldStart s)
  else .fault .railOutOfRange

/-- POWER_FAIL: PWRGD_IN falls; the node stops, its ports go down and its state is lost (R489). THERMTRIP_N stays asserted
(R493). -/
def execPowerFail (s : State) : Host.Outcome State Fault Refusal :=
  let t := coldStart s
  done s { t with boot := { t.boot with powered := false, thermTrip := s.boot.thermTrip } }

/-! ### The phases (R433, Table 15.1) -/

/-- Phase 1: power good; the cocoon's ROM self-tests (R394). Fuses are read. -/
def phase1 (good : Bool) (s : State) : State :=
  if good then { s with cocoon := { s.cocoon with approved := true } } else keysLost (cocoonError s)

/-- Phase 2: the configuration block, the calibration block and the wear record are read and checked; sensor offsets apply. -/
def phase2 (s : State) : State :=
  let b := readBlock s
  let valid := (blockRecords s.nv.serial b).isSome
  let mgmt := ((blockRecords s.nv.serial b).getD []).foldl (fun s r =>
    if fieldAt r 0 2 = 5 then (recordEffect r s).getD s else s) { s with boot := { s.boot with mgmtPorts := defaultMgmtPorts } }
  let bad := calBadUnits s
  let rs := calRecords s
  let offsets := match rs.find? fun r => calIs 5 0 r && calGood s r with
    | some r => applyOffsets (r.drop 32) s
    | none => s
  { s with
    boot :=
      { s.boot with
        block := if valid then b.take (fieldAt b 8 4) else []
        cfgDefaulted := !valid
        mgmtPorts := mgmt.boot.mgmtPorts
        calBad := bad
        calFallback := decide (bad ≠ 0)
        calUser := rs.countP fun r => fieldAt r 1 1 == 1 || fieldAt r 1 1 == 2 }
    power := offsets.power }

/-- Re-calibration that waits is carried out for some kinds (R449). -/
def recalPending (kinds : List Nat) (s : State) : State :=
  let s1 := (s.nv.recalKinds.filter fun k => kinds.contains k).foldl recalKind s
  { s1 with nv := { s1.nv with recalKinds := s1.nv.recalKinds.filter fun k => !kinds.contains k } }

/-- Phase 3: retired lanes and modules stay out of training, package links and HBM train, pending re-calibration of kinds 1 and 4
runs, and the ROWZERO pass of R209 zeroes every row set of every pseudo-channel. -/
def phase3 (s : State) : State :=
  let s1 := recalPending [1, 4] (wearLanes s)
  let s2 := { s1 with mem := { s1.mem with hbm := [], checks := [], stale := [] } }
  (List.range 12).foldl (fun s b => updMemDie b (fun d =>
    { d with rowDone := sat32 (d.rowDone + 64 * 18432), slotMax := max d.slotMax 128 }) s) s2

/-- The node enters recovery mode with a cause of Table 15.7 (R444). -/
def enterRecovery (cause : Nat) (s : State) : State :=
  { s with
    boot := { s.boot with recovery := true, recoveryCause := cause }
    nv := { s.nv with enterRecovery := false, commitSvn := false } }

/-- Phase 4: the firmware image is read, hashed and verified; what fails puts the node into recovery mode. A COMMIT_SVN that waited
raises the minimum once the new image has passed (R443). `none`: recovery mode was entered. -/
def phase4 (sig : SigCheck) (s : State) : State × Bool :=
  if s.nv.enterRecovery then (enterRecovery 4 s, false)
  else
    let img := slotImage s
    match fwRefusal s img sig with
    | some cause => (enterRecovery cause s, false)
    | none =>
      let svn := fieldAt img 0xE 2
      ({ s with
        boot :=
          { s.boot with
            fwVersion := fieldAt img 0x10 4
            svn := svn
            fwDigest := sha384 img
            cocoonDigest := sha384 (cocoonSection img) }
        nv :=
          { s.nv with
            svnMin := if s.nv.commitSvn then max s.nv.svnMin svn else s.nv.svnMin
            commitSvn := false } }, true)

/-- The keys that the cocoon makes at a cold start (Table 13.5): the alias keys from the device secret and the two digests, unless
the secret is gone, the transport keys and the spill key; none in its error state. -/
def startKeys (s : State) : State :=
  if s.cocoon.errorState then s
  else
    let (k, s1) := draw s
    let alias_ := if s.nv.secretErased then none
      else some (Config.aliasSeed Config.deviceSecret s.boot.fwDigest s.boot.cocoonDigest)
    { s1 with cocoon := { s1.cocoon with aliasSeed := alias_, transportKeys := true, spillKey := some k } }

/-- Below the floor of R427 from the start. -/
def startFloor (s : State) : State :=
  let n := poolPages s
  if n < 10321920 ∧ !s.health.belowFloor then
    logEvent 0x0902 srcCt none 0 [n] { s with health := { s.health with belowFloor := true, replaceReq := true } }
  else s

/-- Phase 5: the cocoon derives its keys, the directory dies are cleared with the link between them trained, and the page pool is built without what the wear record
retires. -/
def phase5 (s : State) : State :=
  let s1 := startFloor (wearDies (wearPool (startKeys s)))
  { s1 with dir :=
    { s1.dir with
      cascadeUp := !dieLost s1 0x38 && !dieLost s1 0x39
      dd0 := { s1.dir.dd0 with ready := !dieLost s1 0x38 }
      dd1 := { s1.dir.dd1 with ready := !dieLost s1 0x39 } } }

/-- Phase 6: the configuration block is applied record by record, or the factory defaults stand; pending re-calibration of CXL
lanes runs; ports begin training. -/
def phase6 (s : State) : State :=
  let s1 := recalPending [3] s
  match blockRecords s1.nv.serial s1.boot.block with
  | some rs =>
    let s2 := rs.foldl applyRecord s1
    { s2 with boot := { s2.boot with cver := 1, configDigest := sha384 s1.boot.block } }
  | none => { s1 with boot := { s1.boot with configDigest := sha384 emptyBlock } }

/-- Phase 7: configuration lock is set and the node is ready (R451). A root that takes no time from IEEE 1588 loads its timebase
at zero (R305 step 5). -/
def phase7 (s : State) : State :=
  let s1 := if isRoot s && !ptpEn s then loadRoot 0 s else s
  { s1 with boot := { s1.boot with locked := true } }

/-- The next phase, and whether it ended. -/
def nextPhase (inp : PhaseInput) (s : State) : State × Bool :=
  match s.boot.stage with
  | 0 => (phase1 inp.selfTestGood s, true)
  | 1 => (phase2 s, true)
  | 2 => (phase3 s, true)
  | 3 => phase4 inp.sig s
  | 4 => (phase5 s, true)
  | 5 => (phase6 s, true)
  | 6 => (phase7 s, true)
  | _ => (s, false)

/-- COLD_START_PHASE: the next phase of Table 15.1. -/
def execColdStartPhase (inp : PhaseInput) (s : State) : Host.Outcome State Fault Refusal :=
  if !s.boot.powered || s.boot.recovery || s.boot.thermTrip || s.health.stopped then done s s
  else
    let (t, ended) := nextPhase inp s
    done s (if ended then { t with boot := { t.boot with stage := s.boot.stage + 1 } } else t)

/-! ### Control pins (R493) -/

/-- FAULT_N is asserted. -/
def faultAsserted (s : State) : Bool := s.health.stopped || s.health.replaceReq || s.boot.recovery || s.cocoon.errorState

/-- TB_PPS is high at the present time. -/
def tbPpsHigh (s : State) : Bool := (s.tb.locked || isRoot s) && decide (s.tb.now % 1000000000 < 1000)

end Sys2Proof.Machine
end

