-- ==== Sys2Proof/Machine/Bist.lean ====
section
/-!
DEFINITION. The self-test engine (chapter 16): test IDs (R458, R459), signatures (R460, R461), commanded runs (R462, R463),
in-service tests (R464 to R466), and access over JTAG and the forerunner path (R467, R468).
-/

namespace Sys2Proof.Machine

open Sys2Proof

/-! ### Signatures (R460) -/

/-- One step of the signature register. -/
def misrStep (s d : BitVec 64) : BitVec 64 := (s <<< 1) ^^^ (if s.msb then 0x1B#64 else 0#64) ^^^ d

/-- The signature of the words captured. -/
def misr (ws : List (BitVec 64)) : BitVec 64 := ws.foldl misrStep 0#64

/-- The verdict: 1 PASS, 2 FAIL. -/
def verdictOf (reference : BitVec 64) (cap : BistCapture) : Nat := if misr cap.words = reference then 1 else 2

/-- A run that ended is recorded in its result register (Table 16.6). -/
def recordRun (t verdict : Nat) (inService : Bool) (s : State) : State :=
  let r := mget ({} : BistRes) s.bist.results t
  let r' : BistRes :=
    { verdict := verdict
      inService := inService
      fails := if verdict = 2 then min 65535 (r.fails + 1) else r.fails
      runs := sat32 (r.runs + 1) }
  { s with bist := { s.bist with results := mset s.bist.results t r' } }

/-! ### Commanded runs (R462, R463) -/

/-- The reference of a run: from the signature table of the firmware (log 8), or from the command that starts it. -/
def referenceFor (t given : Nat) : BitVec 64 := if testClass t ≤ 4 then Config.misrReference t else BitVec.ofNat 64 given

/-- The arguments of BIST_RUN (Table 16.3): a test that exists, EXTERNAL for class 0x3 only, a reference and vectors for classes 0x5
and 0x6 only. -/
def runArgs (c : MgmtCmd) : Bool :=
  let t := c.arg0 % 65536
  testExists t && c.arg3 == 0 && (!bitOf c.arg0 16 || testClass t == 3) &&
    (decide (5 ≤ testClass t) || (c.arg1 == 0 && c.arg2 == 0 && c.input == []))

/-- Self-test is open to commands (R462, Table 16.5). -/
def testState (s : State) : Bool := s.nv.lifecycle == .manufacture || s.nv.lifecycle == .rma

/-- BIST_RUN: the response follows when the run ends. -/
def execBistRun (c : MgmtCmd) (s : State) : Host.Outcome State Fault Refusal :=
  let t := c.arg0 % 65536
  mgmtCmd c ((c.role == .operator || c.role == .board) && testState s) s
    (if !runArgs c then mgmtAnswer c stFormat 0 [] s
     else if 5 ≤ testClass t ∧ !s.parts.isEmpty then mgmtAnswer c stNotPermitted 0 [] s
     else addRun { testId := t, reference := referenceFor t (c.arg1 + c.arg2 * 2 ^ 32), external := bitOf c.arg0 16, cmd := some c } s)

/-- The output of a run (Table 16.3): BIT_ERRORS of classes 0x3 and 0x4, LANE_FAIL of class 0x1. -/
def runOutput (r : BistRunning) (cap : BistCapture) : List Byte :=
  let c := testClass r.testId
  leBytes 8 (misr cap.words).toNat ++ leBytes 8 r.reference.toNat ++ leBytes 4 (verdictOf r.reference cap) ++
    leBytes 4 (if c = 3 ∨ c = 4 then cap.bitErrors else 0) ++ leBytes 8 (if c = 1 then cap.laneFail else 0)

/-- A retrain after a check frame that failed counts under R417. -/
def checkRetrain (t : Nat) (s : State) : State :=
  match testLane t with
  | some l =>
    updLane l (fun h =>
      { h with
        retrains := sat32 (h.retrains + 1)
        retrainTimes := (h.retrainTimes.filter fun x => decide (s.tb.now ≤ x + dayNs)) ++ [s.tb.now]
        probation := 3 }) s
  | none => s

/-- A run of a unit in service ends with the unit's return to service: the saved state is written back, and a check frame that fails
makes the unit retrain (R463, R464 steps 4 and 5). -/
def unitReturns (r : BistRunning) (checkGood : Bool) (s : State) : State :=
  let s1 := returnLanes r s
  if checkGood || !testedInService s r.testId then s1 else checkRetrain r.testId s1

/-- BIST_TEST_END: a commanded run ends; it is reported and recorded, and its verdict adds nothing to health scores (R463). After
boundary scan the management die answers over JTAG. -/
def execBistTestEnd (testId : Nat) (e : BistEnd) (s : State) : Host.Outcome State Fault Refusal :=
  if !s.boot.powered then done s s
  else match s.bist.running.find? fun r => r.testId == testId with
    | none => done s s
    | some r =>
      let out := runOutput r e.cap
      let s1 := recordRun testId (verdictOf r.reference e.cap) false
        { s with bist := { s.bist with running := s.bist.running.erase r } }
      let s2 :=
        if 5 ≤ testClass testId then { s1 with bist := { s1.bist with jtagOut := out } }
        else match r.cmd with
          | some c => mgmtAnswer c stOk 0 out s1
          | none => { s1 with bist := { s1.bist with jtagOut := out } }
      done s (startWaiting (unitReturns r e.checkGood s2))

/-! ### In-service tests (R464 to R466) -/

/-- An in-service FAIL whose retest passed: a transient retrain under Table 14.9. -/
def transientFail (t : Nat) (s : State) : State :=
  match testLane t with
  | some l => addLane l 8 (logEvent 0x0201 (laneSource l) none l [0, 0, 0, t] s)
  | none => addPc (testUnit t) 8 s

/-- An in-service FAIL whose retest failed: a permanent fault. -/
def permanentFail (t : Nat) (s : State) : State :=
  match testLane t with
  | some l => laneFault l (logEvent 0x0201 (laneSource l) none l [0, 0, 0, t] s)
  | none =>
    let g := testUnit t
    let s1 := logEvent 0x0103 (mbSource g) none g [0, 0, 0, t] s
    addPc g (1023 - (pcHealth s1 g).score) s1

/-- Firmware goes through each class in ascending order of its units in service, from the last onward to the first; a deferred test and
a degraded-kept unit, which is tested twice as often, come out of turn (R464, R465). -/
def inServiceTurn (s : State) (t : Nat) : Bool :=
  let c := testClass t
  let from_ := mget 0 s.bist.nextUnit c
  let units := (List.range (classUnits c)).rotateLeft from_
  let kept := match testLane t with
    | some l => (laneHealth s l).state == .degradedKept
    | none => (pcHealth s (testUnit t)).state == .degradedKept
  s.bist.held.contains t || kept || (units.find? fun u => testedInService s (c * 4096 + u)) == some (testUnit t)

/-- The class goes on behind a unit; a test that ran is no longer deferred. -/
def turnTaken (t : Nat) (deferred : Bool) (s : State) : State :=
  let c := testClass t
  let held := s.bist.held.filter fun x => x != t
  let inTurn := !s.bist.held.contains t
  { s with bist :=
    { s.bist with
      held := if deferred then held ++ [t] else held
      nextUnit := if inTurn then mset s.bist.nextUnit c ((testUnit t + 1) % classUnits c) else s.bist.nextUnit } }

/-- BIST_IN_SERVICE: firmware tests one unit in service, or defers the test. `retest`: what the retest of a failed run captured;
`checkGood`: the check frame of step 4 holds. -/
def execBistInService (t : Nat) (cap : BistCapture) (retest : Option BistCapture) (checkGood : Bool) (s : State) :
    Host.Outcome State Fault Refusal :=
  if !serving s || s.nv.lifecycle == .decommissioned || !testExists t || decide (5 ≤ testClass t) || !testedInService s t ||
      !inServiceTurn s t then done s s
  else if !testRunsNow s t then
    done s (turnTaken t true { s with bist := { s.bist with deferred := sat32 (s.bist.deferred + 1) } })
  else if !engineFree s t then done s s
  else
    let ref := Config.misrReference t
    let v := verdictOf ref cap
    let s1 := recordRun t v true s
    let s2 :=
      if v = 1 then s1
      else
        let again := verdictOf ref (retest.getD cap)
        let s2 := recordRun t again true s1
        if again = 1 then transientFail t s2 else permanentFail t s2
    done s (startWaiting (turnTaken t false (if checkGood then s2 else checkRetrain t s2)))

/-! ### The forerunner path and JTAG (R467, R468, Table 16.5) -/

/-- BIST_COMPAT_OPEN: keys are erased, ports go down, and the test access of the forerunner opens until the next cold start. -/
def execBistCompatOpen (c : MgmtCmd) (s : State) : Host.Outcome State Fault Refusal :=
  mgmtCmd c (c.role == .operator && s.nv.lifecycle == .deployed && s.parts.isEmpty) s
    (if c.arg0 ≠ 0 ∨ c.arg1 ≠ 0 ∨ c.arg2 ≠ 0 ∨ c.arg3 ≠ 0 ∨ c.input ≠ [] then mgmtAnswer c stFormat 0 [] s
     else
       let s1 := eraseKeys { s with cocoon := { s.cocoon with readLocked := true } }
       let s2 := portsDown s1
       let s3 := { s2 with mgmt := { s2.mgmt with portsUp := false }, boot := { s2.boot with compatOpen := true } }
       logEvent 0x0802 srcCt none 0 [] (mgmtAnswer c stOk 0 [] s3))

/-- The JTAG instructions beyond BYPASS and IDCODE are available. -/
def jtagOpen (s : State) : Bool := testState s || s.boot.compatOpen

/-- Boundary scan through JTAG drives the pins: under the conditions of R463. -/
def jtagScan (s : State) : State :=
  if !s.parts.isEmpty then s
  else
    let s1 := portsDown s
    { s1 with mgmt := { s1.mgmt with portsUp := false }, boot := { s1.boot with scanIdle := true } }

/-- IDCODE (R467). -/
def idcode : Nat := 0x197203BD

/-- JTAG_INSTRUCTION: executed or, where the lifecycle state does not let it in, without effect. -/
def execJtagInstruction (i : JtagInstr) (s : State) : Host.Outcome State Fault Refusal :=
  if !s.boot.powered then done s s
  else match i with
    | .bypass => done s s
    | .idcode => done s { s with bist := { s.bist with jtagOut := leBytes 4 idcode } }
    | .samplePreload => done s s
    | .extest | .extestPulse | .extestTrain => done s (if jtagOpen s then jtagScan s else s)
    | .bist t ref =>
      if !jtagOpen s || !testExists t || (decide (5 ≤ testClass t) && !s.parts.isEmpty) then done s s
      else done s (addRun { testId := t, reference := referenceFor t ref, external := false, cmd := none } s)
    | .internalScan => if testState s then .refused .internalScan else done s s

end Sys2Proof.Machine
end

