-- ==== Sys2Proof/Machine/Manage.lean ====
section
/-!
DEFINITION. The management network (R454, R455) and the start-up and lifecycle commands of Table 15.13: configuration, firmware
and calibration (R434, R440 to R449), the lifecycle (R452, R453), cold reset (R432) and register access (R8, R497).
-/

namespace Sys2Proof.Machine

open Sys2Proof

/-- OPERATOR or BOARD. -/
def opOrBoard (r : Role) : Bool := r == .operator || r == .board

/-- Messages reach the management die and it answers. -/
def mgmtReach (s : State) : Bool := s.boot.powered && s.mgmt.portsUp && !s.boot.thermTrip && !s.health.stopped

/-! ### Messages (R454, R455) -/

/-- A read that stays in the identity block needs no session (R444, R451, R454). -/
def identityRead (off words : Nat) : Bool := decide (off + 8 * words ≤ 0x100000)

/-- A role may issue a command (Tables 13.3, 15.11 and 15.13, R462, R468, R476), in the state that the node is in (R444, R451). -/
def mgmtAllowed (s : State) (r : Role) (code arg0 arg1 arg2 : Nat) : Bool :=
  if code = 0x7A ∧ identityRead arg1 arg2 then true
  else if s.boot.recovery then code == 0x71
  else if !s.boot.locked then (code == 0x7A || code == 0x7B) && r == .board
  else match code with
    | 0x42 | 0x50 | 0x60 | 0x61 | 0x62 | 0x63 | 0x64 | 0x73 | 0x81 => r == .operator
    | 0x72 | 0x79 => r == .board
    | 0x78 => opOrBoard r || (s.nv.lifecycle == .manufacture && arg0 % 8 == 2)
    | 0x70 | 0x74 | 0x75 | 0x76 | 0x77 | 0x7A | 0x7B | 0x80 | 0x90 => opOrBoard r
    | _ => false

/-- Codes that are carried over the management network. -/
def mgmtCodes : List Nat :=
  [0x42, 0x50, 0x60, 0x61, 0x62, 0x63, 0x64, 0x70, 0x71, 0x72, 0x73, 0x74, 0x75, 0x76, 0x77, 0x78, 0x79, 0x7A, 0x7B, 0x80, 0x81, 0x90]

/-- Codes of Table 12.7 that are accepted from rings only. -/
def ringCodes : List Nat := [0x01, 0x10, 0x20, 0x21, 0x22, 0x23, 0x24, 0x30, 0x31, 0x40, 0x41]

/-- The role of the session that a message came in. -/
def sessionRole (s : State) (secured : Bool) (sid : Nat) : Role :=
  if !secured then .none
  else match s.cocoon.mb1.sessions.find? fun x => x.1 == sid with
    | some x => x.2
    | none => .none

/-- Staged pieces over the first bytes of a buffer: each byte written, or not. -/
def layPiece (buf : List (Option Byte)) (off : Nat) (bs : List Byte) : List (Option Byte) :=
  buf.take off ++ (bs.take (buf.length - off)).map some ++ buf.drop (off + bs.length)

/-- The input that some pieces make; none where a byte is missing. -/
def joinPieces (total : Nat) (ps : List (Nat × List Byte)) : Option (List Byte) :=
  let buf : List (Option Byte) := ps.foldl (fun b p => layPiece b p.1 p.2) (List.replicate total none)
  if buf.all (·.isSome) then some (buf.map fun b => b.getD 0#8) else none

/-- The command comes in pieces; a calibration record that fits one message may come whole (log 67). -/
def isPiece (c : MgmtCmd) (code : Nat) (staged : Bool) : Bool :=
  code == 0x70 || code == 0x71 || code == 0x73 ||
    (code == 0x76 && (bitOf c.arg0 31 || staged || c.arg1 != 0 || c.input.length != 32 + fieldAt c.input 4 4))

/-- A command is admitted; it is carried out by its own row. -/
def admitCmd (c : MgmtCmd) (s : State) : State := { s with mgmt := { s.mgmt with admitted := s.mgmt.admitted ++ [(c.port, c)] } }

/-- A piece is staged, and the last one makes the command (R455). -/
def takePiece (c : MgmtCmd) (code : Nat) (s : State) : State :=
  let key := c.session * 65536 + code
  let ps := s.mgmt.pieces ++ [(key, c.arg1, c.input)]
  let s1 := { s with mgmt := { s.mgmt with pieces := ps } }
  if !bitOf c.arg0 31 then mgmtAnswer c stOk 0 [] s1
  else
    let s2 := { s with mgmt := { s.mgmt with pieces := ps.filter fun x => x.1 != key } }
    if slotBytes < c.arg2 then mgmtAnswer c stFormat 0 [] s2
    else match joinPieces c.arg2 ((ps.filter fun x => x.1 == key).map (·.2)) with
      | none => mgmtAnswer c stFormat 0 [] s2
      | some input => admitCmd { c with arg0 := c.arg0 % 2 ^ 31, arg1 := 0, arg2 := 0, input := input } s2

/-- A REQUEST that is no repeat. -/
def takeRequestMsg (m : MgmtMsg) (s : State) : State :=
  let e := m.payload
  let code := fieldAt e 0 2
  let c : MgmtCmd :=
    { role := sessionRole s m.secured m.session
      port := m.port
      session := if m.secured then m.session else 0
      mseq := m.mseq
      cmdId := fieldAt e 4 4
      arg0 := fieldAt e 0x14 4
      arg1 := fieldAt e 0x24 4
      arg2 := fieldAt e 0x28 4
      arg3 := fieldAt e 0x2C 4
      input := e.drop 64 }
  if e.length < 64 ∨ 1400 < e.length then mgmtAnswer c stFormat 0 [] s
  else if ringCodes.contains code then mgmtAnswer c stNotPermitted 0 [] s
  else if mgmtCodes.contains code ∧ !mgmtAllowed s c.role code c.arg0 c.arg1 c.arg2 then mgmtAnswer c stNotPermitted 0 [] s
  else if !mgmtCodes.contains code then mgmtAnswer c (if c.role = .none then stNotPermitted else stFormat) 0 [] s
  else if fieldAt e 0x30 8 ≠ 0 then mgmtAnswer c stFormat 0 [] s
  else if isPiece c code (s.mgmt.pieces.any fun x => x.1 == c.session * 65536 + code) then takePiece c code s
  else admitCmd c s

/-- A cocoon mailbox message for instance 1. -/
def takeSpdm (m : MgmtMsg) (s : State) : State :=
  let b := mailbox s 1
  if b.busy || s.boot.recovery || !s.cocoon.approved then s
  else
    let words : List (Nat × Nat) := (List.range ((m.payload.length + 7) / 8)).map fun w => (w, fieldAt m.payload (8 * w) 8)
    setMailbox 1 { b with req := words, reqLen := m.payload.length, busy := true } s

/-- The answer to a message whose header the node does not take. -/
def headerRefused (m : MgmtMsg) (s : State) : State :=
  let rsp : MgmtRsp := ⟨m.session, m.mseq, m.port, stFormat, 0, 0, []⟩
  { s with mgmt := { s.mgmt with sent := mset s.mgmt.sent m.port rsp } }

/-- MGMT_MESSAGE: a REQUEST is answered, repeated, staged or admitted; an SPDM message goes to mailbox instance 1. -/
def execMgmtMessage (m : MgmtMsg) (s : State) : Host.Outcome State Fault Refusal :=
  if !mgmtReach s then done s s
  else if m.mver ≠ 1 then done s (headerRefused m s)
  else match m.mtype with
    | 1 =>
      let old := if m.secured then (mget [] s.mgmt.stored m.session).find? fun r => r.mseq == m.mseq else none
      match old with
      | some r => done s { s with mgmt := { s.mgmt with sent := mset s.mgmt.sent m.port { r with port := m.port } } }
      | none => done s (takeRequestMsg m s)
    | 2 => done s s
    | 3 => done s (takeSpdm m s)
    | _ => done s (headerRefused m s)

/-! ### Configuration memory (R434, R440) -/

/-- CFG_READ. -/
def execCfgRead (c : MgmtCmd) (s : State) : Host.Outcome State Fault Refusal :=
  mgmtCmd c (opOrBoard c.role) s
    (if c.arg0 ≠ 0 ∨ c.arg3 ≠ 0 ∨ c.input ≠ [] ∨ c.arg2 = 0 ∨ 1024 < c.arg2 ∨ norBytes < c.arg1 + c.arg2 then mgmtAnswer c stFormat 0 [] s
     else if 0x280000 < c.arg1 + c.arg2 ∧ c.arg1 < 0x1000000 then mgmtAnswer c stNotPermitted 0 [] s
     else mgmtAnswer c stOk 0 (norRead s c.arg1 c.arg2) s)

/-- CFG_WRITE: a valid block of exactly its own length is erased into place and programmed. -/
def execCfgWrite (c : MgmtCmd) (s : State) : Host.Outcome State Fault Refusal :=
  mgmtCmd c (c.role == .operator) s
    (if c.input.length ≠ fieldAt c.input 8 4 ∨ (blockRecords s.nv.serial c.input).isNone then mgmtAnswer c stFormat 0 [] s
     else
       let s1 := norProgram blockBase regionBytes c.input s
       mgmtAnswer c stOk 0 [] { s1 with boot := { s1.boot with cfgPending := true } })

/-! ### Firmware (R442 to R445) -/

/-- The status that refuses an image (R444; the same for FW_UPDATE, log 67). -/
def fwStatus (cause : Nat) : Nat := if cause = 1 then stFormat else stNotPermitted

/-- FW_UPDATE: a verified image goes to the slot for the next cold start. -/
def execFwUpdate (c : MgmtCmd) (sig : SigCheck) (s : State) : Host.Outcome State Fault Refusal :=
  mgmtCmd c (opOrBoard c.role) s
    (match fwRefusal s c.input sig with
     | some cause => mgmtAnswer c (fwStatus cause) 0 [] s
     | none =>
       let s1 := norProgram fwBase slotBytes c.input s
       mgmtAnswer c stOk 0 []
         { s1 with boot := { s1.boot with fwPending := true }, nv := { s1.nv with commitSvn := bitOf c.arg0 0 } })

/-- RECOVERY_LOAD: in recovery mode only, from anyone; a verified image goes to the slot, and a cold start follows. -/
def execRecoveryLoad (c : MgmtCmd) (sig : SigCheck) (s : State) : Host.Outcome State Fault Refusal :=
  if !mgmtReach s then done s s
  else if !s.boot.recovery then done s (mgmtAnswer c stNotPermitted 0 [] s)
  else match fwRefusal s c.input sig with
    | some cause => done s (mgmtAnswer c (fwStatus cause) 0 [] s)
    | none => done s (coldStart (mgmtAnswer c stOk 0 [] (norProgram fwBase slotBytes c.input s)))

/-- Every argument of a command is zero and it has no input. -/
def noArgs (c : MgmtCmd) : Bool := c.arg0 == 0 && c.arg1 == 0 && c.arg2 == 0 && c.arg3 == 0 && c.input == []

/-- ENTER_RECOVERY: recovery mode at the next cold start. -/
def execEnterRecovery (c : MgmtCmd) (s : State) : Host.Outcome State Fault Refusal :=
  mgmtCmd c (c.role == .board) s
    (if !noArgs c then mgmtAnswer c stFormat 0 [] s
     else mgmtAnswer c stOk 0 [] { s with nv := { s.nv with enterRecovery := true } })

/-! ### Calibration (R446 to R449) -/

/-- CAL_READ: a record as it is held. A unit that has none is refused (log 67). -/
def execCalRead (c : MgmtCmd) (s : State) : Host.Outcome State Fault Refusal :=
  mgmtCmd c (opOrBoard c.role) s
    (if c.arg2 ≠ 0 ∨ c.arg3 ≠ 0 ∨ c.input ≠ [] ∨ (calUnits (c.arg0 % 256)).1 ≤ c.arg1 then mgmtAnswer c stFormat 0 [] s
     else match (calRecords s).find? (calIs (c.arg0 % 256) c.arg1) with
       | some r => mgmtAnswer c stOk 0 r s
       | none => mgmtAnswer c stFormat 0 [] s)

/-- CAL_WRITE: the record supplied replaces that of its unit, with ORIGIN 1 and the time of the write. -/
def execCalWrite (c : MgmtCmd) (s : State) : Host.Outcome State Fault Refusal :=
  let k := fieldAt c.input 0 1
  let rs := calReplace (calRecords s) (calRecord k 1 (fieldAt c.input 2 2) s.nv.serial s.tb.now (c.input.drop 32))
  mgmtCmd c (opOrBoard c.role) s
    (if !calGood s c.input then mgmtAnswer c stFormat 0 [] s
     else if regionBytes < calLength rs then mgmtAnswer c stPoolFull 0 [] s
     else mgmtAnswer c stOk 0 [] (calTakes c.input (calProgram rs s)))

/-- RECAL: kinds 2 and 5 are measured at once, kinds 1, 3 and 4 at the next cold start. -/
def execRecal (c : MgmtCmd) (s : State) : Host.Outcome State Fault Refusal :=
  let ref : Int := if c.arg1 % 65536 < 32768 then ((c.arg1 % 65536 : Nat) : Int) else ((c.arg1 % 65536 : Nat) : Int) - 65536
  mgmtCmd c (opOrBoard c.role) s
    (if 64 ≤ c.arg0 ∨ c.arg0 % 2 = 1 ∨ (!bitOf c.arg0 5 ∧ c.arg1 ≠ 0) ∨ c.arg2 ≠ 0 ∨ c.arg3 ≠ 0 ∨ c.input ≠ [] then mgmtAnswer c stFormat 0 [] s
     else if !s.parts.isEmpty then mgmtAnswer c stNotPermitted 0 [] s
     else
       let later := [1, 3, 4].filter fun k => bitOf c.arg0 k
       let s1 := { s with nv := { s.nv with recalKinds := [1, 3, 4].filter fun k => later.contains k || s.nv.recalKinds.contains k } }
       let s2 := if bitOf c.arg0 2 then recalKind s1 2 else s1
       mgmtAnswer c stOk 0 [] (if bitOf c.arg0 5 then recalSensors ref s2 else s2))

/-! ### Lifecycle and cold reset (R432, R452, R453) -/

/-- The states by code (Table 15.10). -/
def lifecycleOf (k : Nat) : Option Lifecycle :=
  match k with
  | 1 => some .manufacture
  | 2 => some .provisioned
  | 3 => some .deployed
  | 4 => some .rma
  | 5 => some .decommissioned
  | _ => none

/-- The transitions of Table 15.11, with who issues them and on what condition. -/
def transitionAllowed (s : State) (c : MgmtCmd) (sig : SigCheck) (t : Lifecycle) : Bool :=
  let slot := decide (s.nv.roots.length < 4)
  decide (s.nv.lcSteps < 63) && match s.nv.lifecycle, t with
    | .manufacture, .provisioned => slot && c.input.length == 48
    | .provisioned, .deployed => c.role == .operator
    | .deployed, .rma => c.role == .operator && s.parts.isEmpty
    | .rma, .provisioned => c.role == .operator && slot && sig.ed && sig.mldsa && decide (48 ≤ c.input.length)
    | .decommissioned, .decommissioned => false
    | from_, .decommissioned =>
      (c.role == .operator || (c.role == .board && (from_ == .manufacture || from_ == .rma))) && s.parts.isEmpty
    | _, _ => false

/-- What a transition fuses: the state, the root digest of an entry into PROVISIONED (the first 48 bytes of the input, log 67), the
erased secret of DECOMMISSIONED. -/
def fuseTransition (c : MgmtCmd) (t : Lifecycle) (s : State) : State :=
  { s with nv :=
    { s.nv with
      lifecycle := t
      lcSteps := s.nv.lcSteps + 1
      roots := if t = .provisioned then s.nv.roots ++ [c.input.take 48] else s.nv.roots
      secretErased := s.nv.secretErased || t == .decommissioned } }

/-- LC_TRANSITION: the counter advances, the completion is sent and a cold start follows. -/
def execLcTransition (c : MgmtCmd) (sig : SigCheck) (s : State) : Host.Outcome State Fault Refusal :=
  mgmtCmd c true s
    (match lifecycleOf (c.arg0 % 8) with
     | none => mgmtAnswer c stFormat 0 [] s
     | some t =>
       if c.arg1 ≠ 0 ∨ c.arg2 ≠ 0 ∨ c.arg3 ≠ 0 then mgmtAnswer c stFormat 0 [] s
       else if transitionAllowed s c sig t then coldStart (fuseTransition c t (mgmtAnswer c stOk 0 [] s))
       else mgmtAnswer c stNotPermitted 0 [] s)

/-- COLD_RESET: the completion is sent and a cold start follows. -/
def execColdReset (c : MgmtCmd) (s : State) : Host.Outcome State Fault Refusal :=
  mgmtCmd c (c.role == .board) s
    (if !noArgs c then mgmtAnswer c stFormat 0 [] s else coldStart (mgmtAnswer c stOk 0 [] s))

/-! ### Register access (R8, R451, R497) -/

/-- REG_READ_M: words of the window over instance 1. A misaligned read returns ones and is counted for each word
(DESIGN CHOICE, log 75). -/
def execRegReadM (c : MgmtCmd) (s : State) : Host.Outcome State Fault Refusal :=
  if !mgmtReach s then done s s
  else if !inSession s c || !mgmtAllowed s c.role 0x7A c.arg0 c.arg1 c.arg2 then done s (mgmtAnswer c stNotPermitted 0 [] s)
  else if c.arg0 ≠ 0 ∨ c.arg3 ≠ 0 ∨ c.input ≠ [] ∨ c.arg2 = 0 ∨ 128 < c.arg2 ∨ 0x4000000 < c.arg1 + 8 * c.arg2 then
    done s (mgmtAnswer c stFormat 0 [] s)
  else if c.arg1 % 8 ≠ 0 then
    done s (mgmtAnswer c stOk 0 (List.replicate (8 * c.arg2) 0xFF#8)
      ((List.range c.arg2).foldl (fun s i => accessFault (c.arg1 + 8 * i) s) s))
  else done s (mgmtAnswer c stOk 0 ((List.range c.arg2).flatMap fun i => leBytes 8 (readReg s 1 (c.arg1 + 8 * i))) s)

/-- REG_WRITE_M: one word of the window, by R8 and Table 0.3. -/
def execRegWriteM (c : MgmtCmd) (s : State) : Host.Outcome State Fault Refusal :=
  if !mgmtReach s then done s s
  else if !inSession s c || !mgmtAllowed s c.role 0x7B c.arg0 c.arg1 c.arg2 then done s (mgmtAnswer c stNotPermitted 0 [] s)
  else if c.arg0 ≠ 0 ∨ c.arg2 ≠ 0 ∨ c.arg3 ≠ 0 ∨ c.input.length ≠ 8 ∨ 0x4000000 < c.arg1 + 8 then done s (mgmtAnswer c stFormat 0 [] s)
  else if c.arg1 % 8 ≠ 0 then done s (mgmtAnswer c stOk 0 [] (accessFault c.arg1 s))
  else done s (mgmtAnswer c stOk 0 [] (writeWord (.mgmt c.role) c.arg1 0xFFFFFFFFFFFFFFFF (fieldAt c.input 0 8) s))

end Sys2Proof.Machine
end

