-- ==== Sys2Proof/Machine/Dispatch.lean ====
section
/-!
DEFINITION. One arm per command: each calls the meaning written for it.
-/

namespace Sys2Proof.Machine

open Sys2Proof

/-- The effect of a command on everything but the queue. -/
def exec (i : Instr) (s : State) : Host.Outcome State Fault Refusal :=
  match i with
  | .powerOn railsGood => Sys2Proof.Machine.execPowerOn railsGood s
  | .coldStartPhase inp => Sys2Proof.Machine.execColdStartPhase inp s
  | .powerFail => Sys2Proof.Machine.execPowerFail s
  | .tamperEvent => Sys2Proof.Machine.execTamperEvent s
  | .cocoonSelfTestFail => Sys2Proof.Machine.execCocoonSelfTestFail s
  | .watchdogExpire => Sys2Proof.Machine.execWatchdogExpire s
  | .timebaseTick => Sys2Proof.Machine.execTimebaseTick s
  | .timebaseMarkerSend port => Sys2Proof.Machine.execTimebaseMarkerSend port s
  | .timebaseMarkerReceive port peerSend peerLastRx at_ => Sys2Proof.Machine.execTimebaseMarkerReceive port peerSend peerLastRx at_ s
  | .holdoverExpire => Sys2Proof.Machine.execHoldoverExpire s
  | .linkUp port peerVersions lanes second => Sys2Proof.Machine.execLinkUp port peerVersions lanes second s
  | .linkDown port goodLanes => Sys2Proof.Machine.execLinkDown port goodLanes s
  | .packetReceive port at_ pkt => Sys2Proof.Machine.execPacketReceive port at_ pkt s
  | .connRecordFetch die good => Sys2Proof.Machine.execConnRecordFetch die good s
  | .windowBaseAdvance conn => Sys2Proof.Machine.execWindowBaseAdvance conn s
  | .connOpen port at_ pkt => Sys2Proof.Machine.execConnOpen port at_ pkt s
  | .connAccept port at_ pkt => Sys2Proof.Machine.execConnAccept port at_ pkt s
  | .connClose port at_ pkt => Sys2Proof.Machine.execConnClose port at_ pkt s
  | .connClosed port at_ pkt => Sys2Proof.Machine.execConnClosed port at_ pkt s
  | .quarantineEnd conn => Sys2Proof.Machine.execQuarantineEnd conn s
  | .attDecode r => Sys2Proof.Machine.execAttDecode r s
  | .attPrefill r => Sys2Proof.Machine.execAttPrefill r s
  | .attBackward r => Sys2Proof.Machine.execAttBackward r s
  | .backwardHoldTimeout mdb layer index => Sys2Proof.Machine.execBackwardHoldTimeout mdb layer index s
  | .kvAppend r => Sys2Proof.Machine.execKvAppend r s
  | .kvAppendSpec r => Sys2Proof.Machine.execKvAppendSpec r s
  | .heldAppendResume => Sys2Proof.Machine.execHeldAppendResume s
  | .specCommit r => Sys2Proof.Machine.execSpecCommit r s
  | .specAbort r => Sys2Proof.Machine.execSpecAbort r s
  | .tailDeadlineDrop mdb => Sys2Proof.Machine.execTailDeadlineDrop mdb s
  | .seqOpen r => Sys2Proof.Machine.execSeqOpen r s
  | .seqClose r => Sys2Proof.Machine.execSeqClose r s
  | .seqClone r => Sys2Proof.Machine.execSeqClone r s
  | .prefixLookup r => Sys2Proof.Machine.execPrefixLookup r s
  | .swapOut r => Sys2Proof.Machine.execSwapOut r s
  | .swapIn r => Sys2Proof.Machine.execSwapIn r s
  | .demandSwapInDone mdb => Sys2Proof.Machine.execDemandSwapInDone mdb s
  | .stallTimeout conn mseq => Sys2Proof.Machine.execStallTimeout conn mseq s
  | .checkpoint r => Sys2Proof.Machine.execCheckpoint r s
  | .restore r remote => Sys2Proof.Machine.execRestore r remote s
  | .merge r => Sys2Proof.Machine.execMerge r s
  | .rmaWrite port at_ pkt => Sys2Proof.Machine.execRmaWrite port at_ pkt s
  | .rmaWriteFinal port at_ pkt => Sys2Proof.Machine.execRmaWriteFinal port at_ pkt s
  | .rmaRead r index gen => Sys2Proof.Machine.execRmaRead r index gen s
  | .responseReceive pkt => Sys2Proof.Machine.execResponseReceive pkt s
  | .retransmitTimeout conn mseq => Sys2Proof.Machine.execRetransmitTimeout conn mseq s
  | .messageAbandon conn mseq => Sys2Proof.Machine.execMessageAbandon conn mseq s
  | .newerEpochHoldExpire conn mseq => Sys2Proof.Machine.execNewerEpochHoldExpire conn mseq s
  | .epochAdopt => Sys2Proof.Machine.execEpochAdopt s
  | .graceEnd => Sys2Proof.Machine.execGraceEnd s
  | .frondSwitch => Sys2Proof.Machine.execFrondSwitch s
  | .directoryQuotaWindow => Sys2Proof.Machine.execDirectoryQuotaWindow s
  | .directoryOperation die arrive => Sys2Proof.Machine.execDirectoryOperation die arrive s
  | .directoryScrub die found => Sys2Proof.Machine.execDirectoryScrub die found s
  | .sensorSample raw => Sys2Proof.Machine.execSensorSample raw s
  | .powerMeasure watts => Sys2Proof.Machine.execPowerMeasure watts s
  | .powerFrameEnd => Sys2Proof.Machine.execPowerFrameEnd s
  | .fastEvent ocw => Sys2Proof.Machine.execFastEvent ocw s
  | .throttleLatch => Sys2Proof.Machine.execThrottleLatch s
  | .healthDecay => Sys2Proof.Machine.execHealthDecay s
  | .refreshDue pc bg => Sys2Proof.Machine.execRefreshDue pc bg s
  | .slotGrant e => Sys2Proof.Machine.execSlotGrant e s
  | .mossBodyEnd e => Sys2Proof.Machine.execMossBodyEnd e s
  | .mossTaskDone pc => Sys2Proof.Machine.execMossTaskDone pc s
  | .rowCheckDone e found => Sys2Proof.Machine.execRowCheckDone e found s
  | .rowOperationEnd e => Sys2Proof.Machine.execRowOperationEnd e s
  | .hbmScrub pc found => Sys2Proof.Machine.execHbmScrub pc found s
  | .memoryError pc bank row unit first rereads => Sys2Proof.Machine.execMemoryError pc bank row unit first rereads s
  | .pageRepair pc bank row => Sys2Proof.Machine.execPageRepair pc bank row s
  | .pcRetire pc => Sys2Proof.Machine.execPcRetire pc s
  | .laneErrorWindow lane replays retrained => Sys2Proof.Machine.execLaneErrorWindow lane replays retrained s
  | .dieLost die => Sys2Proof.Machine.execDieLost die s
  | .engineIssue core => Sys2Proof.Machine.execEngineIssue core s
  | .corruptBlockReread core page block good deterministic stall => Sys2Proof.Machine.execCorruptBlockReread core page block good deterministic stall s
  | .workItem core skipper => Sys2Proof.Machine.execWorkItem core skipper s
  | .contextSwitch core skipper part ns => Sys2Proof.Machine.execContextSwitch core skipper part ns s
  | .jobPlace group => Sys2Proof.Machine.execJobPlace group s
  | .pageTaskCreate part => Sys2Proof.Machine.execPageTaskCreate part s
  | .pageTaskDone task => Sys2Proof.Machine.execPageTaskDone task s
  | .pageFree page => Sys2Proof.Machine.execPageFree page s
  | .preemptionPass part => Sys2Proof.Machine.execPreemptionPass part s
  | .preemptRetry part => Sys2Proof.Machine.execPreemptRetry part s
  | .eviction part => Sys2Proof.Machine.execEviction part s
  | .stagePage mdb stream index => Sys2Proof.Machine.execStagePage mdb stream index s
  | .stageTtlExpire page => Sys2Proof.Machine.execStageTtlExpire page s
  | .replicaApply conn mseq => Sys2Proof.Machine.execReplicaApply conn mseq s
  | .pageFetchReply conn mseq => Sys2Proof.Machine.execPageFetchReply conn mseq s
  | .pageFetchTimeout mdb rseq => Sys2Proof.Machine.execPageFetchTimeout mdb rseq s
  | .rebuildStart => Sys2Proof.Machine.execRebuildStart s
  | .rebuildPage mdb => Sys2Proof.Machine.execRebuildPage mdb s
  | .placementRead mdb answer => Sys2Proof.Machine.execPlacementRead mdb answer s
  | .reencryptWalk part => Sys2Proof.Machine.execReencryptWalk part s
  | .keySlotSwitch part => Sys2Proof.Machine.execKeySlotSwitch part s
  | .policerRefill => Sys2Proof.Machine.execPolicerRefill s
  | .shaperRefill => Sys2Proof.Machine.execShaperRefill s
  | .tcChangeApply => Sys2Proof.Machine.execTcChangeApply s
  | .portTransmit port => Sys2Proof.Machine.execPortTransmit port s
  | .queueSample => Sys2Proof.Machine.execQueueSample s
  | .registerWrite agent offset width value => Sys2Proof.Machine.execRegisterWrite agent offset width value s
  | .dvsecSelect value => Sys2Proof.Machine.execDvsecSelect value s
  | .sqDoorbell part ring tail => Sys2Proof.Machine.execSqDoorbell part ring tail s
  | .cqDoorbell part ring head => Sys2Proof.Machine.execCqDoorbell part ring head s
  | .ringDrainDone part ring => Sys2Proof.Machine.execRingDrainDone part ring s
  | .commandFetch part ring input => Sys2Proof.Machine.execCommandFetch part ring input s
  | .nop part ring idx => Sys2Proof.Machine.execNop part ring idx s
  | .request part ring idx remote => Sys2Proof.Machine.execRequest part ring idx remote s
  | .excLoad part ring idx => Sys2Proof.Machine.execExcLoad part ring idx s
  | .excLoadEffect part slot => Sys2Proof.Machine.execExcLoadEffect part slot s
  | .progLoad part ring idx => Sys2Proof.Machine.execProgLoad part ring idx s
  | .progUnload part ring idx => Sys2Proof.Machine.execProgUnload part ring idx s
  | .wsetLoad part ring idx => Sys2Proof.Machine.execWsetLoad part ring idx s
  | .wsetUnload part ring idx => Sys2Proof.Machine.execWsetUnload part ring idx s
  | .bufReg part ring idx => Sys2Proof.Machine.execBufReg part ring idx s
  | .bufRegEffect index => Sys2Proof.Machine.execBufRegEffect index s
  | .bufRel part ring idx => Sys2Proof.Machine.execBufRel part ring idx s
  | .swapAreaSet part ring idx => Sys2Proof.Machine.execSwapAreaSet part ring idx s
  | .evictAreaSet part ring idx => Sys2Proof.Machine.execEvictAreaSet part ring idx s
  | .spillAreaSet c addr => Sys2Proof.Machine.execSpillAreaSet c addr s
  | .tcSet c => Sys2Proof.Machine.execTcSet c s
  | .frondLoad c => Sys2Proof.Machine.execFrondLoad c s
  | .mapCommit c => Sys2Proof.Machine.execMapCommit c s
  | .placeSet c => Sys2Proof.Machine.execPlaceSet c s
  | .release c => Sys2Proof.Machine.execRelease c s
  | .moveAnnounce c => Sys2Proof.Machine.execMoveAnnounce c s
  | .hdmAccess write addr len bytes bad => Sys2Proof.Machine.execHdmAccess write addr len bytes bad s
  | .cxlLinkReset => Sys2Proof.Machine.execCxlLinkReset s
  | .mailboxGo agent value => Sys2Proof.Machine.execMailboxGo agent value s
  | .spdmMessage inst m => Sys2Proof.Machine.execSpdmMessage inst m s
  | .partCreate c => Sys2Proof.Machine.execPartCreate c s
  | .partTeardown c => Sys2Proof.Machine.execPartTeardown c s
  | .keyInstall c => Sys2Proof.Machine.execKeyInstall c s
  | .keyRotate c => Sys2Proof.Machine.execKeyRotate c s
  | .sakInstall c => Sys2Proof.Machine.execSakInstall c s
  | .attestReport c => Sys2Proof.Machine.execAttestReport c s
  | .regRead c => Sys2Proof.Machine.execRegRead c s
  | .mgmtMessage m => Sys2Proof.Machine.execMgmtMessage m s
  | .fwUpdate c sig => Sys2Proof.Machine.execFwUpdate c sig s
  | .recoveryLoad c sig => Sys2Proof.Machine.execRecoveryLoad c sig s
  | .enterRecovery c => Sys2Proof.Machine.execEnterRecovery c s
  | .cfgWrite c => Sys2Proof.Machine.execCfgWrite c s
  | .cfgRead c => Sys2Proof.Machine.execCfgRead c s
  | .calRead c => Sys2Proof.Machine.execCalRead c s
  | .calWrite c => Sys2Proof.Machine.execCalWrite c s
  | .recal c => Sys2Proof.Machine.execRecal c s
  | .lcTransition c sig => Sys2Proof.Machine.execLcTransition c sig s
  | .coldReset c => Sys2Proof.Machine.execColdReset c s
  | .regReadM c => Sys2Proof.Machine.execRegReadM c s
  | .regWriteM c => Sys2Proof.Machine.execRegWriteM c s
  | .pwrCap c => Sys2Proof.Machine.execPwrCap c s
  | .bistRun c => Sys2Proof.Machine.execBistRun c s
  | .bistTestEnd testId e => Sys2Proof.Machine.execBistTestEnd testId e s
  | .bistCompatOpen c => Sys2Proof.Machine.execBistCompatOpen c s
  | .bistInService testId cap retest checkGood => Sys2Proof.Machine.execBistInService testId cap retest checkGood s
  | .cxlLinkTrain partner => Sys2Proof.Machine.execCxlLinkTrain partner s
  | .ptpTimebaseLoad time => Sys2Proof.Machine.execPtpTimebaseLoad time s
  | .hostQueueUncorrectableError => Sys2Proof.Machine.execHostQueueUncorrectableError s
  | .neighborDiscovery port second mac => Sys2Proof.Machine.execNeighborDiscovery port second mac s
  | .jtagInstruction ins => Sys2Proof.Machine.execJtagInstruction ins s
  | .doeMailboxMessage m => Sys2Proof.Machine.execDoeMailboxMessage m s

end Sys2Proof.Machine
end

