-- ==== Sys2Proof/Machine/Step.lean ====
section
/-!
DEFINITION. One step of the block: the command at the front of the queue runs on the state with the queue's
rest; an empty queue idles (log 13).
-/

namespace Sys2Proof.Machine

open Sys2Proof

/-- One step. On an empty queue the block idles (DESIGN CHOICE, log 13): what the spec lets happen without a
packet or a message from outside has a row of its own (TIMEBASE_TICK, REFRESH_DUE and so on). -/
def step (s : State) : Host.Outcome State Fault Refusal :=
  match s.pending with
  | [] => .next s
  | c :: cs => exec c { s with pending := cs }

/-- The state with the command that the word spells at the front of its queue. -/
def State.withFetchWord (s : State) (nbits w : Nat) : State :=
  match decodeTableWord nbits w with
  | some c => { s with pending := c :: s.pending }
  | none => s

end Sys2Proof.Machine
end

