-- ==== Sys2Proof/WellFormed.lean ====
section
/-!
DEFINITION. Which operands a command can carry: every number within the width or the range the spec gives
the thing it names. A term outside them stands for nothing that can reach the node.
-/

namespace Sys2Proof

/-- A fabric port (R14). -/
def okPort (p : Nat) : Bool := p < 8
/-- A pseudo-channel, numbered through the node (R14). -/
def okPc (p : Nat) : Bool := p < 768
/-- A bank group of a pseudo-channel (R181). -/
def okBg (b : Nat) : Bool := b < 4
/-- A bank of a pseudo-channel (R14). -/
def okBank (b : Nat) : Bool := b < 32
/-- A row of a bank (R14). -/
def okRow (r : Nat) : Bool := r < 4608
/-- A codeword of a row (R204). -/
def okUnit (u : Nat) : Bool := u < 128
/-- A row of the firmware data slice (R182). -/
def okFwRow (r : Nat) : Bool := 4480 ≤ r && r < 4484
/-- Errors of a codeword: distinct symbols, none without an error (R204). -/
def okErrors (e : SymErrors) : Bool :=
  e.all (fun x => x.1 < 72 && x.2 != 0#8) && (e.map (·.1)).dedup.length == e.length
/-- What enters a controller's queues names a place of the pseudo-channel; firmware reads and writes its own rows (R201, R207). -/
def PcArrival.wf : PcArrival → Bool
  | .ordinary bg ago => okBg bg && ago < 65536
  | .fwRead b r => okBank b && okFwRow r
  | .fwWrite b r u d => okBank b && okFwRow r && okUnit u && d.length == 64
  | .fwRow _ sb sr s2 db dr m => okBg sb && okRow sr && okRow s2 && okBg db && okRow dr && m < 256
/-- A die group (R13). -/
def okGroup (g : Nat) : Bool := g < 4
/-- A lane or module (R430). -/
def okLane (l : Nat) : Bool := l < 416
/-- A die by its SOURCE code (Table 14.10). -/
def okDie (d : Nat) : Bool := d < 64
/-- An attention core (R19). -/
def okCore (c : Nat) : Bool := c < 64
/-- A Skipper core of a group (R232). -/
def okSkipper (k : Nat) : Bool := k < 8
/-- A partition (R371). -/
def okPart (p : Nat) : Bool := p < 64
/-- A ring of a partition (R349). -/
def okRing (r : Nat) : Bool := r < 8
/-- A connection number (R278). -/
def okConn (c : Nat) : Bool := c < 16777216
/-- A metadata block (R35). -/
def okMdb (m : Nat) : Bool := m < 12582912
/-- An HBM page (R14). -/
def okPage (p : Nat) : Bool := p < 13762560
/-- One of a pair: a directory die, a mailbox instance, a management port. -/
def okPair (d : Nat) : Bool := d < 2
/-- A table slot (R173). -/
def okSlot (k : Nat) : Bool := k < 16
/-- A self-test identifier (R458). -/
def okTest (t : Nat) : Bool := t < 65536

/-- The header fields keep the widths of Table 9.3. -/
def NativeHdr.wf (h : NativeHdr) : Bool :=
  h.verMajor < 16 && h.verMinor < 16 && h.typ < 256 && h.length < 2048 && h.route < 4 &&
  h.tenant < 65536 && h.epoch < 65536 && h.src < 4096 && h.dst < 4096 && h.hcrc < 256 &&
  h.ingressTs < 2 ^ 32 && h.mseq < 2 ^ 32 && h.word < 2 ^ 32 && h.offset < 2 ^ 40 && h.conn < 2 ^ 24

/-- A packet's payload is that of a frame, and a tag is none or 16 bytes. -/
def Packet.wf (p : Packet) : Bool :=
  p.hdr.wf && (p.tag.length == 0 || p.tag.length == 16) && p.payload.length < 65536 &&
  (match p.eth with | some e => e.dstMac < 2 ^ 48 && e.udpPort < 65536 | none => true)

/-- A request names a tenant and an epoch of 16 bits. -/
def Req.wf (r : Req) : Bool :=
  r.tenant < 65536 && r.epoch < 65536 && r.arrival < 2 ^ 64 &&
  (match r.origin with
   | .fabric c m p => okConn c && m < 2 ^ 32 && okPort p
   | .ring p r i => okPart p && okRing r && i < 2 ^ 64)

/-- A role names a partition. -/
def Role.wf : Role → Bool
  | .tenant n => okPart n
  | _ => true

/-- A management command's fields keep the widths of Tables 12.5 and 15.12. -/
def MgmtCmd.wf (c : MgmtCmd) : Bool :=
  c.role.wf && okPair c.port && c.session < 2 ^ 32 && c.mseq < 2 ^ 32 && c.cmdId < 2 ^ 32 && c.arg0 < 2 ^ 32 && c.arg1 < 2 ^ 32 &&
  c.arg2 < 2 ^ 32 && c.arg3 < 2 ^ 32

/-- A cocoon command comes by one of the two mailbox instances, in a message of at most 65,536 bytes (R376). -/
def CocoonCmd.wf (c : CocoonCmd) : Bool := c.role.wf && okPair c.inst && c.payload.length ≤ 65536

/-- An agent is host software or a role. -/
def Agent.wf : Agent → Bool
  | .bar0 => true
  | .mgmt r => r.wf

/-- The operands of a command are within the ranges of the things they name. -/
def Instr.wf : Instr → Bool
  | .powerOn _ | .coldStartPhase _ | .powerFail | .tamperEvent | .cocoonSelfTestFail | .watchdogExpire
  | .timebaseTick | .holdoverExpire | .heldAppendResume | .epochAdopt | .graceEnd | .frondSwitch
  | .directoryQuotaWindow | .powerFrameEnd | .throttleLatch | .healthDecay | .rebuildStart | .policerRefill
  | .shaperRefill | .tcChangeApply | .queueSample | .cxlLinkReset | .hostQueueUncorrectableError => true
  | .timebaseMarkerSend p => okPort p
  | .timebaseMarkerReceive p a b c => okPort p && a < 2 ^ 64 && b < 2 ^ 64 && c < 2 ^ 64
  | .linkUp p v l _ => okPort p && v < 2 ^ 256 && l < 256
  | .linkDown p g => okPort p && g < 256
  | .packetReceive p a k | .connOpen p a k | .connAccept p a k | .connClose p a k | .connClosed p a k
  | .rmaWrite p a k | .rmaWriteFinal p a k => okPort p && a < 2 ^ 64 && k.wf
  | .connRecordFetch d _ => d < 4
  | .windowBaseAdvance c | .quarantineEnd c => okConn c
  | .attDecode r | .attPrefill r | .attBackward r | .kvAppend r | .kvAppendSpec r | .specCommit r | .specAbort r
  | .seqOpen r | .seqClose r | .seqClone r | .prefixLookup r | .swapOut r | .swapIn r | .checkpoint r
  | .merge r => r.wf
  | .restore r _ => r.wf
  | .rmaRead r i g => r.wf && i < 1048576 && g < 256
  | .backwardHoldTimeout m l i => okMdb m && l < 256 && i < 2 ^ 32
  | .tailDeadlineDrop m | .demandSwapInDone m | .rebuildPage m | .placementRead m _ => okMdb m
  | .stallTimeout c m | .retransmitTimeout c m | .messageAbandon c m | .newerEpochHoldExpire c m
  | .replicaApply c m | .pageFetchReply c m => okConn c && m < 2 ^ 32
  | .pageFetchTimeout m q => okMdb m && q < 2 ^ 32
  | .responseReceive k => k.wf
  | .directoryOperation d a => okPair d && (match a with
      | some q => okPart q.part && (match q.op with
        | .search _ => true
        | .insert _ p x => decide (p < 16 ∧ x < 2 ^ 28)
        | .delete x => decide (x < 4194304))
      | none => true)
  | .directoryScrub d _ => okPair d
  | .sensorSample raw => raw.length ≤ 128
  | .powerMeasure w => w < 65536
  | .fastEvent o => o < 4
  | .refreshDue p b => okPc p && okBg b
  | .slotGrant e | .mossBodyEnd e | .rowOperationEnd e => okPc e.pc && e.arrived.all PcArrival.wf
  | .rowCheckDone e f => okPc e.pc && f.all (fun x => x.1 < 1024 && okErrors x.2) && e.arrived.all PcArrival.wf
  | .mossTaskDone p => okPc p
  | .hbmScrub p e => okPc p && okErrors e
  | .memoryError p b r u e l => okPc p && okBank b && okRow r && okUnit u && okErrors e && l.all okErrors
  | .pageRepair p b r => okPc p && okBank b && okRow r
  | .pcRetire p => okPc p
  | .laneErrorWindow l r _ => okLane l && r < 2 ^ 32
  | .dieLost d => okDie d
  | .engineIssue c => okCore c
  | .corruptBlockReread c p b _ _ n => okCore c && okPage p && b < 65536 && n < 2 ^ 32
  | .workItem c k => okCore c && okSkipper k
  | .contextSwitch c k p n => okCore c && (match k with | some j => okSkipper j | none => true) && okPart p && n < 2 ^ 32
  | .jobPlace g => okGroup g
  | .pageTaskCreate p | .preemptionPass p | .preemptRetry p | .eviction p | .reencryptWalk p | .keySlotSwitch p => okPart p
  | .pageTaskDone t => t < 2 ^ 64
  | .pageFree p | .stageTtlExpire p => okPage p
  | .stagePage m s i => okMdb m && s < 2 ^ 20 && i < 2 ^ 20
  | .portTransmit p => okPort p
  | .registerWrite a o w v => a.wf && o < 2 ^ 26 && (w == 8 || w == 16 || w == 32 || w == 64) && v.all (· < 2 ^ 64)
  | .dvsecSelect v => v < 2 ^ 32
  | .sqDoorbell p r v | .cqDoorbell p r v => okPart p && okRing r && v < 65536
  | .ringDrainDone p r | .commandFetch p r _ => okPart p && okRing r
  | .nop p r i | .request p r i _ | .excLoad p r i | .progLoad p r i | .progUnload p r i | .wsetLoad p r i
  | .wsetUnload p r i | .bufReg p r i | .bufRel p r i | .swapAreaSet p r i | .evictAreaSet p r i =>
      okPart p && okRing r && i < 2 ^ 64
  | .excLoadEffect p k => okPart p && okSlot k
  | .bufRegEffect i => i < 1048576
  | .spillAreaSet c a => c.wf && a < 2 ^ 64
  | .tcSet c | .frondLoad c | .mapCommit c | .placeSet c | .release c | .moveAnnounce c | .fwUpdate c _
  | .recoveryLoad c _ | .enterRecovery c | .cfgWrite c | .cfgRead c | .calRead c | .calWrite c | .recal c
  | .lcTransition c _ | .coldReset c | .regReadM c | .regWriteM c | .pwrCap c | .bistRun c
  | .bistCompatOpen c => c.wf
  | .hdmAccess _ a n _ _ => a < 2 ^ 64 && 0 < n && a % 64 + n ≤ 64
  | .mailboxGo a v => a.wf && v < 2 ^ 64
  | .spdmMessage i _ => okPair i
  | .partCreate c | .partTeardown c | .keyInstall c | .keyRotate c | .sakInstall c | .attestReport c
  | .regRead c => c.wf
  | .mgmtMessage m => okPair m.port && m.mver < 256 && m.mtype < 256 && m.session < 2 ^ 32 && m.mseq < 2 ^ 32
  | .bistTestEnd t _ | .bistInService t _ _ _ => okTest t
  | .cxlLinkTrain p => p.width < 256 && p.speed < 256
  | .ptpTimebaseLoad t => t < 2 ^ 64
  | .neighborDiscovery p _ m => okPort p && m < 2 ^ 48
  | .jtagInstruction i => (match i with | .bist t _ => okTest t | _ => true)
  | .doeMailboxMessage _ => true

end Sys2Proof
end

