-- ==== Sys2Proof/Safety.lean ====
section
/-!
DEFINITION. What the claims about the block are stated in: the state after a command, commands that stop, what a step keeps,
and when a request or a management command is taken.
-/

namespace Sys2Proof.Machine

open Sys2Proof

/-- The state `t` that a command leaves, with the queue of the state `s` it began in: no command touches the queue (log 13). -/
abbrev after (s t : State) : State := { t with pending := s.pending }

/-- Every waiting command carries operands within the ranges of the things they name. -/
def waitingWf (s : State) : Bool := s.pending.all Instr.wf

/-- A step that stops neither with a fault nor with a refusal. -/
def runsOn (o : Host.Outcome State Fault Refusal) : Prop := ∃ t, o = .next t

/-- The three byte memories read as before, at every address. -/
def sameMemory (s t : State) : Prop :=
  ∀ a, cellAt 0#8 t.mem.hbm a = cellAt 0#8 s.mem.hbm a ∧ cellAt 0#8 t.host.mem a = cellAt 0#8 s.host.mem a ∧
    cellAt 0xFF#8 t.nv.nor a = cellAt 0xFF#8 s.nv.nor a

/-- A request of partition `n` with opcode `op` has all its directory admissions and may run (R97). -/
def taken (s : State) (n op : Nat) (r : Req) : Prop :=
  serving s = true ∧ reqPart s r = some n ∧ (intake n op r s).1 = true

/-- The state in which a request that is taken runs. -/
abbrev atRun (s : State) (n op : Nat) (r : Req) : State := (intake n op r s).2

/-- The request is taken, and runs in the state `t`, where neither its partition nor the sequences it names turn it away. -/
def admitted (s : State) (n op : Nat) (r : Req) (names : List Nat) (t : State) : Prop :=
  taken s n op r ∧ atRun s n op r = t ∧ reqPart t r = some n ∧ gate t n r op names = none

/-- The node takes a management command: it serves, its management ports are up, and the command's role is that of its session
(R375, R451, R454). -/
def manages (s : State) (c : MgmtCmd) : Prop := serving s = true ∧ s.mgmt.portsUp = true ∧ inSession s c = true

/-- A fetched command of a ring that has the code of its row and has not started: its turn to run. -/
def ringTurn (s : State) (code n r idx : Nat) (x : Fetched) : Prop :=
  serving s = true ∧ fetched? s n r idx = some x ∧ x.code = code ∧ x.started = false

/-- A cocoon command that is served, its role held in a session, and its parameters of `k` bytes (R375, R397). -/
def cocoonTurn (s : State) (c : CocoonCmd) (k : Nat) (b : List Byte) : Prop :=
  s.boot.powered = true ∧ s.health.stopped = false ∧ cocoonServes s = true ∧ cocoonParams c k = some b ∧ roleHeld s c = true

/-- A packet that reaches check 6 of Table 9.5: the node serves, the port is on, and checks 1 to 5 pass into the state `s1`. -/
def reachesSix (port at_ : Nat) (p : Packet) (s s1 : State) : Prop :=
  serving s = true ∧ portOn s port = true ∧ frontChecks port at_ p s = (true, s1)

/-- A command of the work that the node does once it serves (R444): requests, packets, rings, the directory, the cores,
replication and traffic. The others belong to start-up, links, power, health, management and the cocoon. -/
def needsService : Instr → Bool
  | .powerOn _ | .powerFail | .coldStartPhase _ | .tamperEvent | .cocoonSelfTestFail | .watchdogExpire | .timebaseTick
  | .timebaseMarkerSend _ | .timebaseMarkerReceive _ _ _ _ | .holdoverExpire | .linkUp _ _ _ _ | .linkDown _ _
  | .sensorSample _ | .powerMeasure _ | .powerFrameEnd | .fastEvent _ | .refreshDue _ _ | .slotGrant _ | .mossBodyEnd _
  | .mossTaskDone _ | .rowCheckDone _ _ | .rowOperationEnd _ | .dieLost _ | .registerWrite _ _ _ _ | .dvsecSelect _
  | .frondLoad _ | .mapCommit _ | .placeSet _ | .release _ | .moveAnnounce _ | .cxlLinkReset | .mailboxGo _ _
  | .spdmMessage _ _ | .partCreate _ | .partTeardown _ | .keyInstall _ | .keyRotate _ | .sakInstall _ | .attestReport _
  | .regRead _ | .mgmtMessage _ | .fwUpdate _ _ | .recoveryLoad _ _ | .enterRecovery _ | .cfgWrite _ | .cfgRead _
  | .calRead _ | .calWrite _ | .recal _ | .lcTransition _ _ | .coldReset _ | .regReadM _ | .regWriteM _ | .pwrCap _
  | .tcSet _ | .spillAreaSet _ _ | .bistRun _ | .bistTestEnd _ _ | .bistCompatOpen _ | .cxlLinkTrain _ | .ptpTimebaseLoad _
  | .hostQueueUncorrectableError | .neighborDiscovery _ _ _ | .jtagInstruction _ | .doeMailboxMessage _ => false
  | .packetReceive _ _ _ | .connRecordFetch _ _ | .windowBaseAdvance _ | .connOpen _ _ _ | .connAccept _ _ _
  | .connClose _ _ _ | .connClosed _ _ _ | .quarantineEnd _ | .attDecode _ | .attPrefill _ | .attBackward _
  | .backwardHoldTimeout _ _ _ | .kvAppend _ | .kvAppendSpec _ | .heldAppendResume | .specCommit _ | .specAbort _
  | .tailDeadlineDrop _ | .seqOpen _ | .seqClose _ | .seqClone _ | .prefixLookup _ | .swapOut _ | .swapIn _
  | .demandSwapInDone _ | .stallTimeout _ _ | .checkpoint _ | .restore _ _ | .merge _ | .rmaWrite _ _ _
  | .rmaWriteFinal _ _ _ | .rmaRead _ _ _ | .responseReceive _ | .retransmitTimeout _ _ | .messageAbandon _ _
  | .newerEpochHoldExpire _ _ | .epochAdopt | .graceEnd | .frondSwitch | .directoryQuotaWindow
  | .directoryOperation _ _ | .directoryScrub _ _ | .throttleLatch | .healthDecay | .hbmScrub _ _
  | .memoryError _ _ _ _ _ _ | .pageRepair _ _ _ | .pcRetire _ | .laneErrorWindow _ _ _ | .engineIssue _
  | .corruptBlockReread _ _ _ _ _ _ | .workItem _ _ | .contextSwitch _ _ _ _ | .jobPlace _ | .pageTaskCreate _
  | .pageTaskDone _ | .pageFree _ | .preemptionPass _ | .preemptRetry _ | .eviction _ | .stagePage _ _ _
  | .stageTtlExpire _ | .replicaApply _ _ | .pageFetchReply _ _ | .pageFetchTimeout _ _ | .rebuildStart
  | .rebuildPage _ | .placementRead _ _ | .reencryptWalk _ | .keySlotSwitch _ | .policerRefill | .shaperRefill
  | .tcChangeApply | .portTransmit _ | .queueSample | .sqDoorbell _ _ _ | .cqDoorbell _ _ _ | .ringDrainDone _ _
  | .commandFetch _ _ _ | .nop _ _ _ | .request _ _ _ _ | .excLoad _ _ _ | .excLoadEffect _ _ | .progLoad _ _ _
  | .progUnload _ _ _ | .wsetLoad _ _ _ | .wsetUnload _ _ _ | .bufReg _ _ _ | .bufRegEffect _ | .bufRel _ _ _
  | .swapAreaSet _ _ _ | .evictAreaSet _ _ _ | .hdmAccess _ _ _ _ _
  | .bistInService _ _ _ _ => true

/-- A command whose effect stores to no byte of HBM, of the host's memory or of the configuration memory. -/
def storesNothing : Instr → Bool
  | .timebaseTick | .timebaseMarkerSend _ | .timebaseMarkerReceive _ _ _ _ | .holdoverExpire | .ptpTimebaseLoad _
  | .linkUp _ _ _ _ | .linkDown _ _ | .neighborDiscovery _ _ _ | .quarantineEnd _ | .powerMeasure _ | .powerFrameEnd
  | .fastEvent _ | .throttleLatch | .healthDecay | .pwrCap _ | .refreshDue _ _ | .policerRefill
  | .shaperRefill | .tcChangeApply | .tcSet _ | .queueSample | .dvsecSelect _ | .directoryQuotaWindow
  | .directoryScrub _ _ | .cxlLinkTrain _ | .contextSwitch _ _ _ _ | .spillAreaSet _ _ | .keyInstall _ | .sakInstall _
  | .regRead _ | .cfgRead _ | .calRead _ | .regReadM _ | .mapCommit _ | .frondLoad _ | .enterRecovery _
  | .mailboxGo _ _ | .spdmMessage _ _ | .doeMailboxMessage _ | .mgmtMessage _ => true
  | .powerOn _ | .coldStartPhase _ | .powerFail | .tamperEvent | .cocoonSelfTestFail | .watchdogExpire
  | .packetReceive _ _ _ | .connRecordFetch _ _ | .windowBaseAdvance _ | .connOpen _ _ _ | .connAccept _ _ _
  | .connClose _ _ _ | .connClosed _ _ _ | .attDecode _ | .attPrefill _ | .attBackward _ | .backwardHoldTimeout _ _ _
  | .kvAppend _ | .kvAppendSpec _ | .heldAppendResume | .specCommit _ | .specAbort _ | .tailDeadlineDrop _ | .seqOpen _
  | .seqClose _ | .seqClone _ | .prefixLookup _ | .swapOut _ | .swapIn _ | .demandSwapInDone _ | .stallTimeout _ _
  | .checkpoint _ | .restore _ _ | .merge _ | .rmaWrite _ _ _ | .rmaWriteFinal _ _ _ | .rmaRead _ _ _
  | .responseReceive _ | .retransmitTimeout _ _ | .messageAbandon _ _ | .newerEpochHoldExpire _ _ | .epochAdopt
  | .graceEnd | .frondSwitch | .directoryOperation _ _ | .sensorSample _ | .slotGrant _ | .mossBodyEnd _
  | .mossTaskDone _ | .rowCheckDone _ _ | .rowOperationEnd _ | .hbmScrub _ _ | .memoryError _ _ _ _ _ _ | .pageRepair _ _ _
  | .pcRetire _ | .laneErrorWindow _ _ _ | .dieLost _ | .engineIssue _ | .corruptBlockReread _ _ _ _ _ _
  | .workItem _ _ | .jobPlace _ | .pageTaskCreate _ | .pageTaskDone _ | .pageFree _ | .preemptionPass _
  | .preemptRetry _ | .eviction _ | .stagePage _ _ _ | .stageTtlExpire _ | .replicaApply _ _ | .pageFetchReply _ _
  | .pageFetchTimeout _ _ | .rebuildStart | .rebuildPage _ | .placementRead _ _ | .reencryptWalk _ | .keySlotSwitch _
  | .portTransmit _ | .registerWrite _ _ _ _ | .sqDoorbell _ _ _ | .cqDoorbell _ _ _ | .ringDrainDone _ _
  | .commandFetch _ _ _ | .nop _ _ _ | .request _ _ _ _ | .excLoad _ _ _ | .excLoadEffect _ _ | .progLoad _ _ _
  | .progUnload _ _ _ | .wsetLoad _ _ _ | .wsetUnload _ _ _ | .bufReg _ _ _ | .bufRegEffect _ | .bufRel _ _ _
  | .swapAreaSet _ _ _ | .evictAreaSet _ _ _ | .placeSet _ | .release _ | .moveAnnounce _ | .hdmAccess _ _ _ _ _
  | .cxlLinkReset | .partCreate _ | .partTeardown _ | .keyRotate _ | .attestReport _ | .fwUpdate _ _
  | .recoveryLoad _ _ | .cfgWrite _ | .calWrite _ | .recal _ | .lcTransition _ _ | .coldReset _ | .regWriteM _
  | .bistRun _ | .bistTestEnd _ _ | .bistCompatOpen _ | .bistInService _ _ _ _ | .hostQueueUncorrectableError
  | .jtagInstruction _ => false

end Sys2Proof.Machine
end

