-- ==== Sys2Proof/Certificates/Slice0/Obligations.lean ====
section
/-!
DEFINITION. The statements about the block, for the provers. A completion statement says, for each command it names, the next
state that the command's own effect gives, under conditions on the state and the operands alone; it thereby says what the command
leaves unchanged.
-/

open Sys2Proof Sys2Proof.Machine

/-! ### The machine -/

/-- A step takes the command at the front of the queue and runs it on the state with the queue's rest. -/
def Obligations.StepRunsFrontCommand : Prop :=
  ∀ (c : Instr) (cs : List Instr) (s : State), s.pending = c :: cs → step s = exec c { s with pending := cs }

/-- On an empty queue the block idles (the model's choice, log 13). -/
def Obligations.EmptyQueueIdles : Prop := ∀ s : State, s.pending = [] → step s = .next s

/-- Every step that goes on takes exactly one command from the front of the queue, if there is one, and the commands that wait
stay well formed: no command puts another into the queue. -/
def Obligations.QueueInvariant : Prop :=
  ∀ s t : State, waitingWf s = true → step s = .next t → waitingWf t = true ∧ t.pending = s.pending.tail

/-- Only two commands stop the block: POWER_ON with a rail out of range, which R489 leaves undefined, faults, and a
JTAG_INSTRUCTION for an internal scan is refused; every other command goes on in every state, with every operand. Both stops do
happen: POWER_ON of an unpowered node with a bad rail, and an internal scan that Table 16.5 lets in. -/
def Obligations.OnlyTwoCommandsStop : Prop :=
  ∀ (c : Instr) (s : State), c ≠ .powerOn false → c ≠ .jtagInstruction .internalScan → runsOn (exec c s) ∧
    (s.boot.powered = false → exec (.powerOn false) s = .fault .railOutOfRange) ∧
    (s.boot.powered = true → testState s = true → exec (.jtagInstruction .internalScan) s = .refused .internalScan)

/-- While the node is unpowered, every command but POWER_ON and POWER_FAIL leaves the whole state as it is. -/
def Obligations.UnpoweredIsQuiet : Prop :=
  ∀ (c : Instr) (s : State), s.boot.powered = false → (∀ good, c ≠ .powerOn good) → c ≠ .powerFail → exec c s = .next s

/-- While the node does not serve (before configuration lock, in recovery mode, after a thermal trip, with the compatibility class
open), no request, packet, ring command, directory operation, core, replica or queue has any effect. -/
def Obligations.ServiceNeedsLock : Prop :=
  ∀ (c : Instr) (s : State), serving s = false → needsService c = true → exec c s = .next s

/-- The commands of `storesNothing` leave every byte of HBM, of the host's memory and of the configuration memory as it was. -/
def Obligations.MemoryFrame : Prop :=
  ∀ (c : Instr) (s t : State), storesNothing c = true → exec c s = .next t → sameMemory s t

/-- Right after reset: no command waits, the memories are canonical, the timebase reads zero, configuration lock is not set, no
phase has ended and no partition exists. -/
def Obligations.ResetState : Prop :=
  waitingWf State.reset = true ∧ Memory.wf State.reset = true ∧ State.reset.tb.now = 0 ∧ State.reset.boot.locked = false ∧
    State.reset.boot.stage = 0 ∧ State.reset.parts = [] ∧ State.reset.dir.entries = [] ∧
    serving State.reset = false ∧ bitsOf (readReg State.reset 0 0x18) 19 3 = 0

/-- Bytes written to HBM are read back, and every other byte of HBM reads as before; zeroed bytes read zero. Host memory and the
configuration memory do not change. -/
def Obligations.HbmReadAfterWrite : Prop :=
  ∀ (s : State) (a n : Nat) (bs : List Byte),
    hbmRead (hbmWrite a bs s) a bs.length = bs ∧
    (∀ x, x < a ∨ a + bs.length ≤ x → cellAt 0#8 (hbmWrite a bs s).mem.hbm x = cellAt 0#8 s.mem.hbm x) ∧
    (∀ x, cellAt 0#8 (hbmZero a n s).mem.hbm x = if a ≤ x ∧ x < a + n then 0#8 else cellAt 0#8 s.mem.hbm x) ∧
    (hbmWrite a bs s).host = s.host ∧ (hbmWrite a bs s).nv = s.nv ∧ (hbmZero a n s).host = s.host ∧ (hbmZero a n s).nv = s.nv

/-! ### Start-up, power and the timebase -/

/-- POWER_ON with good rails, POWER_FAIL and COLD_START_PHASE complete: power-on begins a cold start from the state after reset
with what is fused or in the configuration memory; a power failure leaves that state unpowered; a phase that ends raises
ID_BOOT.STAGE by one, and one that does not leaves it. -/
def Obligations.StartUpCompletes : Prop :=
  (∀ s : State, s.boot.powered = false → exec (.powerOn true) s = .next (coldStart s)) ∧
  (∀ s : State, exec .powerFail s =
    .next { coldStart s with boot := { (coldStart s).boot with powered := false, thermTrip := s.boot.thermTrip } }) ∧
  (∀ (s : State) (inp : PhaseInput), s.boot.powered = true → s.boot.recovery = false → s.boot.thermTrip = false →
    s.health.stopped = false →
    ((nextPhase inp s).2 = true →
      exec (.coldStartPhase inp) s = .next (after s
        { (nextPhase inp s).1 with boot := { (nextPhase inp s).1.boot with stage := s.boot.stage + 1 } })) ∧
    ((nextPhase inp s).2 = false → exec (.coldStartPhase inp) s = .next (after s (nextPhase inp s).1)))

/-- What a cold start keeps: the queue, fuses and the configuration memory, the host's memory, responses already sent, the
random numbers and free values already drawn, and the self-test runs it ends, as aborted. The boot state, the timebase, the
registers, the event log, HBM, the pool, the directory, the partitions, the fabric, the epochs, the fronds, the cores, health,
power, the rings and the mailboxes have their values of `State.reset`. -/
def Obligations.ColdStartKeepsFusesOnly : Prop :=
  ∀ s : State,
    (coldStart s).nv = s.nv ∧ (coldStart s).host.mem = s.host.mem ∧ (coldStart s).mgmt.sent = s.mgmt.sent ∧
    (coldStart s).pending = s.pending ∧ (coldStart s).free = s.free ∧ (coldStart s).cocoon.draws = s.cocoon.draws ∧
    (∀ r ∈ s.bist.running, ∃ x, mfind (coldStart s).bist.results r.testId = some x ∧ x.verdict = 3) ∧
    (coldStart s).boot = State.reset.boot ∧ (coldStart s).tb = State.reset.tb ∧ (coldStart s).regs = [] ∧
    (coldStart s).ev = State.reset.ev ∧ (coldStart s).mem = State.reset.mem ∧ (coldStart s).pages = [] ∧
    (coldStart s).descs = [] ∧ (coldStart s).dir = State.reset.dir ∧ (coldStart s).parts = [] ∧
    (coldStart s).fab = State.reset.fab ∧ (coldStart s).epochs = State.reset.epochs ∧
    (coldStart s).fronds = State.reset.fronds ∧ (coldStart s).sched = State.reset.sched ∧
    (coldStart s).health = State.reset.health ∧ (coldStart s).power = State.reset.power ∧
    (coldStart s).host.rings = [] ∧ (coldStart s).cocoon.aliasSeed = none ∧ (coldStart s).cocoon.mb0 = {} ∧
    (coldStart s).cocoon.mb1 = {}

/-- Erasing the keys leaves none: no partition keeps a key, no connection a master secret, no Ethernet port an association key,
the CXL link no IDE key, and the cocoon no alias or spill key. -/
def Obligations.EraseKeysLeavesNone : Prop :=
  ∀ s : State,
    (eraseKeys s).cocoon.aliasSeed = none ∧ (eraseKeys s).cocoon.spillKey = none ∧ (eraseKeys s).fab.saks = [] ∧
    (eraseKeys s).host.ideIo = none ∧ (eraseKeys s).host.ideCm = none ∧
    (∀ x ∈ (eraseKeys s).fab.conns, x.2.master = none) ∧
    (∀ x ∈ (eraseKeys s).parts, x.2.metaKey = none ∧ x.2.swapKey = none ∧ x.2.connSecret = none ∧ x.2.ckptSecret = none ∧
      ∀ k ∈ x.2.slots, k.key = none)

/-- TIMEBASE_TICK completes: the timebase reaches its next multiple of 1,000 ns, and the slew, the charges and the overruns of
the microsecond follow. -/
def Obligations.TimebaseTickCompletes : Prop :=
  ∀ s : State, s.boot.powered = true → s.tb.loaded = true →
    exec .timebaseTick s = .next (after s (setHoldover (noteOverruns (chargePages ((s.tb.now / 1000 + 1) * 1000)
      (chargeSlots ((s.tb.now / 1000 + 1) * 1000 - 1000) (retryDeferred (periodStarts s.tb.now ((s.tb.now / 1000 + 1) * 1000) s)
        { s with tb := { s.tb with now := (s.tb.now / 1000 + 1) * 1000, slew := slewed s.tb.slew } }))))))

/-- The marker and holdover commands complete: a port that is up sends a marker, a root takes IEEE 1588 time once, and a node
whose parent and alternate are silent for HOLDOVER_US becomes unlocked. -/
def Obligations.TimebaseCommandsComplete : Prop :=
  (∀ (s : State) (p : Nat), s.boot.powered = true → s.health.stopped = false → nativeUp s p = true →
    ((markerPort s p).sent = false ∨ (markerPort s p).lastSent + markerNs s ≤ s.tb.now) →
    exec (.timebaseMarkerSend p) s =
      .next (after s (setMarkerPort p { markerPort s p with lastSent := s.tb.now, sent := true } s))) ∧
  (∀ (s : State) (p send lastRx at_ : Nat), s.boot.powered = true → s.health.stopped = false → nativeUp s p = true →
    s.tb.parent ≠ some p → s.tb.alternate ≠ some p → s.tb.loaded = true →
    exec (.timebaseMarkerReceive p send lastRx at_) s = .next (after s
      (let s1 := setMarkerPort p { markerPort (touch at_ s) p with lastRx := at_, lastPeerSend := send, seen := true } (touch at_ s)
       setHoldover { s1 with tb := { s1.tb with
         altInUse := s.tb.alternate == followed s1 && (followed s1).isSome && followed s1 != s.tb.parent } }))) ∧
  (∀ s : State, s.boot.powered = true → s.tb.locked = true → isRoot s = false → s.tb.lastMarker + holdoverNs s ≤ s.tb.now →
    exec .holdoverExpire s = .next (after s (unlock (s.tb.parent.getD 0) s.tb.offset s))) ∧
  (∀ (s : State) (time : Nat), s.boot.powered = true → s.boot.locked = true → isRoot s = true → ptpEn s = true →
    s.tb.loaded = false →
    exec (.ptpTimebaseLoad time) s = .next { s with tb := { s.tb with loaded := true, locked := true, now := time } })

/-- The offset that a marker from the parent gives: an offset within 15 ns counts as good, eight in a row lock the timebase, and
one beyond 20 ns unlocks it with an event. The slew takes up the offset. -/
def Obligations.MarkerOffsetRule : Prop :=
  ∀ (s : State) (p : Nat) (o : Int), s.tb.loaded = true →
    (takeOffset p o s).tb.offset = o ∧ (takeOffset p o s).tb.slew = -o ∧ (takeOffset p o s).tb.now = s.tb.now ∧
    (s.tb.locked = true → o.natAbs ≤ 20 → (takeOffset p o s).tb.locked = true) ∧
    (s.tb.locked = true → 20 < o.natAbs →
      (takeOffset p o s).tb.locked = false ∧ (takeOffset p o s).tb.unlocks = sat32 (s.tb.unlocks + 1)) ∧
    (s.tb.locked = false → ((takeOffset p o s).tb.locked = true ↔ o.natAbs ≤ 15 ∧ 7 ≤ s.tb.good))

/-! ### Ports -/

/-- LINK_UP, LINK_DOWN and NEIGHBOR_DISCOVERY complete in every port mode. A native port comes up on a half or all of its lanes with
the highest version that both sides offer, or fails with VER_FAIL and an event; an Ethernet port comes up where all its lanes are good;
in mode 0b10 each of the two Ethernet ports has four lanes of its own. LINK_DOWN leaves the lanes of its mask. A default router that
the configuration names gives the next hop of its Ethernet port, where that port is up. -/
def Obligations.LinkCommandsComplete : Prop :=
  (∀ (s : State) (p vs lanes : Nat), portsTrain s = true → p < 8 → dieLost s (0x28 + p / 2) = false →
    let good := lanes &&& goodLanesOf s p
    (portMode s p = 0 →
      (∀ v, runLanes good ≠ 0 → linkVersion vs = some v → exec (.linkUp p vs lanes false) s = .next (after s
        (updPort p (fun x => { x with upA := true, verFail := false, lanes := runLanes good, linkVer := v }) s))) ∧
      (runLanes good ≠ 0 → linkVersion vs = none → exec (.linkUp p vs lanes false) s = .next (after s
        (logEvent 0x0205 (0x28 + p / 2) none p []
          (updPort p (fun x => { x with upA := false, verFail := true, lanes := 0, linkVer := 0 }) s)))) ∧
      (runLanes good = 0 → exec (.linkUp p vs lanes false) s = .next (after s s)) ∧
      exec (.linkUp p vs lanes true) s = .next (after s s)) ∧
    (portMode s p = 1 →
      (good % 256 = 255 → exec (.linkUp p vs lanes false) s =
        .next (after s (updPort p (fun x => { x with upA := true, lanes := 0xFF }) s))) ∧
      (good % 256 ≠ 255 → exec (.linkUp p vs lanes false) s = .next (after s s)) ∧
      exec (.linkUp p vs lanes true) s = .next (after s s)) ∧
    (portMode s p = 2 →
      (good % 16 = 15 → exec (.linkUp p vs lanes false) s = .next (after s (updPort p (fun x =>
        { x with upA := true, lanes := 0x0F + bnat x.upB * 0xF0 }) s))) ∧
      (good / 16 % 16 = 15 → exec (.linkUp p vs lanes true) s = .next (after s (updPort p (fun x =>
        { x with upB := true, lanes := bnat x.upA * 0x0F + 0xF0 }) s)))) ∧
    (portMode s p = 3 → ∀ second, exec (.linkUp p vs lanes second) s = .next (after s s))) ∧
  (∀ (s : State) (p good : Nat), s.boot.powered = true → p < 8 →
    let m := good % 256 &&& goodLanesOf s p
    exec (.linkDown p good) s = .next (after s (settlePort p (good % 256) s)) ∧
    (portMode s p = 0 → (portOf s p).upA = true →
      (runLanes (m &&& (portOf s p).lanes) = 0 →
        settlePort p (good % 256) s = updPort p (fun x => { x with upA := false, lanes := 0, linkVer := 0 }) s) ∧
      (runLanes (m &&& (portOf s p).lanes) ≠ 0 →
        settlePort p (good % 256) s = updPort p (fun x => { x with lanes := runLanes (m &&& (portOf s p).lanes) }) s)) ∧
    (portMode s p = 1 → m % 256 ≠ 255 → settlePort p (good % 256) s = updPort p (fun x => { x with upA := false, lanes := 0 }) s)) ∧
  (∀ (s : State) (p mac : Nat), portsTrain s = true → p < 8 →
    ((portMode s p = 1 ∨ portMode s p = 2) → (portOf s p).upA = true →
      (s.boot.routers.any fun r => r.1 == p && r.2.1 == 0) = true →
      exec (.neighborDiscovery p false mac) s =
        .next (after s (updPort p (fun x => { x with nextHopA := some (mac % 2 ^ 48) }) s))) ∧
    (portMode s p = 2 → (portOf s p).upB = true → (s.boot.routers.any fun r => r.1 == p && r.2.1 == 1) = true →
      exec (.neighborDiscovery p true mac) s =
        .next (after s (updPort p (fun x => { x with nextHopB := some (mac % 2 ^ 48) }) s))))

/-- A native port runs on all eight lanes, on lanes 0 to 3 or on lanes 4 to 7, and goes down when it keeps none of these. -/
def Obligations.NativePortLanes : Prop :=
  ∀ (s : State) (p mask : Nat), portMode s p = 0 → (portOf s p).upA = true →
    (portOf (settlePort p mask s) p).lanes ∈ [0, 0x0F, 0xF0, 0xFF] ∧
    ((portOf (settlePort p mask s) p).upA = false ↔ (portOf (settlePort p mask s) p).lanes = 0) ∧
    (∀ q, q ≠ p → portOf (settlePort p mask s) q = portOf s q)

/-! ### Power and thermal governance -/

/-- The sensor, power, fast-event and latch commands complete. -/
def Obligations.PowerCommandsComplete : Prop :=
  (∀ (s : State) (raw : List (Option Int)), s.boot.powered = true → s.boot.thermTrip = false →
    tripSensor (sampled raw s) = none → exec (.sensorSample raw) s = .next (after s (sampled raw s))) ∧
  (∀ (s : State) (w : Nat), governed s = true → exec (.powerMeasure w) s = .next (after s
    { s with power := { s.power with frameSum := s.power.frameSum + w, frameCount := s.power.frameCount + 1 } })) ∧
  (∀ s : State, governed s = true → exec .powerFrameEnd s = .next (after s
    { frameEnded s with power := { (frameEnded s).power with boost := boostAfter s (frameEnded s) } })) ∧
  (∀ (s : State) (o : Nat), governed s = true → o < 4 → exec (.fastEvent o) s = .next (after s (setClock 2
    { s with power := { s.power with
      fast := true
      boost := false
      fastFrames := 2
      fastEvents := if s.power.fast then s.power.fastEvents else sat32 (s.power.fastEvents + 1) } }))) ∧
  (∀ s : State, serving s = true → exec .throttleLatch s = .next (after s
    { s with
      parts := s.parts.map (fun x => (x.1, if 0 < s.dir.step ∨ 0 < s.power.clockStep
        then { x.2 with throtMs := sat32 (x.2.throtMs + 1) } else x.2))
      power := { s.power with latchDir := s.dir.step, latchClk := s.power.clockStep } })) ∧
  (∀ (s : State) (c : MgmtCmd), manages s c → (c.role = .operator ∨ c.role = .board) → 600 ≤ c.arg0 → c.arg0 ≤ 1800 →
    c.arg1 = 0 → c.arg2 = 0 → c.arg3 = 0 → c.input = [] →
    exec (.pwrCap c) s = .next (after s
      (mgmtAnswer c stOk 0 [] { s with power := { s.power with capNext := some (min c.arg0 (pwrLimit s)) } })))

/-- A valid sensor that reads 105.0 °C or more trips the node: it serves nothing more, every fabric port and the host port are
down, THERMTRIP_N is asserted, and the boot state stays until a cold start. -/
def Obligations.ThermalTripStopsTheNode : Prop :=
  ∀ (s t : State) (raw : List (Option Int)) (k : Nat), s.boot.powered = true → s.boot.thermTrip = false →
    tripSensor (sampled raw s) = some k → exec (.sensorSample raw) s = .next t →
    t.boot.thermTrip = true ∧ t.health.stopped = true ∧ serving t = false ∧ t.host.up = false ∧
    (∀ x ∈ t.fab.ports, x.2.upA = false ∧ x.2.upB = false) ∧
    (∀ (raw' : List (Option Int)), exec (.sensorSample raw') t = .next t) ∧ exec .powerFrameEnd t = .next t

/-- The thermal step: a sample raises it at once to the highest step whose rising threshold (95, 100, 103 °C) the hottest reading
has reached, and lowers it by one only when that reading is below the falling threshold (90, 95, 99 °C) of the step in force; the
step that a sample computes comes into force at the next sample, 100,000 ns later. -/
def Obligations.ThermalStepRule : Prop :=
  ∀ (s t : State) (raw : List (Option Int)), s.boot.powered = true → s.boot.thermTrip = false →
    tripSensor (sampled raw s) = none → exec (.sensorSample raw) s = .next t →
    let hottest := t.power.hotRule
    let reached := if 1648 ≤ hottest then 3 else if 1600 ≤ hottest then 2 else if 1520 ≤ hottest then 1 else 0
    let falling := fun (step : Nat) => (if step = 1 then 1440 else if step = 2 then 1520 else if step = 3 then 1584 else 0 : Int)
    let old := t.power.thermStep
    old = s.power.thermNext ∧
    (old < reached → t.power.thermNext = reached) ∧
    (reached ≤ old → old ≠ 0 → hottest < falling old → t.power.thermNext = old - 1) ∧
    (reached ≤ old → (old = 0 ∨ falling old ≤ hottest) → t.power.thermNext = old)

/-- The clock step in force is 3 during a fast event, and otherwise the larger of the thermal step and the power step: so after
every sample, every frame end and every fast event. A change of the clock step is counted. -/
def Obligations.ClockStepRule : Prop :=
  ∀ (s : State) (cause : Nat),
    (setClock cause s).power.clockStep = (if s.power.fast then 3 else max s.power.thermStep s.power.pwrStep) ∧
    (setClock cause s).power.stepChanges =
      (if (setClock cause s).power.clockStep = s.power.clockStep then s.power.stepChanges else sat32 (s.power.stepChanges + 1)) ∧
    (setClock cause s).mem = s.mem ∧ (setClock cause s).nv = s.nv ∧ (setClock cause s).regs = s.regs

/-- The power step rises by one, up to 3, when the average of the frame's measurements is above the cap in force; it falls by one
when ten frames in a row average below 95 % of it; otherwise it stays. -/
def Obligations.PowerStepRule : Prop :=
  ∀ (p : Power) (cap : Nat), 0 < p.frameCount →
    (cap * p.frameCount < p.frameSum → powerStep p cap = (min 3 (p.pwrStep + 1), 0)) ∧
    (p.frameSum ≤ cap * p.frameCount →
      (powerStep p cap).1 = (if p.frameSum * 100 < 95 * cap * p.frameCount ∧ p.lowFrames + 1 = 10 then p.pwrStep - 1 else p.pwrStep) ∧
      (powerStep p cap).2 =
        (if p.frameSum * 100 < 95 * cap * p.frameCount ∧ p.lowFrames + 1 ≠ 10 then p.lowFrames + 1 else 0))

/-! ### Faults, wear and self-test -/

/-- The health commands complete: decay, a classified codeword error, a page repair, a retirement, a lane window, a lost die. -/
def Obligations.WearCommandsComplete : Prop :=
  (∀ s : State, serving s = true → exec .healthDecay s = .next (after s
    { s with health := { s.health with
      pcs := s.health.pcs.map (fun x => (x.1, { x.2 with score := x.2.score - ceilDiv' x.2.score 16 }))
      lanes := s.health.lanes.map (fun x => (x.1, { x.2 with score := x.2.score - ceilDiv' x.2.score 16 }))
      dies := s.health.dies.map (fun x => (x.1, { x.2 with score := x.2.score - ceilDiv' x.2.score 16 })) } })) ∧
  (∀ (s : State) (g bank row u : Nat) (es : SymErrors) (rr : List SymErrors), serving s = true → pcInService s g = true → g < 768 →
    bank < 32 → row < 4608 → isStale s g bank row = false → (pcCtl s g).scrubErr = some (bank, row) →
    readOutcome es = .correctable → classify .correctable (rr.map readOutcome) = (true, false) →
    ((pcHealth s g).transients.countP fun x => x.1 == bank && x.2.1 == row && decide (s.tb.now ≤ x.2.2 + dayNs)) < 3 →
    exec (.memoryError g bank row u es rr) s = .next (after s
      (hbmWrite (unitAddr g bank row u) (decodedData (hbmRead s (unitAddr g bank row u) 64) es)
      (addPc g 1 (updPcHealth g (fun h => { h with
        transients := (h.transients.filter fun x => decide (s.tb.now ≤ x.2.2 + dayNs)) ++ [(bank, row, s.tb.now)] })
        (logEvent 0x0101 (mbSource g) none g [bank, row, 0] (updPc g (fun c => { c with scrubErr := none }) s))))))) ∧
  (∀ (s : State) (g bank row : Nat), serving s = true → pcInService s g = true →
    (pcHealth s g).faults.contains (bank, row) = true → 4480 ≤ row → hasSpare s g bank = true →
    exec (.pageRepair g bank row) s = .next (after s (remapRow g bank row s))) ∧
  (∀ (s : State) (g : Nat), serving s = true → (pcHealth s g).candidate ≠ none → pcInService s g = true → g < 768 →
    (∀ x ∈ s.health.pcs, x.2.state ≠ .degradedKept) → exec (.pcRetire g) s = .next (after s (tryRetirePc g s))) ∧
  (∀ (s : State) (l n : Nat), serving s = true → laneExists l = true → laneIn s l = true → laneErr s < n →
    ((laneHealth s l).retrainTimes.filter fun t => decide (s.tb.now ≤ t + dayNs)).length < 3 →
    exec (.laneErrorWindow l n true) s = .next (after s (logEvent 0x0201 (laneSource l) none l [n]
      (updLane l (fun h => { h with
        retrains := sat32 (h.retrains + 1)
        retrainTimes := ((laneHealth s l).retrainTimes.filter fun t => decide (s.tb.now ≤ t + dayNs)) ++ [s.tb.now]
        probation := 3 }) s)))) ∧
  (∀ (s : State) (d : Nat), s.boot.powered = true → s.health.stopped = false → s.boot.thermTrip = false → dieExists d = true →
    dieLost s d = false →
    exec (.dieLost d) s = .next (after s (loseDie d (abortRuns d (logEvent 0x0204 d none d [] (wearUnit (512 + d)
      { s with health :=
        { s.health with replaceReq := true, dies := mset s.health.dies d { dieHealth s d with lost := true } } })))))) 

/-- Every hour each health score falls by its sixteenth part, rounded up, and stays at zero. -/
def Obligations.HealthScoresDecay : Prop :=
  ∀ (s t : State) (g : Nat), serving s = true → exec .healthDecay s = .next t →
    (pcHealth t g).score = (pcHealth s g).score - ((pcHealth s g).score + 15) / 16 ∧
    (laneHealth t g).score = (laneHealth s g).score - ((laneHealth s g).score + 15) / 16 ∧
    (dieHealth t g).score = (dieHealth s g).score - ((dieHealth s g).score + 15) / 16 ∧
    (pcHealth t g).state = (pcHealth s g).state ∧ t.mem = s.mem ∧ t.regs = s.regs ∧ t.parts = s.parts

/-- The self-test commands complete. -/
def Obligations.SelfTestCommandsComplete : Prop :=
  (∀ (s : State) (c : MgmtCmd), manages s c → (c.role = .operator ∨ c.role = .board) → testState s = true → runArgs c = true →
    testClass (c.arg0 % 65536) < 5 →
    exec (.bistRun c) s = .next (after s (addRun
      { testId := c.arg0 % 65536, reference := referenceFor (c.arg0 % 65536) (c.arg1 + c.arg2 * 2 ^ 32), external := bitOf c.arg0 16, cmd := some c } s))) ∧
  (∀ (s : State) (t : Nat) (cap : BistCapture) (r : BistRunning) (c : MgmtCmd), s.boot.powered = true →
    s.bist.running.find? (fun r => r.testId == t) = some r → r.cmd = some c → testClass t < 5 →
    ∀ good : Bool, exec (.bistTestEnd t ⟨cap, good⟩) s = .next (after s (startWaiting (unitReturns r good
      (mgmtAnswer c stOk 0 (runOutput r cap) (recordRun t (verdictOf r.reference cap) false
        { s with bist := { s.bist with running := s.bist.running.erase r } })))))) ∧
  (∀ (s : State) (t : Nat) (cap : BistCapture) (re : Option BistCapture), serving s = true → s.nv.lifecycle ≠ .decommissioned →
    testExists t = true → testClass t < 5 → testedInService s t = true → testRunsNow s t = true →
    inServiceTurn s t = true → engineFree s t = true → verdictOf (Config.misrReference t) cap = 1 →
    exec (.bistInService t cap re true) s = .next (after s (startWaiting (turnTaken t false (recordRun t 1 true s))))) ∧
  (∀ (s : State) (c : MgmtCmd), manages s c → c.role = .operator → s.nv.lifecycle = .deployed → s.parts = [] → c.arg0 = 0 →
    c.arg1 = 0 → c.arg2 = 0 → c.arg3 = 0 → c.input = [] →
    exec (.bistCompatOpen c) s = .next (after s (logEvent 0x0802 srcCt none 0 [] (mgmtAnswer c stOk 0 []
      (let s2 := portsDown (eraseKeys { s with cocoon := { s.cocoon with readLocked := true } })
       { s2 with mgmt := { s2.mgmt with portsUp := false }, boot := { s2.boot with compatOpen := true } }))))) ∧
  (∀ s : State, s.boot.powered = true → exec (.jtagInstruction .idcode) s =
    .next (after s { s with bist := { s.bist with jtagOut := leBytes 4 idcode } })) ∧
  (∀ s : State, exec (.jtagInstruction .bypass) s = .next s ∧ exec (.jtagInstruction .samplePreload) s = .next s) ∧
  (∀ (s : State) (t ref : Nat), s.boot.powered = true → jtagOpen s = true → testExists t = true → testClass t < 5 →
    exec (.jtagInstruction (.bist t ref)) s = .next (after s
      (addRun { testId := t, reference := referenceFor t ref, external := false, cmd := none } s)))

/-! ### Packets and connections -/

/-- CONN_OPEN completes: a CONN_OPEN that R279 accepts gets the lowest ID that R281 allows, a record, and a CONN_ACCEPT by the port
of arrival. -/
def Obligations.ConnOpenCompletes : Prop :=
  ∀ (s s1 : State) (port at_ n major minor cid home : Nat) (p : Packet), reachesSix port at_ p s s1 → p.hdr.typ = 0xE0 →
    (s1.fab.conns.find? fun x => !x.2.own && x.2.peer == p.hdr.src && x.2.peerConn == fieldAt p.payload 8 3 &&
      x.2.openerStart == fieldAt p.payload 0xC 4) = none →
    openOutcome s1 port p.hdr p.payload = .ok (n, major, minor) →
    placeConn s1 n (bitOf (fieldAt p.payload 0x10 1) 1) = some (cid, home) →
    exec (.connOpen port at_ p) s = .next (after s
      (let c := acceptedConn s1 port p.hdr p.payload n major minor home (draw32 s1).1
       sendControl port p.hdr.src (fieldAt p.payload 8 3) p.hdr.tenant 0xE1 (major, minor) (acceptBody c cid) (some n) (some cid)
         none (settleRecord cid c (draw32 s1).2)))

/-- The other packet commands complete: a packet that passes checks 1 to 7 is delivered by its type. CONN_ACCEPT completes the
opening, CONN_CLOSE frees the connection and is answered CONN_CLOSED, CONN_CLOSED frees a connection that this node closed, and a
request packet or RMA write enters the window. -/
def Obligations.PacketCommandsComplete : Prop :=
  (∀ (s s1 s2 : State) (port at_ : Nat) (p : Packet) (body : List Byte), reachesSix port at_ p s s1 → p.hdr.typ < 0xE0 →
    connChecks port at_ p s1 = .pass body s2 →
    exec (.packetReceive port at_ p) s = .next (after s (deliver port at_ p.hdr body s2))) ∧
  (∀ (s s1 s2 : State) (port at_ : Nat) (p : Packet) (body : List Byte) (c : Conn), reachesSix port at_ p s s1 →
    p.hdr.typ = 0xE1 → connChecks port at_ p s1 = .pass body s2 → conn? s2 p.hdr.conn = some c → c.opening = true →
    body.length = 16 → fieldAt body 0 1 = stOk →
    exec (.connAccept port at_ p) s = .next (after s (flushTx p.hdr.conn (refuseCoded p.hdr.conn (setConn p.hdr.conn
      { c with
        opening := false
        peerConn := fieldAt body 4 3
        verMajor := fieldAt body 1 1 / 16
        verMinor := fieldAt body 1 1 % 16
        openerStart := fieldAt body 8 4
        base := fieldAt body 8 4
        master := if c.protect then (part? s2 c.part).bind (·.connSecret) else none
        tx := (c.tx.filter fun m => decide (m.why ≠ .opening))
        used := s2.tb.now } s2))))) ∧
  (∀ (s s1 s2 : State) (port at_ : Nat) (p : Packet) (body : List Byte) (c : Conn), reachesSix port at_ p s s1 →
    p.hdr.typ = 0xE2 → quarantined s1 p.hdr = none → connChecks port at_ p s1 = .pass body s2 →
    conn? s2 p.hdr.conn = some c →
    exec (.connClose port at_ p) s = .next (after s (dropConn p.hdr.conn (sendControl port c.peer c.peerConn c.tenant 0xE3
      (c.verMajor, c.verMinor) (statusBody stOk) (some c.part) (some p.hdr.conn) (txKey s2 p.hdr.conn c 0xE3 0) s2)))) ∧
  (∀ (s s1 s2 : State) (port at_ : Nat) (p : Packet) (body : List Byte) (c : Conn), reachesSix port at_ p s s1 →
    p.hdr.typ = 0xE3 → connChecks port at_ p s1 = .pass body s2 → conn? s2 p.hdr.conn = some c → c.closing = true →
    exec (.connClosed port at_ p) s = .next (after s (dropConn p.hdr.conn s2))) ∧
  (∀ (s s1 s2 : State) (port at_ : Nat) (p : Packet) (body : List Byte) (c : Conn) (sl : Slot), reachesSix port at_ p s s1 →
    connChecks port at_ p s1 = .pass body s2 → conn? s2 p.hdr.conn = some c → preCheck s2 c p.hdr = none →
    (p.hdr.mseq + 2 ^ 32 - c.base) % 2 ^ 32 < 256 → mfind c.slots p.hdr.mseq = some sl → sl.done = false →
    sameHeader sl.first p.hdr = true → reservedHeader c p.hdr = false →
    (p.hdr.typ = 0x40 → exec (.rmaWrite port at_ p) s = .next (after s (receiveCell p.hdr.conn c sl p.hdr body s2))) ∧
    (p.hdr.typ = 0x42 → exec (.rmaWriteFinal port at_ p) s = .next (after s (receiveCell p.hdr.conn c sl p.hdr body s2)))) ∧
  (∀ (s : State) (p : Packet) (c : Conn) (m : TxMsg), serving s = true → 128 ≤ p.hdr.typ → p.hdr.typ < 0xE0 →
    conn? s p.hdr.conn = some c → p.hdr.verMajor = c.verMajor → p.hdr.verMinor = c.verMinor → lackedByVersion c p.hdr = false → p.hdr.final = true →
    p.hdr.offset = p.payload.length →
    c.tx.find? (fun m => m.mseq == p.hdr.mseq && responseType m.typ == p.hdr.typ && m.sent) = some m →
    exec (.responseReceive p) s = .next (after s
      (messageOutcome c.peer c.part m (fieldAt p.payload 0 1) (argOf c p.hdr.word) (dropTx p.hdr.conn p.hdr.mseq s)))) ∧
  (∀ (s s1 : State) (die cid : Nat) (good : Bool), serving s = true →
    firstSome (tryFetch good s) (((netDie s die).missQueue.map fun x => x.2.2.hdr.conn).dedup) = some (cid, s1) →
    exec (.connRecordFetch die good) s = .next (after s (resumePackets die cid s1)))

/-- The commands that time out or move a connection's state complete: the window's base, quarantine, retransmission, abandonment,
and the expiry of a hold for a newer epoch. -/
def Obligations.ConnectionTimersComplete : Prop :=
  (∀ (s : State) (cid : Nat) (c : Conn), serving s = true → conn? s cid = some c → baseMoves s c = true →
    mfind c.slots c.base = none →
    exec (.windowBaseAdvance cid) s = .next (after s (setConn cid { c with
      base := (c.base + 1) % 2 ^ 32
      slots := mdel c.slots c.base
      rxGen := if (c.base + 1) % 2 ^ 32 = c.openerStart then c.rxGen + 1 else c.rxGen } s))) ∧
  (∀ (s : State) (cid : Nat), serving s = true → exec (.quarantineEnd cid) s = .next (after s
    { s with fab := { s.fab with quarantine := s.fab.quarantine.filter fun q => q.conn != cid || decide (s.tb.now < q.until_) } })) ∧
  (∀ (s : State) (cid mseq : Nat) (c : Conn) (m : TxMsg), serving s = true → conn? s cid = some c →
    c.tx.find? (fun x => x.mseq == mseq) = some m → m.sent = true → notYetSent s cid mseq = false →
    retxNs s ≤ s.tb.now - m.lastTx → (s.tb.now + 2 ^ 32 - m.ingressTs) % 2 ^ 32 < pltNs s →
    exec (.retransmitTimeout cid mseq) s = .next (after s (transmitTx cid m true (updConn cid (fun c => { c with tx :=
      (c.tx.map fun x => if x.mseq = mseq then { x with lastTx := s.tb.now } else x) }) s)))) ∧
  (∀ (s : State) (cid mseq : Nat) (c : Conn) (m : TxMsg), serving s = true → conn? s cid = some c →
    c.tx.find? (fun x => x.mseq == mseq) = some m → m.sent = true → notYetSent s cid mseq = false →
    pltNs s ≤ (s.tb.now + 2 ^ 32 - m.ingressTs) % 2 ^ 32 → m.why ≠ .opening → m.why ≠ .closing →
    exec (.messageAbandon cid mseq) s = .next (after s (messageOutcome c.peer c.part m 0xFF 0 (dropTx cid mseq s)))) ∧
  (∀ (s : State) (cid mseq : Nat) (c : Conn) (sl : Slot), serving s = true → conn? s cid = some c →
    mfind c.slots mseq = some sl → sl.waiting = true → sl.done = false → sl.arrival + holdNs s ≤ s.tb.now →
    exec (.newerEpochHoldExpire cid mseq) s =
      .next (after s (failSlot cid mseq sl.port sl.first stNotPermitted 0 [] s)))

/-- A packet whose HCRC does not match its header is dropped at check 2 and counted in VPORT_DROP0.HCRC; nothing but the port's
packet count, that counter and the timebase changes, whatever command brings it. -/
def Obligations.HcrcMismatchDropped : Prop :=
  ∀ (s : State) (port at_ : Nat) (p : Packet), serving s = true → portOn s port = true →
    linkCheck (updPort port (fun x => { x with rxPkts := sat64 (x.rxPkts + 1) }) (touch at_ s)) port p = true →
    p.hdr.hcrc ≠ hcrcOf p.hdr →
    exec (.packetReceive port at_ p) s = .next (after s (updNetDie (port / 2) (fun x => { x with hcrc := sat32 (x.hcrc + 1) })
      (updPort port (fun x => { x with rxPkts := sat64 (x.rxPkts + 1) }) (touch at_ s))))

/-- The lifetime check: with a = (t − INGRESS_TS) mod 2^32, a packet passes exactly if a < PLT + SKEW or a ≥ 2^32 − SKEW. -/
def Obligations.LifetimeRule : Prop :=
  ∀ (s : State) (t : Nat) (h : NativeHdr), h.ingressTs < 2 ^ 32 →
    (alive s t h = true ↔
      ((t : Int) - h.ingressTs) % 4294967296 < (pltNs s + skewNs s : Nat) ∨
      4294967296 - (skewNs s : Int) ≤ ((t : Int) - h.ingressTs) % 4294967296)

/-- The window rule: with d = (MSEQ − BASE) mod 2^32, a request packet ahead of the window is counted and changes nothing else; one
behind it, or of a done slot, is counted and, if it is FINAL, answered DUP_ACKED with the status kept, or 0xFF behind the window. -/
def Obligations.WindowRule : Prop :=
  ∀ (s : State) (port at_ : Nat) (h : NativeHdr) (body : List Byte) (c : Conn), conn? s h.conn = some c →
    preCheck s c h = none →
    (256 ≤ (h.mseq + 2 ^ 32 - c.base) % 2 ^ 32 → (h.mseq + 2 ^ 32 - c.base) % 2 ^ 32 < 2 ^ 31 →
      takeRequestPacket port at_ h body s = countWindow c.home s) ∧
    (2 ^ 31 ≤ (h.mseq + 2 ^ 32 - c.base) % 2 ^ 32 → takeRequestPacket port at_ h body s =
      if h.final then respondPkt h.conn h.mseq port h.typ h.lc 0xFF (refusalBody s c.part h.tenant h.typ stDupAcked body) (countWindow c.home s)
      else countWindow c.home s) ∧
    (∀ sl, (h.mseq + 2 ^ 32 - c.base) % 2 ^ 32 < 256 → mfind c.slots h.mseq = some sl → sl.done = true →
      takeRequestPacket port at_ h body s =
        if h.final then respondPkt h.conn h.mseq port h.typ h.lc sl.status (refusalBody s c.part h.tenant h.typ stDupAcked body) (countWindow c.home s)
        else countWindow c.home s)

/-- Connection IDs: the node assigns the lowest 24-bit ID that meets all of R281 - not open, not in quarantine, and, for an LC
connection, a cache set that still has a way of the partition with no pinned entry - and none only where no ID meets them. -/
def Obligations.NewConnectionId : Prop :=
  ∀ (s : State) (n home : Nat) (lc : Bool),
    let meets := fun i => conn? s i = none ∧ (∀ q ∈ s.fab.quarantine, q.conn ≠ i) ∧ (lc = true → lcRoom s n home i = true)
    (∀ i, newId s n home lc = some i ↔ i < 16777216 ∧ meets i ∧ ∀ j < i, ¬ meets j) ∧
    (newId s n home lc = none ↔ ∀ i < 16777216, ¬ meets i)

/-- The home network die of a new connection is the die with the fewest open connections of the partition, ties going to the
lowest die number. -/
def Obligations.HomeDieRule : Prop :=
  ∀ (s : State) (n d : Nat), d < 4 →
    (homeFor s n < 4 ∧
      (s.fab.conns.countP fun x => x.2.part == n && x.2.home == homeFor s n) ≤
        (s.fab.conns.countP fun x => x.2.part == n && x.2.home == d)) ∧
    (d < homeFor s n →
      (s.fab.conns.countP fun x => x.2.part == n && x.2.home == homeFor s n) <
        (s.fab.conns.countP fun x => x.2.part == n && x.2.home == d))

/-! ### Requests -/

/-- ATT_DECODE and ATT_PREFILL complete: where the request is admitted, its bytes, layer and geometry hold, its pages are there, and
a core can be had, the node forms the results of every row and starts the jobs that answer it. -/
def Obligations.AttentionCompletes : Prop :=
  ∀ (s t s1 s2 : State) (r : Req) (op n m : Nat) (lc moss : Bool) (hook : Option HookProg) (d d2 : Desc) (x : Reading)
    (hs : List HeadRead) (ts : List Tup),
    let a := attBlock r.body
    let p := snapshot d x
    let c := tailSeen d op a r.arrival
    (op = 1 ∨ op = 2) → admitted s n op r [a.seq] t → hookOf t n op a = some hook → attBytesOk op r = true →
    nameSeq r op n a.seq a.lg t = .found m lc s1 → desc? s1 m = some d → readingOf false s1 n a hook d = some x →
    pathOf s1 op a d x = some moss → headsOk a x.geo = true → attThetaOk d a x = true →
    r.body.length = attLength op a x.geo → a.qpos + a.rows - 1 ≤ 0xFFFFFFFE →
    (op = 1 → keptTagAnswer r op m a.tag s1 = none) → ringPosOk a p d x = true →
    pagesReady r op m (readRanges d a x (p + c)) (touchedEntries d x (positions (readRanges d a x (p + c))))
      ⟨p, c, attViews d a x (p + c)⟩ s1 = .ok s2 →
    desc? s2 m = some d2 → readHeads s2 d2 a x (p + c) x.heads = .ok hs →
    forwardAll a x hs (attArrays op a x.geo r.body) = some ts →
    (r.lc = true → (lcCores s2 r (attJobs s2 m op moss d2 a x hs (attArrays op a x.geo r.body))).isSome = true) →
    exec (if op = 1 then .attDecode r else .attPrefill r) s = .next (after s (attended r op n m a x moss p c d2 hs ts s2))

/-- ATT_BACKWARD completes: under the same conditions, where it is its turn in its accumulator set and the set has room, the
gradients are added to the set and the jobs that answer it start; requests held for their turn follow. -/
def Obligations.BackwardCompletes : Prop :=
  ∀ (s t s1 s2 : State) (r : Req) (n m : Nat) (lc moss : Bool) (hook : Option HookProg) (d d2 : Desc) (x : Reading)
    (hs : List HeadRead) (rows : List (HeadRead × List BwdRow)),
    let a := attBlock r.body
    let p := snapshot d x
    let c := tailSeen d 3 a r.arrival
    let head := bwdHead r.body
    admitted s n 3 r [a.seq] t → hookOf t n 3 a = some hook → attBytesOk 3 r = true →
    nameSeq r 3 n a.seq a.lg t = .found m lc s1 → desc? s1 m = some d → readingOf false s1 n a hook d = some x →
    pathOf s1 3 a d x = some moss → headsOk a x.geo = true → attThetaOk d a x = true →
    r.body.length = attLength 3 a x.geo → a.qpos + a.rows - 1 ≤ 0xFFFFFFFE →
    (head.index = 0 ∨ d.repl.failedSets.contains a.layer = false) → ringPosOk a p d x = true →
    bwdTurn s1 m a.layer head.index = .apply →
    pagesReady r 3 m (readRanges d a x (p + c)) (touchedEntries d x (positions (readRanges d a x (p + c))))
      ⟨p, c, attViews d a x (p + c)⟩ s1 = .ok s2 →
    desc? s2 m = some d2 → readHeads s2 d2 a x p x.heads = .ok hs →
    accFits s2 (backwardNeeds s2 d2 m a x hs r.body) = true → backwardRows a x hs r.body = some rows →
    (r.lc = true → (lcCores s2 r (attJobs s2 m 3 false d2 a x hs (attArrays 3 a x.geo r.body))).isSome = true) →
    exec (.attBackward r) s = .next (after s (afterWork (backwardApplied r n m a x p head d2 hs rows s2)))

/-- KV_APPEND and KV_APPEND_SPEC complete: where the append is admitted, nothing holds it, its positions follow the tokens there are
and pages for it are there, its rows are written and it commits by its replication step, or grows the tail. -/
def Obligations.AppendsComplete : Prop :=
  ∀ (s t s1 s2 : State) (r : Req) (n m : Nat) (lc : Bool) (d : Desc),
    let h := appendHead r.body
    let plans := plansOf s1 h d r.body
    desc? s1 m = some d → earlierHeld s1 r = false → changePending s1 m = false →
    appendGeometry h d r.body.length = true → wrongClass s1 d plans = false → h.first + h.count ≤ 0xFFFFFFFF →
    viewHolds s1 m h.layer h.first (h.first + h.count) = false →
    (admitted s n 4 r [h.seq] t → appendBytesOk false r.body = true → nameSeq r 4 n h.seq h.lg t = .found m lc s1 →
      d.chrysalis = none →
      (∀ st ∈ (layerStreams d h.layer).filterMap (d.streams[·]?), st.tokens = h.first) →
      appendSpace r 4 m plans (writtenEntries d plans) false s1 = .ok s2 →
      exec (.kvAppend r) s = .next (after s (appended r n m h d plans s2))) ∧
    (admitted s n 5 r [h.seq] t → appendBytesOk true r.body = true → nameSeq r 5 n h.seq h.lg t = .found m lc s1 →
      keptTagAnswer r 5 m h.tag s1 = none → specPosOk d h = true →
      appendSpace r 5 m plans (writtenEntries d plans) (decide (16 < tailCount d h.layer + h.count)) s1 = .ok s2 →
      exec (.kvAppendSpec r) s = .next (after s (appendedSpec r n m h d plans s2)))

/-- SPEC_COMMIT and SPEC_ABORT complete on a sequence with a tail of the tag they name: a commit of k tokens starts its step with
the response's TOKENS and DISCARDED; an abort drops the tail and answers the tokens that stay. -/
def Obligations.TailRequestsComplete : Prop :=
  ∀ (s t s1 : State) (r : Req) (n m : Nat) (lc : Bool) (d : Desc) (c : Chrysalis),
    let seq := fieldAt r.body 0 5
    let k := fieldAt r.body 0xA 2
    desc? s1 m = some d → d.chrysalis = some c → d.specTag = fieldAt r.body 0x10 8 → earlierHeld s1 r = false →
    changePending s1 m = false →
    (admitted s n 6 r [seq] t → specBytesOk r.body 16 = true → nameSeq r 6 n seq (fieldAt r.body 8 1) t = .found m lc s1 →
      keptTagAnswer r 6 m (fieldAt r.body 0x10 8) s1 = none → (∀ i < layerCount d, k ≤ c.counts.getD i 0) →
      exec (.specCommit r) s = .next (after s (startStep r 6 (specBody stOk (c.base + k) (specCount d - k)) m c.base k
        (List.range (layerCount d)) (.commit m k) s1))) ∧
    (admitted s n 7 r [seq] t → specBytesOk r.body 0 = true → nameSeq r 7 n seq (fieldAt r.body 8 1) t = .found m lc s1 →
      exec (.specAbort r) s =
        .next (after s (respond r 7 stOk 0 (specBody stOk (minTokens d) (specCount d)) (dropTail m s1))))

/-- SEQ_OPEN, SEQ_CLOSE, SEQ_CLONE and PREFIX_LOOKUP complete. -/
def Obligations.SequenceRequestsComplete : Prop :=
  (∀ (s t s1 : State) (r : Req) (n : Nat) (ms : List Nat),
    let seq := fieldAt r.body 0 5
    let recs := sortBy (fun a b => decide (a.group ≤ b.group)) (groupRecs r.body)
    admitted s n 0x10 r [seq] t → openBytesOk t n r.body = true →
    (∀ g ∈ recs, keyExists t n (seqKey r.tenant seq g.group) = false) → fieldAt r.body 8 1 ≤ dirFree t n →
    openAll n (bitOf (fieldAt r.body 9 1) 0) (recs.map (newDesc t n r.tenant seq r.arrival)) t = some (ms, s1) →
    exec (.seqOpen r) s = .next (after s (opened r ms s1))) ∧
  (∀ (s t s1 : State) (r : Req) (n : Nat) (gs : List Nat) (xs : List (BitVec 96 × Option (Nat × Nat))),
    let seq := fieldAt r.body 0 5
    admitted s n 0x11 r [seq] t → closeGroups r.body = some gs → closeTargets n r.tenant seq gs t = (.ok xs, s1) →
    (∀ w ∈ s1.fab.clones, ∀ x ∈ xs, ∀ y, x.2 = some y → y.1 ∉ w.srcs) →
    exec (.seqClose r) s = .next (after s (settleAllUnloads (respond r 0x11 stOk 0 (statusBody stOk) (closeAll n xs s1))))) ∧
  (∀ (s t s1 s2 : State) (r : Req) (n sh cp : Nat) (gs ms ks : List Nat),
    let src := fieldAt r.body 0 5
    let new := fieldAt r.body 8 5
    let prefix_ := fieldAt r.body 0x10 4
    admitted s n 0x12 r [src, new] t → cloneGroups r.body = some gs → cloneSources r n src gs t = .ok (ms, s1) →
    (∀ m ∈ ms, ∃ d, desc? s1 m = some d ∧ cloneable d prefix_ = true) →
    (∀ g ∈ gs, keyExists s1 n (seqKey r.tenant new g) = false ∧ cloningKey s1 n (seqKey r.tenant new g) = false) →
    gs.length ≤ dirFree s1 n → cloneFetching prefix_ ms s1 = none →
    cloneMissing prefix_ ms (confirmClone r.epoch prefix_ ms s1) = none →
    cloneAll prefix_ new r.arrival ms (confirmClone r.epoch prefix_ ms s1) = some ((ks, sh, cp), s2) →
    let w : CloneWait :=
      ⟨r, n, ms, (ks.zip gs).map fun x => (x.1, seqKey r.tenant new x.2, bitOf (fieldAt r.body 0x15 1) 0), sh, cp, []⟩
    exec (.seqClone r) s = .next (after s (startClone w s2)) ∧
    (cloneBusy s2 w = true → startClone w s2 = { s2 with fab := { s2.fab with clones := s2.fab.clones ++ [w] } }) ∧
    (cloneBusy s2 w = false → startClone w s2 = publishClone w s2)) ∧
  (∀ (s t s1 s2 : State) (r : Req) (n m : Nat) (lc : Bool) (d : Desc) (st : Stream) (res att : List Nat),
    let seq := fieldAt r.body 0 5
    let i := fieldAt r.body 0xA 2
    admitted s n 0x13 r [seq] t → lookupBytesOk r.body = true →
    nameSeq r 0x13 n seq (fieldAt r.body 8 1) t = .found m lc s1 → desc? s1 m = some d → d.streams[i]? = some st →
    lookupHashes r.epoch m i n r.tenant (lookupList r.body) (lookupAttaches r.body d st) s1 = .ok (res, att, s2) →
    exec (.prefixLookup r) s = .next (after s (lookedUp r n m i res att s2)))

/-- SWAP_OUT, SWAP_IN (with and without HINT) and MERGE complete. -/
def Obligations.SwapAndMergeComplete : Prop :=
  (∀ (s t s1 : State) (r : Req) (n m : Nat) (lc : Bool) (d : Desc),
    let s2 := finishDemands m s1
    let ps := swapOutPages s2 r.body d
    admitted s n 0x20 r [fieldAt r.body 0 5] t → swapBodyOk r.body true = true →
    nameSeq r 0x20 n (fieldAt r.body 0 5) (fieldAt r.body 8 1) t = .found m lc s1 → desc? s2 m = some d → d.chrysalis = none →
    anyFetching d ps = false → ps.length ≤ (swapSlotsFor s2 n ps.length).length →
    exec (.swapOut r) s = .next (after s
      (respond r 0x20 stOk 0 (swapBody stOk ps.length 0 0) (swapOutAll m ps (swapSlotsFor s2 n ps.length) s2)))) ∧
  (∀ (s t s1 : State) (r : Req) (n m : Nat) (lc : Bool) (d : Desc), admitted s n 0x21 r [fieldAt r.body 0 5] t →
    swapBodyOk r.body false = true →
    nameSeq r 0x21 n (fieldAt r.body 0 5) (fieldAt r.body 8 1) t = .found m lc s1 →
    (∀ k s2, swapHint r.body = true → desc? s1 m = some d → stageAll m (swapInPages s1 r.body d) s1 = (k, s2) →
      exec (.swapIn r) s = .next (after s (respond r 0x21 stOk 0 (swapBody stOk k 0 0) s2))) ∧
    (∀ ps k s2 s3, swapHint r.body = false → desc? (finishDemands m s1) m = some d →
      allocForSwap m (swapInPages (finishDemands m s1) r.body d) (finishDemands m s1) = some (ps, s2) →
      swapInAll m ps s2 = ((k, false), s3) →
      exec (.swapIn r) s = .next (after s (noteFree n (respond r 0x21 stOk 0 (swapBody stOk k 0 0) s3))))) ∧
  (∀ (s t : State) (r : Req) (n : Nat), admitted s n 0x30 r [] t → mergeOk r.body = true →
    (r.lc = true → (lcCores t r [mergeJob r]).isSome = true) →
    exec (.merge r) s = .next (after s (startRun r 0x30 n { body := mergeAnswer r.body, jobs := [mergeJob r] } t)))

/-- CHECKPOINT into a buffer of the node or of another one, RESTORE of an image from either, and RMA_READ complete. -/
def Obligations.ImageRequestsComplete : Prop :=
  (∀ (s t s1 s2 : State) (r : Req) (n lost : Nat) (ms : List Nat) (img : List Byte),
    let b := r.body
    admitted s n 0x22 r ((ckptKeys b).map (·.1)) t → ckptOk b = true →
    (isConf t n = true → ((part? t n).bind (·.ckptSecret)).isSome = true) →
    ckptSources r n (ckptKeys b) t = .ok (ms, s1) → (∀ m ∈ ms, fetchingPage s1 m = false) →
    buildImage n r.tenant ((part? t n).bind (·.ckptSecret)) ms s1 = ((img, lost), s2) → img.length ≤ 2 ^ 36 →
    (fieldAt b 0 2 % 4096 = nodeId t → bufferCheck s2 n 0x42 (fieldAt b 4 3) (fieldAt b 7 1) img.length = none →
      exec (.checkpoint r) s =
        .next (after s (respond r 0x22 stOk 0 (ckptBody lost img.length) (bufferWrite (fieldAt b 4 3) 0 img s2)))) ∧
    (∀ cid s3, fieldAt b 0 2 % 4096 ≠ nodeId t → connOrOpen n (fieldAt b 0 2 % 4096) s2 = some (cid, s3) →
      exec (.checkpoint r) s = .next (after s (sendRequest cid 0x42 (fieldAt b 4 3 + fieldAt b 7 1 * 2 ^ 24) img
        (.checkpoint r (ckptBody lost img.length)) s3).2))) ∧
  (∀ (s t u s1 : State) (r : Req) (remote img : List Byte) (n : Nat) (xs : List ImgSection) (ms : List Nat),
    let b := r.body
    let len := fieldAt b 8 5
    admitted s n 0x23 r [] t → b.length = 16 →
    (fieldAt b 0 2 % 4096 ≠ nodeId t → img = sliceBytes remote 0 len ∧ u = t) →
    (fieldAt b 0 2 % 4096 = nodeId t →
      bufferCheck t n 0x41 (fieldAt b 4 3) (fieldAt b 7 1) len = none ∧ bufferRead (fieldAt b 4 3) 0 len t = (img, u)) →
    imageHeadOk img len = true →
    bitOf (fieldAt img 1 1) 0 = isConf u n → imageSealed u n len img = true → fieldAt img 2 2 = r.tenant →
    64 * fieldAt img 6 2 ≤ (imageBody u n len img).length → tablesOk u n (fieldAt img 6 2) (imageBody u n len img) = true →
    readSections (isConf u n) (fieldAt img 4 2) ((imageBody u n len img).drop (64 * fieldAt img 6 2)) = some xs →
    (∀ x ∈ xs, x.desc.tenant = r.tenant ∧ keyExists u n (seqKey r.tenant x.desc.seqId x.desc.layerGroup) = false ∧
      x.good = true ∧ ∀ p ∈ x.pages, p.good = true) →
    xs.length ≤ dirFree u n → restoreAll n r.arrival xs u = some (ms, s1) →
    exec (.restore r remote) s = .next (after s (restored r n ms s1))) ∧
  (∀ (s : State) (r : Req) (n index gen : Nat),
    let t := takeRequest r s
    let off := fieldAt r.body 0 5
    let len := fieldAt r.body 8 4
    serving s = true → reqPart t r = some n → gate t n r 0x41 [] = none → r.body.length = 16 → 1 ≤ len → len ≤ 1073741824 →
    bufferCheck t n 0x41 index gen (off + len) = none →
    exec (.rmaRead r index gen) s = .next (after s
      (respond r 0x41 stOk 0 (statusBody stOk ++ (bufferRead index off len t).1) (bufferRead index off len t).2)))

/-- The commands by which waiting requests go on, are answered late, or are dropped complete. -/
def Obligations.WaitingRequestsComplete : Prop :=
  (∀ (s : State) (m layer index : Nat) (set : AccSet) (h : HeldBwd), serving s = true → accSet? s m layer = some set →
    set.held.find? (fun h => h.index == index && decide (h.req.arrival + 10000000 ≤ s.tb.now)) = some h →
    exec (.backwardHoldTimeout m layer index) s =
      .next (after s (settleAllUnloads (refuse h.req 3 stNotPermitted (setAccSet { set with held := set.held.erase h } s))))) ∧
  (∀ (s : State) (x : HeldAppend) (rest : List HeldAppend), serving s = true → pickHeld s [] s.fab.heldAppends = some (x, rest) →
    exec .heldAppendResume s = .next (after s (runHeld x { s with fab := { s.fab with heldAppends := rest } }))) ∧
  (∀ (s : State) (m : Nat), serving s = true → exec (.tailDeadlineDrop m) s = .next (after s (expireTail m s.tb.now s))) ∧
  (∀ (s : State) (m : Nat), serving s = true → (∃ x ∈ s.fab.demand, x.mdb = m) →
    exec (.demandSwapInDone m) s = .next (after s
      (settleAllUnloads (((finishDemands m s).fab.stalled.filter fun x => x.mdb == m).foldl (fun s x => unstall x s)
        { finishDemands m s with fab := { (finishDemands m s).fab with
            stalled := (finishDemands m s).fab.stalled.filter fun x => x.mdb != m } })))) ∧
  (∀ (s : State) (m i j : Nat), serving s = true → (m, i, j) ∈ s.fab.ahead →
    exec (.stagePage m i j) s = .next (after s
      (stageOne m i j { s with fab := { s.fab with ahead := s.fab.ahead.filter (· != (m, i, j)) } }).2)) ∧
  (∀ (s : State) (page : Nat) (x : Staging), serving s = true → mfind s.staging page = some x →
    x.at_ + stageTtlNs s x.part ≤ s.tb.now → exec (.stageTtlExpire page) s = .next (after s (discardStaged page s))) ∧
  (∀ (s : State) (cid mseq : Nat) (x : Stalled),
    let here := fun (x : Stalled) => match x.req.origin with | .fabric c q _ => c == cid && q == mseq | _ => false
    serving s = true → s.fab.stalled.find? here = some x → x.req.arrival + 50000 ≤ s.tb.now →
    exec (.stallTimeout cid mseq) s = .next (after s (settleAllUnloads (answerRetry x.req x.op
      { s with fab := { s.fab with stalled := s.fab.stalled.filter fun y => !here y } }))))
/-! ### The pool, epochs and fronds -/

/-- The commands of the page pool complete: pre-emption passes, evictions, and freed pages. -/
def Obligations.PoolCommandsComplete : Prop :=
  (∀ (s s3 : State) (n : Nat) (p : Part) (e : PassEnd) (took : Bool), serving s = true → part? s n = some p →
    p.passDue = true → p.lowWm ≠ 0 → p.starved = false → partFree s n < lowWm p →
    (let s1 := s.staging.foldl (fun s x => if x.2.part = n ∧ projected s n < highWm p then discardStaged x.1 s else s) s
     let s2 := reclaimPrefixes n (highWm p) s1
     takeCandidates n (highWm p) (preemptOrder s2 n false) false s2) = ((e, took), s3) →
    exec (.preemptionPass n) s = .next (after s (settlePass n e took s3))) ∧
  (∀ (s s3 : State) (n : Nat) (p : Part) (e : PassEnd) (took : Bool), serving s = true → part? s n = some p →
    p.starved = true → partFree s n < lowWm p → lowWm p ≤ highWm p →
    (let s1 := s.staging.foldl (fun s x => if x.2.part = n ∧ projected s n < highWm p then discardStaged x.1 s else s) s
     let s2 := reclaimPrefixes n (highWm p) s1
     takeCandidates n (highWm p) (preemptOrder s2 n true) false s2) = ((e, took), s3) →
    exec (.preemptRetry n) s = .next (after s (settlePass n e took s3))) ∧
  (∀ (s : State) (n : Nat),
    let w := regWord s (0x00403000 + n * 0x10)
    serving s = true → bitOf w 63 = true → (part? s n).isSome = true → hostUsable s = true → dirFree s n < bitsOf w 22 0 →
    exec (.eviction n) s = .next (after s (evictUntil n (max (bitsOf w 22 0) (bitsOf w 54 32)) (evictionOrder s n) s))) ∧
  (∀ (s : State) (page : Nat) (x : PageRec), serving s = true → mfind s.pages page = some x → x.use = .zeroing →
    zeroQueued s page = false →
    exec (.pageFree page) s = .next (after s
      (updPc (pagePc page) (fun c => { c with rowQ := c.rowQ ++ [zeroCmd page] }) (settleHeld page s))))

/-- EPOCH_ADOPT, GRACE_END, FROND_SWITCH and the fabric manager's commands complete. -/
def Obligations.EpochCommandsComplete : Prop :=
  (∀ (s : State) (c : Commit) (cs : List Commit), serving s = true → s.epochs.pending = c :: cs →
    exec .epochAdopt s = .next (after s (adopt c { s with epochs := { s.epochs with pending := cs } }))) ∧
  (∀ (s : State) (t : Nat), serving s = true → s.epochs.graceEnd = some t → t ≤ s.tb.now →
    exec .graceEnd s = .next (after s { closeMoved s with
      parts := (closeMoved s).parts.map fun x => (x.1, if x.2.drain = 1 then { x.2 with drain := 2 } else x.2)
      epochs := { (closeMoved s).epochs with graceEnd := none } })) ∧
  (∀ (s : State) (f : FrondTable), serving s = true → shadowTable s = some f → s.tb.loaded = true → f.start ≤ s.tb.now →
    let s1 := releaseFrondJobs (noteOverruns s)
    exec .frondSwitch s = .next (after s (retryDeferred (startsUpTo f s.tb.now) { s1 with fronds :=
      { s1.fronds with
        activeBank := if s1.fronds.activeBank = 0 then 1 else 0
        bank0 := if s1.fronds.activeBank = 0 then none else s1.fronds.bank0
        bank1 := if s1.fronds.activeBank = 0 then s1.fronds.bank1 else none
        activeValid := true
        shadowValid := false
        taken := [] } }))) ∧
  (∀ (s : State) (c : MgmtCmd), manages s c → c.role = .operator → commitOk s c.input = true →
    (firstCommit s = true ∨ newerEpoch (fieldAt c.input 2 2) (lastEpoch s) = true) →
    exec (.mapCommit c) s = .next (after s (mgmtAnswer c stOk 0 []
      { s with epochs := { s.epochs with pending := s.epochs.pending ++ [commitOf s.tb.now c.input] } }))) ∧
  (∀ (s : State) (c : MgmtCmd),
    let ms := moveEntries (c.input.drop 16)
    let out := (ms.filter fun m => !m.movedIn).flatMap fun m => (descsOfSeq s m.tenant m.seqId false).map fun k => (k, m.peer)
    let s1 := out.foldl (fun s x => startMove x.1 x.2 s) s
    manages s c → c.role = .operator → announceOk c.input = true → (∀ x ∈ out, hasSet s x.1 = false) →
    exec (.moveAnnounce c) s = .next (after s (settleAnnounces { s1 with epochs :=
      { s1.epochs with
        announced := s1.epochs.announced ++ ms.map fun m => (fieldAt c.input 0 2, m)
        announceWait := s1.epochs.announceWait ++ [(c, out.map (·.1))] } }))) ∧
  (∀ (s : State) (c : MgmtCmd) (p : Part), manages s c → c.role = .operator → placeOk c.input = true →
    part? s (fieldAt c.input 0 1) = some p → p.steward = true → 64 ≤ p.placement.length →
    exec (.placeSet c) s = .next (after s (mgmtAnswer c stOk 0 []
      (backedWrite p.placement 2 (64 * fieldAt c.input 2 2) (leBytes 2 s.epochs.current ++ c.input.drop 10) s)))) ∧
  (∀ (s : State) (c : MgmtCmd) (p : Part), manages s c → c.role = .operator → c.arg0 < 64 → c.arg1 = 0 → c.arg2 = 0 →
    c.arg3 = 0 → c.input = [] → part? s c.arg0 = some p → p.drain = 2 → workLeft (tearing c.arg0 s) c.arg0 = false →
    exec (.release c) s = .next (after s (mgmtAnswer c stOk 0 [] (endTeardown c.arg0 (tearing c.arg0 s))))) ∧
  (∀ (s : State) (c : MgmtCmd), manages s c → c.role = .operator → frondRefusal s c.input = none →
    exec (.frondLoad c) s = .next (after s (mgmtAnswer c stOk 0 [] (setShadow (some (frondImage c.input)) s))))

/-- The directory's commands complete: an operation at the head of a die's queue is performed, a new window lets waiting operations
in, and the scrubber takes its next entry. -/
def Obligations.DirectoryCommandsComplete : Prop :=
  (∀ (s : State) (die : Nat) (x : DirJob) (xs : List DirJob),
    let settle := fun (d : Nat) (s : State) =>
      updDirDie d (fun y => { y with stopped := y.stopped.filter fun n => decide (4096 ≤ y.wait.countP fun w => w.part == n) })
        (admitAll d (dirDie s d).wait.length s)
    let s1 := settle 1 (settle 0 s)
    serving s = true → (dirDie s die).ready = true → (dirDie s1 die).queue = x :: xs →
    ((die ≠ 0 ∨ (cascaded s1 x.req = false ∧ insertPassing s1 = false)) →
      exec (.directoryOperation die none) s =
        .next (after s (performOp die x (updDirDie die (fun y => { y with queue := xs }) s1)))) ∧
    (die = 0 → cascaded s1 x.req = true → insertPassing s1 = false →
      exec (.directoryOperation die none) s = .next (after s
        (updDirDie 1 (fun y => { y with queue := y.queue ++ [{ x with passed := true, best := dd0Best s1 x.req }] })
          (updDirDie 0 (fun y => { y with queue := xs }) s1))))) ∧
  (∀ s : State,
    let s1 := { s with parts := s.parts.map (fun x => (x.1, applyQuota x.2)), dir := { s.dir with step := s.dir.stepNext } }
    let s2 := updDirDie 1 (newWindow (fun n => quotaOf s1 n 1) (waitingReqParts s 1))
      (updDirDie 0 (newWindow (fun n => quotaOf s1 n 0) (waitingReqParts s 0)) s1)
    let s3 := admitAll 0 s2.dir.dd0.wait.length s2
    serving s = true → exec .directoryQuotaWindow s = .next (after s (admitAll 1 s3.dir.dd1.wait.length s3))) ∧
  (∀ (s : State) (die : Nat),
    let s0 := rewriteCleared die s
    let s1 := updDirDie die (fun x => { x with scrubPos := (x.scrubPos + 1) % 2097152 }) s0
    serving s = true → regWord s (0x00400000 + die % 2 * 0x200000) % 2 = 1 →
    exec (.directoryScrub die .clean) s = .next (after s s1) ∧
    exec (.directoryScrub die .correctable) s =
      .next (after s (updDirDie die (fun x => { x with corrected := sat32 (x.corrected + 1) }) s1)) ∧
    exec (.directoryScrub die .uncorrectable) s = .next (after s (dirUncorrected (scrubAddr s0 die)
      (updDirDie die (fun x => { x with repairs := x.repairs ++ [scrubAddr s0 die] })
        { s1 with dir := { s1.dir with entries := mdel s1.dir.entries (scrubAddr s0 die) } }))))

/-! ### DRAM and the cores -/

/-- The commands of a pseudo-channel complete. -/
def Obligations.DramCommandsComplete : Prop :=
  (∀ (s : State) (g bg : Nat), s.boot.powered = true → 3 ≤ s.boot.stage →
    (bgBusy s (pcCtl s g) bg = true → dueOf (pcCtl s g) bg < 4 → exec (.refreshDue g bg) s = .next (after s
      (updMemDie (pcDie g) (fun d => { d with postponedMax := max d.postponedMax (dueOf (pcCtl s g) bg + 1) })
        (updPc g (fun c => { c with due := mset c.due bg (dueOf (pcCtl s g) bg + 1) }) s)))) ∧
    ((bgBusy s (pcCtl s g) bg = false ∨ 4 ≤ dueOf (pcCtl s g) bg) → exec (.refreshDue g bg) s = .next (after s s))) ∧
  (∀ (s : State) (g : Nat) (arr : List PcArrival), s.boot.powered = true → 3 ≤ s.boot.stage → (pcCtl s g).body = .idle →
    ((pcCtl s g).ordinary ≠ [] → exec (.slotGrant ⟨g, arr⟩) s = .next (after s (arrive g true arr (issueOrdinary g s)))) ∧
    (∀ bg k, (pcCtl s g).ordinary = [] → (pcCtl s g).due.find? (fun x => decide (4 ≤ x.2)) = some (bg, k) →
      exec (.slotGrant ⟨g, arr⟩) s = .next (after s (arrive g false arr (updMemDie (pcDie g)
        (fun d => if (nextSlot s (pcCtl s g)).any (fun x => slotIn s x bg) then { d with forced := sat32 (d.forced + 1) } else d)
        (issueRefresh g bg s))))) ∧
    (∀ x, (pcCtl s g).ordinary = [] → (∀ y ∈ (pcCtl s g).due, y.2 < 4) → nextSlot s (pcCtl s g) = some x →
      exec (.slotGrant ⟨g, arr⟩) s = .next (after s (arrive g true arr (grantSlot g x s))))) ∧
  (∀ (s : State) (g t k bg left : Nat) (x : PageTask), s.boot.powered = true → 3 ≤ s.boot.stage →
    (pcCtl s g).body = .moss t k bg → (pcCtl s g).mossCur = some (t, left) →
    task? s t = some x → left = k → ∀ arr : List PcArrival,
    let s1 := endSlot g (56 + k + 24) 24 arr
      (updMemDie (pcDie g) (fun d => { d with chunks := sat32 (d.chunks + 1), steps := sat64 (d.steps + k) })
        (updPc g (fun c => { c with body := .idle, mossCur := some (t, 0) }) s))
    task? s1 t = some x →
    exec (.mossBodyEnd ⟨g, arr⟩) s = .next (after s (loadQueries g t (taskSteps x - 1)
      (chargeAt x.part (tickTime s) (fun y => { y with mossSteps := sat64 (y.mossSteps + k) }) s1)))) ∧
  (∀ (s : State) (g t : Nat) (x : PageTask), s.boot.powered = true → 3 ≤ s.boot.stage → (pcCtl s g).mossCur = some (t, 0) → task? s t = some x →
    exec (.mossTaskDone g) s = .next (after s (afterWork (settleJob x.job (endTask t
      (updJob x.job (fun y => { y with returned := y.returned ++ [taskReturn x] })
        (updMemDie (pcDie g) (fun d => { d with tasks := sat32 (d.tasks + 1) })
          (updPc g (fun c => { c with mossCur := none, lastBg := some (taskBg s t) }) s)))))))) ∧
  (∀ (s : State) (g : Nat) (c : RowCmd) (arr : List PcArrival), s.boot.powered = true → 3 ≤ s.boot.stage →
    (pcCtl s g).body = .row c → c.passed < (rowSources c).length →
    exec (.rowCheckDone ⟨g, arr⟩ []) s = .next (after s (updPc g (fun x => { x with next := some { c with passed := c.passed + 1, repeats := 0 } })
      (endSlot g 592 0 arr (updMemDie (pcDie g) (fun d =>
          { d with rowDone := sat32 (d.rowDone + 1), corrected := sat32 d.corrected, uncorrected := sat32 d.uncorrected })
        (updPc g (fun x => { x with body := .idle }) s)))))) ∧
  (∀ (s : State) (g : Nat) (c : RowCmd) (arr : List PcArrival), s.boot.powered = true → 3 ≤ s.boot.stage →
    (pcCtl s g).body = .row c → (rowSources c).length ≤ c.passed →
    exec (.rowOperationEnd ⟨g, arr⟩) s = .next (after s (endSlot g (rowSlot s g c) 0 arr (requeueWrites g (rowEnded g c
      (updMemDie (pcDie g) (fun d => { d with rowDone := sat32 (d.rowDone + 1) })
        (updPc g (fun x => { x with body := .idle, rowQ := reencodes c ++ x.rowQ ++ moreSlots c }) s))))))) ∧
  (∀ (s : State) (g : Nat) (es : SymErrors), serving s = true → pcInService s g = true → pcQuiet (pcCtl s g) = true →
    let at_ := (pcCtl s g).scrubAt
    let a := unitAddr g (at_ / 128 % 32) (at_ / 4096) (at_ % 128)
    let s1 := updPc g (fun c => { c with scrubAt := (at_ + 1) % (4608 * 4096) }) s
    ((readOutcome es = .clean ∨ isStale s g (at_ / 128 % 32) (at_ / 4096) = true) →
      exec (.hbmScrub g es) s = .next (after s s1)) ∧
    (readOutcome es = .correctable → isStale s g (at_ / 128 % 32) (at_ / 4096) = false →
      exec (.hbmScrub g es) s = .next (after s (updMemDie (pcDie g) (fun d => { d with corrected := sat32 (d.corrected + 1) })
        (updPc g (fun c => { c with scrubErr := some (at_ / 128 % 32, at_ / 4096) })
          (hbmWrite a (decodedData (hbmRead s a 64) es) s1))))) ∧
    (readOutcome es = .uncorrectable → isStale s g (at_ / 128 % 32) (at_ / 4096) = false →
      exec (.hbmScrub g es) s = .next (after s (updMemDie (pcDie g) (fun d => { d with uncorrected := sat32 (d.uncorrected + 1) })
        (updPc g (fun c => { c with scrubErr := some (at_ / 128 % 32, at_ / 4096) }) s1)))))

/-- The commands of the cores complete: a command issues, a job is placed, a page task starts and ends, an item runs, a core
changes its partition, and a corrupt block is read again. -/
def Obligations.CoreCommandsComplete : Prop :=
  (∀ (s : State) (core t j : Nat) (x : Job) (c : EngCmd),
    let s0 := noteOverruns s
    serving s = true → issueCycle s0 core = some t → chooseCmd s0 core t = some (j, x, c) →
    exec (.engineIssue core) s = .next (after s (afterWork (settleJob j
      (chargeAt x.part (tickTime s) (fun y => { y with engineCycles := sat64 (y.engineCycles + c.cycles) })
        (updCore core (fun y =>
          { y with
            lcCmds := if x.lc then sat32 (y.lcCmds + 1) else y.lcCmds
            beCmds := if x.lc then y.beCmds else sat32 (y.beCmds + 1)
            busy := sat64 (y.busy + c.cycles)
            busyUntil := t + c.cycles
            lastBe := if x.lc then y.lastBe else x.placed }) (takeIssued core j x c s0))))))) ∧
  (∀ (s : State) (group j c : Nat) (fs : List Nat), serving s = true → placeable s group = some (j, c, fs) →
    exec (.jobPlace group) s = .next (after s (placeJob j c fs s))) ∧
  (∀ (s : State) (n j : Nat) (x : Job) (p : Part) (t : TaskPlan) (ts : List TaskPlan), serving s = true →
    nextTaskJob s n = some (j, x) → part? s n = some p → x.plan = t :: ts → tasksInUse s n < p.taskQuota * 4096 →
    exec (.pageTaskCreate n) s = .next (after s (createTask n j x t s))) ∧
  (∀ (s : State) (t : Nat) (x : PageTask), serving s = true → task? s t = some x → x.moss = false →
    taskIssued s t x = true →
    exec (.pageTaskDone t) s = .next (after s (afterWork (settleJob x.job (endTask t s))))) ∧
  (∀ (s : State) (core k j : Nat) (x : Job), serving s = true → k < 8 → s.tb.now % 1000 < 250 * (4 - s.power.clockStep) →
    chooseItem (noteOverruns s) core = some (j, x) →
    exec (.workItem core k) s = .next (after s (afterWork (settleJob j
      (updJob j (fun y => { y with items := y.items.drop 1 }) (bindSkipper core k x.part (noteOverruns s))))))) ∧
  (∀ (s : State) (core k n ns : Nat), serving s = true → (part? s n).isSome = true →
    exec (.contextSwitch core (some k) n ns) s = .next (after s (updCore core (fun x =>
      { x with switches := sat32 (x.switches + 1), switchMax := max x.switchMax (min ns switchBound),
               skippers := mset x.skippers k n }) s))) ∧
  (∀ (s : State) (core page block stall k : Nat) (t : PageTask), serving s = true →
    s.sched.tasks.find? (taskReads s core page) = some (k, t) →
    exec (.corruptBlockReread core page block true false stall) s = .next (after s
      (logEvent 0x0501 (core / 4) (some t.part) core [page] (updAttDie (core / 4) (fun x =>
        { x with corrupt := sat32 (x.corrupt + 1), stall := sat32 (x.stall + stall), recovered := sat32 (x.recovered + 1) }) s))))
/-! ### Replication and keys -/

/-- The commands of replication complete. -/
def Obligations.ReplicationCommandsComplete : Prop :=
  (∀ (s s2 : State) (cid mseq i total st : Nat) (fetch : Option Nat),
    let bytes := (bufferRead i 0 total s).1
    serving s = true → inboxFind s cid mseq = some (cid, mseq, i, total) → isReply bytes = false →
    applyMessage (bufOf s i).part bytes (bufferRead i 0 total s).2 = (st, fetch, s2) →
    (fetch = none → exec (.replicaApply cid mseq) s = .next (after s (answerInbox cid mseq st s2))) ∧
    (∀ m c, fetch = some m → conn? s cid = some c → exec (.replicaApply cid mseq) s =
      .next (after s (sendReply c.peer (bufOf s i).part m (replHead bytes) (answerInbox cid mseq st s2))))) ∧
  (∀ (s s2 : State) (cid mseq i total st : Nat),
    let bytes := (bufferRead i 0 total s).1
    serving s = true → inboxFind s cid mseq = some (cid, mseq, i, total) → isReply bytes = true →
    applyReply (bufOf s i).part bytes (bufferRead i 0 total s).2 = (st, s2) →
    exec (.pageFetchReply cid mseq) s = .next (after s (answerInbox cid mseq st s2))) ∧
  (∀ (s : State) (m rseq i j t : Nat) (d : Desc), serving s = true → desc? s m = some d →
    d.repl.fetches.find? (fun f => f.1 == rseq) = some (rseq, i, j, t) → t + pltNs s + skewNs s ≤ s.tb.now →
    fetchUnsent s m rseq = false →
    exec (.pageFetchTimeout m rseq) s = .next (after s (loseEntry m i j
      (updDesc m (fun d => { d with repl := { d.repl with fetches := d.repl.fetches.filter fun f => f.1 != rseq } }) s)))) ∧
  (∀ (s : State) (m : Nat) (move : Bool) (d : Desc), serving s = true → rebuilding s < rebuildPar s →
    rebuildHead s = some (m, move) → desc? s m = some d →
    exec .rebuildStart s = .next (after s (beginRebuild m move (logEvent 0x0302 srcCt (some d.part) 0
      [d.seqId, d.layerGroup, (replRec d move).node.getD 0, 0] s)))) ∧
  (∀ (s : State) (m : Nat) (d : Desc), serving s = true → desc? s m = some d → d.repl.state = .rebuild →
    exec (.rebuildPage m) s = .next (after s (rebuildStep m false d s))) ∧
  (∀ (s s1 : State) (m : Nat) (got : Option (List Byte)) (d : Desc) (ids : List Nat), serving s = true → desc? s m = some d →
    d.repl.unread = true → applyPlacement m got s = (ids, s1) →
    exec (.placementRead m got) s = .next (after s (placementKnown m ids s1)))

/-- The commands of keys complete: the walk of a partition re-encrypts one page, the key slots switch, and secrets, rotations and
associations are installed. -/
def Obligations.KeyCommandsComplete : Prop :=
  (∀ (s : State) (n m i j : Nat) (p : Part) (l : PageLoc) (e : PageEntry),
    let w := s.tb.now / 1000000
    let taken := if p.walkWindow = w then p.walkTaken else 0
    serving s = true → part? s n = some p → p.walking = true → taken < walkPages s n → nextRef s p (activeSlot p) = none →
    nextOwn s n (activeSlot p) = some (m, i, j, l, e) →
    exec (.reencryptWalk n) s = .next (after s (settleSlots n (updPart n (fun p => { p with walkWindow := w, walkTaken := taken + 1 })
      (walkEntry n m i j l e (activeSlot p) s))))) ∧
  (∀ (s : State) (n k t : Nat) (p : Part) (c : CocoonCmd), serving s = true → part? s n = some p → p.rotateTo = some (k, t, c) →
    exec (.keySlotSwitch n) s = .next (after s (nextRotation n p.rotateWait (settleSlots n (cocoonAnswer c stOk (leBytes 8 k)
      (updPart n (fun p =>
        { p with
          slots := (p.slots.zipIdx.map fun x =>
            if x.2 = k then { x.1 with state := .active }
            else if x.1.state = .active then { x.1 with state := .retiring } else x.1)
          rotateTo := none, rotations := sat32 (p.rotations + 1), walking := true })
        (touch ((t / 1000 + 1) * 1000) s))))))) ∧
  (∀ (s : State) (c : CocoonCmd) (b : List Byte) (n : Nat), cocoonTurn s c 40 b → c.role = .tenant n →
    (fieldAt b 0 1 = 1 ∨ fieldAt b 0 1 = 2) → allZero (sliceBytes b 1 7) = true → (part? s n).isSome = true →
    (isConf s n = true → s.cocoon.erased = false) →
    exec (.keyInstall c) s = .next (after s (cocoonAnswer c stOk [] (updPart n (fun p =>
      if fieldAt b 0 1 = 1 then { p with connSecret := some (BitVec.ofNat 256 (fieldAt b 8 32)) }
      else { p with ckptSecret := some (BitVec.ofNat 256 (fieldAt b 8 32)) }) s)))) ∧
  (∀ (s : State) (c : CocoonCmd) (b : List Byte) (n : Nat) (p : Part), cocoonTurn s c 8 b →
    (c.role = .operator ∨ c.role = .tenant n) → fieldAt b 0 1 = n → fieldAt c.payload 8 1 = n → n < 64 →
    allZero (b.drop 1) = true → part? s n = some p →
    (p.rotateTo = none → exec (.keyRotate c) s = .next (after s (startRotation n c s))) ∧
    (p.rotateTo.isSome = true →
      exec (.keyRotate c) s = .next (after s (updPart n (fun p => { p with rotateWait := p.rotateWait ++ [c] }) s)))) ∧
  (∀ (s : State) (c : CocoonCmd) (b : List Byte),
    let id : Nat × Nat × Nat × Bool := (fieldAt b 0 1, fieldAt b 1 1, fieldAt b 2 1, fieldAt b 3 1 == 1)
    cocoonTurn s c 64 b → c.role = .operator → fieldAt b 0 1 < 8 → fieldAt b 1 1 < 2 → fieldAt b 2 1 < 4 → fieldAt b 3 1 < 2 →
    fieldAt b 20 4 = 0 → (fieldAt b 3 1 = 0 → fieldAt b 56 8 = 0) →
    exec (.sakInstall c) s = .next (after s (cocoonAnswer c stOk [] { s with fab :=
      { s.fab with
        saks := (id, (BitVec.ofNat 256 (fieldAt b 24 32), fieldAt b 8 12, fieldAt b 4 4, fieldAt b 56 8)) ::
          s.fab.saks.filter fun x => decide (x.1 ≠ id)
        txPn := if fieldAt b 3 1 = 0 then mset s.fab.txPn (2 * fieldAt b 0 1 + fieldAt b 1 1) 0 else s.fab.txPn } })))

/-! ### Traffic and registers -/

/-- The commands of policers, shapers, ports and telemetry complete. -/
def Obligations.TrafficCommandsComplete : Prop :=
  (∀ s : State, serving s = true → exec .policerRefill s = .next (after s { s with fab := { s.fab with
    policers := s.fab.policers.map fun x => (x.1, refillTo (s.tb.now / 1000) x.2) } })) ∧
  (∀ s : State, serving s = true → exec .shaperRefill s = .next (after s
    ((s.fab.shapers.map fun x => (x.1, refillTo (s.tb.now / 1000) x.2)).foldl (fun s x => noteWait (x.1 / 64) (x.1 % 64) s)
      { s with fab := { s.fab with shapers := s.fab.shapers.map fun x => (x.1, refillTo (s.tb.now / 1000) x.2) } }))) ∧
  (∀ s : State, serving s = true → exec .tcChangeApply s = .next (after s { s with fab := { s.fab with
    policers := s.fab.policers.map fun x => (x.1, bucketAt true (s.tb.now / 1000) x.2)
    shapers := s.fab.shapers.map fun x => (x.1, bucketAt false (s.tb.now / 1000) x.2) } })) ∧
  (∀ (s : State) (c : MgmtCmd), manages s c → c.role = .operator → c.arg0 < 8 → c.input = [] → c.arg2 < 262144 →
    c.arg3 < 16777216 →
    (bitOf c.arg0 0 = true → c.arg1 < 512 → (part? s (c.arg1 % 64)).isSome = true →
      exec (.tcSet c) s = .next (after s (mgmtAnswer c stOk 0 [] (setShaper c.arg1
        (changeBucket false c.arg2 c.arg3 (bitOf c.arg0 1) (bitOf c.arg0 2) s.tb.now (shaperOf s c.arg1)) s)))) ∧
    (bitOf c.arg0 0 = false → bitOf c.arg0 2 = false → c.arg1 < 1032 →
      (∀ n, policerPart c.arg1 = some n → (part? s n).isSome = true) →
      exec (.tcSet c) s = .next (after s (mgmtAnswer c stOk 0 [] (setPolicer c.arg1
        (changeBucket true c.arg2 c.arg3 (bitOf c.arg0 1) false s.tb.now (policerOf s c.arg1)) s))))) ∧
  (∀ (s : State) (port j i : Nat) (p : OutPkt),
    let t := dropDeadPackets port s
    let q := egressOf t (egressKey port j)
    serving s = true → portMode s port ≠ 3 → choosePacket t port = some (j, i) → q[i]? = some p →
    exec (.portTransmit port) s =
      .next (after s (unblock (egressKey port j) (transmit port j p (setEgress (egressKey port j) (q.eraseIdx i) t))))) ∧
  (∀ s : State,
    let p := sampleNs s
    serving s = true → exec .queueSample s = .next (after s { s with fab := { s.fab with
      telemetry := allQueues.foldl (fun m g =>
        mset m g (sampleQueue (s.tb.now / p * p - p) (bitOf (regWord s 0x018B0000) 0) (mget {} m g))) s.fab.telemetry } }))

/-- Register writes and reads complete: REGISTER_WRITE and REG_WRITE_M act on the aligned word by its access code, DVSEC_SELECT
takes one of the two versions, REG_READ_M and REG_READ answer the words. -/
def Obligations.RegisterCommandsComplete : Prop :=
  (∀ (s : State) (agent : Agent) (offset width value : Nat), mayAccess s agent = true → offset < 0x4000000 →
    wellPlaced offset width = true →
    exec (.registerWrite agent offset width (some value)) s = .next (after s
      (writeWord agent (offset / 8 * 8) (writtenBits offset width value).1 (writtenBits offset width value).2 s))) ∧
  (∀ (s : State) (agent : Agent) (offset width : Nat), mayAccess s agent = true → offset < 0x4000000 →
    exec (.registerWrite agent offset width none) s = .next (after s
      (if wellPlaced offset width then
        setReadData (leBytes (width / 8)
          (readReg s (agentInst agent) (offset / 8 * 8) / 2 ^ (offset % 8 * 8) % 2 ^ width)) s
      else accessFault offset (setReadData (List.replicate 8 0xFF#8) s)))) ∧
  (∀ (s : State) (value : Nat), s.boot.powered = true → s.boot.recovery = false → s.host.up = true →
    (value = select12 ∨ value = select20) →
    exec (.dvsecSelect value) s = .next (after s { s with host := { s.host with select := value, selectErr := false } })) ∧
  (∀ (s : State) (c : MgmtCmd), mgmtReach s = true → inSession s c = true → mgmtAllowed s c.role 0x7B c.arg0 c.arg1 c.arg2 = true → c.arg0 = 0 →
    c.arg2 = 0 → c.arg3 = 0 → c.input.length = 8 → c.arg1 + 8 ≤ 0x4000000 → c.arg1 % 8 = 0 →
    exec (.regWriteM c) s = .next (after s (mgmtAnswer c stOk 0 []
      (writeWord (.mgmt c.role) c.arg1 0xFFFFFFFFFFFFFFFF (fieldAt c.input 0 8) s)))) ∧
  (∀ (s : State) (c : MgmtCmd), mgmtReach s = true → inSession s c = true → mgmtAllowed s c.role 0x7A c.arg0 c.arg1 c.arg2 = true → c.arg0 = 0 →
    c.arg3 = 0 → c.input = [] → 1 ≤ c.arg2 → c.arg2 ≤ 128 → c.arg1 + 8 * c.arg2 ≤ 0x4000000 → c.arg1 % 8 = 0 →
    exec (.regReadM c) s = .next (after s (mgmtAnswer c stOk 0
      ((List.range c.arg2).flatMap fun i => leBytes 8 (readReg s 1 (c.arg1 + 8 * i))) s))) ∧
  (∀ (s : State) (c : CocoonCmd) (b : List Byte) (n : Nat), cocoonTurn s c 8 b → c.role = .tenant n →
    (part? s n).isSome = true → fieldAt b 0 4 % 8 = 0 → 1 ≤ fieldAt b 4 2 → fieldAt b 4 2 ≤ 512 → fieldAt b 6 2 = 0 →
    fieldAt b 0 4 + 8 * fieldAt b 4 2 ≤ 0x4000000 →
    exec (.regRead c) s = .next (after s (cocoonAnswer c stOk
      ((List.range (fieldAt b 4 2)).flatMap fun i => leBytes 8 (tenantReg s n (fieldAt b 0 4 + 8 * i))) s)))
/-! ### Rings and their commands -/

/-- The doorbells, fetches and ends of a ring pair complete. -/
def Obligations.RingCommandsComplete : Prop :=
  (∀ (s : State) (n r tail a : Nat), serving s = true → s.host.viral = false → r < 8 → tearingDown s n = false →
    descAddr s n r = some a → (ring s n r).draining = false →
    (bitOf (fieldAt (hbmRead s a 64) 0 1) 0 = true → (ring s n r).enabled = true →
      exec (.sqDoorbell n r tail) s = .next (after s (setTail n r tail s))) ∧
    (bitOf (fieldAt (hbmRead s a 64) 0 1) 0 = true → (ring s n r).enabled = false → versionOffered s.host.select = true →
      exec (.sqDoorbell n r tail) s = .next (after s (enableRing n r tail (hbmRead s a 64) s))) ∧
    (bitOf (fieldAt (hbmRead s a 64) 0 1) 0 = false → (ring s n r).enabled = true →
      exec (.sqDoorbell n r tail) s = .next (after s (setRing n r { ring s n r with draining := true } s)))) ∧
  (∀ (s : State) (n r head : Nat),
    let x := ring s n r
    serving s = true → s.host.viral = false → r < 8 → tearingDown s n = false → x.enabled = true → x.draining = false →
    head < 2 ^ x.cqLog →
    exec (.cqDoorbell n r head) s =
      .next (after s (flushRma n r x.rmaDue (setRing n r { x with cqHead := cqHeadAfter x head } s)))) ∧
  (∀ (s : State) (n r : Nat),
    let x := ring s n r
    let s1 := setRing n r { done := x.done, nextIdx := x.nextIdx } s
    serving s = true → x.draining = true → x.fetched = [] →
    exec (.ringDrainDone n r) s = .next (after s (releasePages (x.sqPages ++ x.cqPages) (writeRingState n r
      { s1 with host := { s1.host with rmaNoCq := min 255 (s1.host.rmaNoCq + x.rmaDue.length) } })))) ∧
  (∀ (s : State) (n r a : Nat) (p : Part) (input : Option (List Byte)),
    let x := ring s n r
    let f0 := entryFields x.nextIdx s.tb.now (hbmRead s a 64) none
    let f := { f0 with input := inputOf s f0 input }
    let s1 := writeRingState n r (setRing n r
      { x with sqHead := (x.sqHead + 1) % 2 ^ x.sqLog, nextIdx := x.nextIdx + 1, fetched := x.fetched ++ [f] } s)
    let s2 := if readsInput f.code && f.input.isSome then hostCountRead f.len s1 else s1
    serving s = true → tearingDown s n = false → backedAddr x.sqPages (64 * x.sqHead) = some a → part? s n = some p →
    mayFetch x = true →
    (f.fence = true → x.fetched = []) → entryStatus s f = none →
    (f.code ≠ codeRequest → exec (.commandFetch n r input) s = .next (after s s2)) ∧
    (f.code = codeRequest → p.running < 256 → epochRule s2 (f.arg0 / 65536) f.fetchTs = .accepted →
      exec (.commandFetch n r input) s = .next (after s (updPart n (fun p => { p with running := p.running + 1 }) s2)))) ∧
  (∀ (s : State) (n r idx : Nat) (x : Fetched), ringTurn s 0x01 n r idx x →
    exec (.nop n r idx) s = .next (after s (complete n r x.idx stOk 0 s))) ∧
  (∀ (s s1 : State) (n r idx : Nat) (x : Fetched) (p : Part) (remote : List Byte),
    let op := x.arg0 % 256
    let q := ringReq n r p x
    ringTurn s codeRequest n r idx x → part? s n = some p → p.conf = false →
    epochRule s q.epoch x.fetchTs = .accepted → (x.outLen = 0 ∨ x.outAddr = 0 ∨ hostUsable s = true) →
    (∀ w ∈ s.dir.waitReqs, w.req.origin ≠ q.origin) → intake n op q s = (true, s1) →
    exec (.request n r idx remote) s =
      .next (after s (runRequest op q remote (markStarted n r x.idx (chargeOp n op x.fetchTs s1)))))

/-- The ring commands that load and unload tables, programs and weight sets complete. -/
def Obligations.LoadCommandsComplete : Prop :=
  (∀ (s : State) (n r idx : Nat) (x : Fetched),
    let t := tableSlot s n x.arg0
    ringTurn s 0x20 n r idx x → recordOk (x.input.getD []) = true → isConf s n = false → t.pending = none →
    (olderHeld s n x.arg0 = true → exec (.excLoad n r idx) s = .next (after s (complete n r x.idx stOk (nextGen t + 4)
      (setTable n x.arg0 { t with pending := some (x.input.getD []) } s)))) ∧
    (olderHeld s n x.arg0 = false → exec (.excLoad n r idx) s = .next (after s (complete n r x.idx stOk (nextGen t)
      (loadTable n x.arg0 (x.input.getD []) s))))) ∧
  (∀ (s : State) (n k : Nat) (rec_ : List Byte), serving s = true → (tableSlot s n k).pending = some rec_ →
    olderHeld s n k = false → exec (.excLoadEffect n k) s = .next (after s (loadTable n k rec_ s))) ∧
  (∀ (s : State) (n r idx : Nat) (x : Fetched) (p : Part),
    let img := x.input.getD []
    ringTurn s 0x21 n r idx x → part? s n = some p → progOk img = true → (∀ y ∈ p.progs, y.number ≠ fieldAt img 2 2) →
    (p.progs.map fun y => progKib y.image).sum + progKib img ≤ p.progQuota →
    (p.progs.map fun y => y.image.length).sum + img.length ≤ progShare p → progKib img ≤ 4 * (storeFree s).length →
    exec (.progLoad n r idx) s = .next (after s (complete n r x.idx stOk 0 (updPart n (fun p =>
      { p with progs := p.progs ++ [{ number := fieldAt img 2 2, image := img, loadTs := s.tb.now }] })
      (measure n 1 0 (fieldAt img 2 2) img (storeProg n (fieldAt img 2 2) img s)))))) ∧
  (∀ (s : State) (n r idx : Nat) (x : Fetched) (p : Part), ringTurn s codeProgUnload n r idx x → part? s n = some p →
    (∃ y ∈ p.progs, y.number = x.arg0 ∧ y.unloading = false) →
    exec (.progUnload n r idx) s = .next (after s (settleUnloads n (markStarted n r x.idx (updPart n (fun p =>
      { p with progs := p.progs.map fun y => if y.number = x.arg0 then { y with unloading := true } else y }) s))))) ∧
  (∀ (s : State) (n r idx : Nat) (x : Fetched) (p : Part),
    let img := x.input.getD []
    let w : WSet := { id := x.arg0, layers := fieldAt img 2 2, heads := fieldAt img 4 2, qn := fieldAt img 6 2,
                      l := fieldAt img 8 2, image := img, loadTs := s.tb.now }
    ringTurn s 0x23 n r idx x → part? s n = some p → wsetOk img = true → (∀ y ∈ p.wsets, y.id ≠ x.arg0) →
    (p.wsets.map fun y => y.image.length).sum + img.length ≤ wsetCap →
    (∀ g ∈ p.pcs, flexUsed s g + wsetShare p w ≤ flexBytes) →
    exec (.wsetLoad n r idx) s = .next (after s (complete n r x.idx stOk 0
      (updPart n (fun p => { p with wsets := p.wsets ++ [w] }) (measure n 2 0 x.arg0 img s))))) ∧
  (∀ (s : State) (n r idx : Nat) (x : Fetched) (p : Part), ringTurn s codeWsetUnload n r idx x → part? s n = some p →
    (∃ y ∈ p.wsets, y.id = x.arg0 ∧ y.unloading = false) →
    exec (.wsetUnload n r idx) s = .next (after s (settleUnloads n (markStarted n r x.idx (updPart n (fun p =>
      { p with wsets := p.wsets.map fun y => if y.id = x.arg0 then { y with unloading := true } else y }) s)))))

/-- The commands that register buffers and set areas complete. -/
def Obligations.BufferCommandsComplete : Prop :=
  (∀ (s : State) (n r idx : Nat) (x : Fetched),
    let i := x.arg0 % 16777216
    let len := x.len + x.args.getD 0 0 * 4294967296
    let new : Buf :=
      { state := .pending, write := bitOf x.arg0 24, read := bitOf x.arg0 25, hbm := false, part := n, gen := (bufOf s i).gen,
        length := len, base := x.addr, lastBump := (bufOf s i).lastBump, cmd := some (n, r, x.idx) }
    ringTurn s 0x30 n r idx x → i < 1048576 → 0 < len → len < 1099511627776 → bitOf x.arg0 26 = false → firmwareIndex i = false →
    (bufOf s i).state = .free → isConf s n = false →
    exec (.bufReg n r idx) s = .next (after s (startReg i (setBuf i new (markStarted n r x.idx s))))) ∧
  (∀ (s : State) (i : Nat), serving s = true → (bufOf s i).state = .pending → lacking (bufOf s i) = false →
    (bufOf s i).effectAt ≤ s.tb.now →
    exec (.bufRegEffect i) s = .next (after s (activateBuf i (bufOf s i).effectAt s))) ∧
  (∀ (s : State) (n r idx : Nat) (x : Fetched), ringTurn s 0x31 n r idx x → x.arg0 < 1048576 →
    (bufOf s x.arg0).state ≠ .free → (bufOf s x.arg0).part = n → (bufOf s x.arg0).firmware = false →
    (bufOf s x.arg0).cmd = none →
    exec (.bufRel n r idx) s = .next (after s (complete n r x.idx stOk 0 (releaseBuf x.arg0 s)))) ∧
  (∀ (s : State) (n r idx : Nat) (x : Fetched) (p : Part), ringTurn s 0x40 n r idx x → part? s n = some p →
    x.addr % 65536 = 0 → 1 ≤ x.arg0 → x.arg0 ≤ 16777215 →
    (∀ a, p.swapArea = some a →
      x.addr = a.base ∧ (a.slots < x.arg0 ∨ (x.arg0 < a.slots ∧ ∀ i ∈ a.used, i < x.arg0))) →
    let area : SwapArea := { base := x.addr, slots := x.arg0, used := (p.swapArea.map (·.used)).getD [] }
    exec (.swapAreaSet n r idx) s = .next (after s (complete n r x.idx stOk 0
      (updPart n (fun q => { q with swapArea := some area }) (placeMap n p.swapArea area s))))) ∧
  (∀ (s : State) (n r idx : Nat) (x : Fetched) (p : Part), ringTurn s 0x41 n r idx x → part? s n = some p →
    1024 ≤ x.arg0 → x.arg0 ≤ 4194304 → 2 ^ Nat.log2 x.arg0 = x.arg0 → (∀ a, p.evictArea = some a → a.keys = 0) →
    exec (.evictAreaSet n r idx) s = .next (after s (complete n r x.idx stOk 0
      (updPart n (fun p => { p with evictArea := some { base := x.addr, buckets := x.arg0 } }) s)))) ∧
  (∀ (s : State) (c : MgmtCmd) (addr : Nat), manages s c → c.role = .operator → addr % 256 = 0 → 1 ≤ c.arg0 →
    c.arg0 ≤ 16777216 → c.arg1 = 0 → c.arg2 = 0 → c.arg3 = 0 → c.input = [] → tierCount s .host = 0 →
    let area : SpillArea :=
      { base := addr, records := c.arg0, writes := (s.host.spill.map (·.writes)).getD 0 }
    exec (.spillAreaSet c addr) s =
      .next (after s (mgmtAnswer c stOk 0 [] { s with host := { s.host with spill := some area } })))

/-! ### The host link, the cocoon and management -/

/-- The commands of the CXL link complete. -/
def Obligations.HostLinkCommandsComplete : Prop :=
  (∀ (s : State) (addr len a : Nat) (bytes : List Byte), serving s = true → s.host.up = true → s.host.cxl = true →
    addr < 0x1000000000 → hdmAddr s addr = some a →
    (s.host.viral = false →
      exec (.hdmAccess true addr len bytes false) s = .next (after s (hbmWrite a (bytes.take len) s))) ∧
    exec (.hdmAccess false addr len bytes false) s = .next (after s (setReadData (hbmRead s a len) s)) ∧
    exec (.hdmAccess false addr len bytes true) s = .next (after s (raiseViral 1 (setReadData [] s)))) ∧
  (∀ s : State, s.boot.powered = true → s.host.viral = true → exec .cxlLinkReset s = .next (after s (linkIsDown
    (unsetHost { s with host := { s.host with viral := false, cause := 0, viralTs := 0, aer := false } })))) ∧
  (∀ (s : State) (k : CxlPartner), cxlTrains s = true → s.host.up = false → s.boot.recovery = false → k.cxl = true →
    exec (.cxlLinkTrain k) s = .next (after s { s with host :=
      { s.host with
        up := true, cxl := true, negotFail := false, flit256 := k.flit256, latOpt := k.flit256 && k.latOpt
        width := if 16 ≤ k.width then 16 else 8
        speed := min (if k.flit256 then 6 else 5) (max 1 k.speed), viralEn := k.viralEnable } })) ∧
  (∀ s : State, s.boot.powered = true → exec .hostQueueUncorrectableError s = .next (after s (raiseViral 2 s))) ∧
  (∀ (s : State) (key : BitVec 256), s.boot.powered = true → s.boot.recovery = false → s.host.up = true → s.host.cxl = true →
    exec (.doeMailboxMessage (.ideKeySetGo true key)) s = .next (after s
      { s with host := { s.host with ideCm := some key, doe := s.host.doe ++ [Config.standardResponse 3 [1#8]] } }))

/-- The commands of the cocoon complete, and TAMPER_EVENT, COCOON_SELF_TEST_FAIL and WATCHDOG_EXPIRE, each with its own
erasures and its own cause of viral. -/
def Obligations.CocoonCommandsComplete : Prop :=
  (∀ s : State, s.boot.powered = true →
    exec .tamperEvent s = .next (after s (keysLost (eraseKeys { s with nv := { s.nv with secretErased := true } })))) ∧
  (∀ s : State, s.boot.powered = true → s.cocoon.errorState = false →
    exec .cocoonSelfTestFail s = .next (after s (keysLost (cocoonError s)))) ∧
  (∀ s : State, s.boot.powered = true → exec .watchdogExpire s = .next (after s (raiseViral 3 s))) ∧
  (∀ (s : State) (agent : Agent) (value : Nat), mayAccess s agent = true → (mailbox s (agentInst agent)).busy = false →
    bitOf value 0 = true → 1 ≤ bitsOf value 48 32 → bitsOf value 48 32 ≤ 65536 →
    exec (.mailboxGo agent value) s = .next (after s (setMailbox (agentInst agent)
      { mailbox s (agentInst agent) with reqLen := bitsOf value 48 32, busy := true } s))) ∧
  (∀ (s : State) (inst sid : Nat) (role : Role),
    let ss := ((mailbox s inst).sessions.filter fun x => x.1 != sid) ++ [(sid, role)]
    spdmServes s inst = true → (mailbox s inst).sessions.length < 8 →
    roleExists s role = true → s.cocoon.aliasSeed.isSome = true → s.cocoon.errorState = false →
    exec (.spdmMessage inst (.keyExchange role sid true)) s = .next (after s
      (mailboxReply inst (Config.standardResponse 5 (leBytes 4 sid)) (setMailbox inst { mailbox s inst with sessions := ss } s)))) ∧
  (∀ (s : State) (c : CocoonCmd) (b : List Byte), cocoonTurn s c 256 b → c.role = .operator → createRefusal s b = none →
    exec (.partCreate c) s = .next (after s (cocoonAnswer c stOk [] (createPart b s)))) ∧
  (∀ (s : State) (c : CocoonCmd) (b : List Byte), cocoonTurn s c 8 b → c.role = .operator → fieldAt b 0 1 < 64 →
    allZero (b.drop 1) = true → (part? s (fieldAt b 0 1)).isSome = true →
    let n := fieldAt b 0 1
    (workLeft (tearing n s) n = false →
      exec (.partTeardown c) s = .next (after s (cocoonAnswer c stOk [] (endTeardown n (tearing n s))))) ∧
    (workLeft (tearing n s) n = true → exec (.partTeardown c) s = .next (after s (tearing n s)))) ∧
  (∀ (s : State) (c : CocoonCmd) (b : List Byte) (seed : BitVec 256), cocoonTurn s c 40 b → s.nv.lifecycle ≠ .decommissioned →
    s.cocoon.aliasSeed = some seed → allZero (sliceBytes b 33 7) = true →
    exec (.attestReport c) s = .next (after s
      (cocoonAnswer c stOk (attestReport s seed (sliceBytes b 0 32) (fieldAt b 32 1)) s)))

/-- The management messages and the commands of firmware, configuration, calibration and life cycle complete. -/
def Obligations.ManagementCommandsComplete : Prop :=
  (∀ (s : State) (m : MgmtMsg), mgmtReach s = true → m.mver = 1 → m.mtype = 1 → m.secured = false →
    exec (.mgmtMessage m) s = .next (after s (takeRequestMsg m s))) ∧
  (∀ (s : State) (c : MgmtCmd) (sig : SigCheck), manages s c → opOrBoard c.role = true → fwRefusal s c.input sig = none →
    let s1 := norProgram fwBase slotBytes c.input s
    exec (.fwUpdate c sig) s = .next (after s (mgmtAnswer c stOk 0 []
      { s1 with boot := { s1.boot with fwPending := true }, nv := { s1.nv with commitSvn := bitOf c.arg0 0 } }))) ∧
  (∀ (s : State) (c : MgmtCmd) (sig : SigCheck), mgmtReach s = true → s.boot.recovery = true → fwRefusal s c.input sig = none →
    exec (.recoveryLoad c sig) s =
      .next (after s (coldStart (mgmtAnswer c stOk 0 [] (norProgram fwBase slotBytes c.input s))))) ∧
  (∀ (s : State) (c : MgmtCmd), manages s c → c.role = .board → noArgs c = true →
    let s1 := { s with nv := { s.nv with enterRecovery := true } }
    exec (.enterRecovery c) s = .next (after s (mgmtAnswer c stOk 0 [] s1)) ∧
    exec (.coldReset c) s = .next (after s (coldStart (mgmtAnswer c stOk 0 [] s)))) ∧
  (∀ (s : State) (c : MgmtCmd), manages s c → c.role = .operator → c.input.length = fieldAt c.input 8 4 →
    (blockRecords s.nv.serial c.input).isSome = true →
    let s1 := norProgram blockBase regionBytes c.input s
    exec (.cfgWrite c) s =
      .next (after s (mgmtAnswer c stOk 0 [] { s1 with boot := { s1.boot with cfgPending := true } }))) ∧
  (∀ (s : State) (c : MgmtCmd), manages s c → opOrBoard c.role = true → c.arg0 = 0 → c.arg3 = 0 → c.input = [] → 1 ≤ c.arg2 →
    c.arg2 ≤ 1024 → c.arg1 + c.arg2 ≤ norBytes → (c.arg1 + c.arg2 ≤ 0x280000 ∨ 0x1000000 ≤ c.arg1) →
    exec (.cfgRead c) s = .next (after s (mgmtAnswer c stOk 0 (norRead s c.arg1 c.arg2) s))) ∧
  (∀ (s : State) (c : MgmtCmd) (x : List Byte), manages s c → opOrBoard c.role = true → c.arg2 = 0 → c.arg3 = 0 → c.input = [] →
    c.arg1 < (calUnits (c.arg0 % 256)).1 → (calRecords s).find? (calIs (c.arg0 % 256) c.arg1) = some x →
    exec (.calRead c) s = .next (after s (mgmtAnswer c stOk 0 x s))) ∧
  (∀ (s : State) (c : MgmtCmd),
    let rs := calReplace (calRecords s)
      (calRecord (fieldAt c.input 0 1) 1 (fieldAt c.input 2 2) s.nv.serial s.tb.now (c.input.drop 32))
    manages s c → opOrBoard c.role = true → calGood s c.input = true → calLength rs ≤ regionBytes →
    exec (.calWrite c) s = .next (after s (mgmtAnswer c stOk 0 [] (calTakes c.input (calProgram rs s))))) ∧
  (∀ (s : State) (c : MgmtCmd), manages s c → opOrBoard c.role = true → c.arg0 = 2 → c.arg1 = 0 → c.arg2 = 0 → c.arg3 = 0 →
    c.input = [] → s.parts = [] →
    let kinds := [1, 3, 4].filter fun k => k == 1 || s.nv.recalKinds.contains k
    exec (.recal c) s = .next (after s (mgmtAnswer c stOk 0 [] { s with nv := { s.nv with recalKinds := kinds } }))) ∧
  (∀ (s : State) (c : MgmtCmd) (sig : SigCheck) (t : Lifecycle), manages s c → lifecycleOf (c.arg0 % 8) = some t → c.arg1 = 0 →
    c.arg2 = 0 → c.arg3 = 0 → transitionAllowed s c sig t = true →
    exec (.lcTransition c sig) s = .next (after s (coldStart (fuseTransition c t (mgmtAnswer c stOk 0 [] s)))))
/-! ### The directory, the register window and the event log -/

/-- A search matches every entry whose key equals the search key in a segment of the partition, and answers the match with the
highest priority; among matches of equal priority, the lowest address. -/
def Obligations.SearchRule : Prop :=
  ∀ (s : State) (n : Nat) (key : BitVec 96),
    let hit := fun (x : Nat × DirEntry) => x ∈ s.dir.entries ∧ x.2.key = key ∧ mget 64 s.dir.segOwn (x.1 / segSize) = n
    (dirSearch s n key = none ↔ ∀ x, ¬ hit x) ∧
    ∀ a e, dirSearch s n key = some (a, e) →
      hit (a, e) ∧ ∀ x, hit x → x.2.pri < e.pri ∨ (x.2.pri = e.pri ∧ a ≤ x.1)

/-- Insert-if-absent: where the key exists nothing is written; an insert into a free address of the partition is found by the
next search, and no search of another key or partition changes. A second insert of the key therefore fails. -/
def Obligations.InsertIfAbsent : Prop :=
  ∀ (s : State) (n pri data : Nat) (key : BitVec 96),
    ((dirSearch s n key).isSome = true → dirInsert n key pri data s = none) ∧
    ∀ a t, dirInsert n key pri data s = some (a, t) →
      mfind s.dir.entries a = none → mget 64 s.dir.segOwn (a / segSize) = n →
      dirSearch s n key = none ∧ dirSearch t n key = some (a, dirWord key pri data) ∧
      (∀ pri' data', dirInsert n key pri' data' t = none) ∧
      ∀ n' key', (n' ≠ n ∨ key' ≠ key) → dirSearch t n' key' = dirSearch s n' key'

/-- A write of the register window. A misplaced one has no effect but the two access-fault registers. Of an aligned one, in a
register that has no row of its own, a locked or read-only register keeps its value, and after configuration lock event 0x0001
is logged with the offset; before it, exactly the writable bits that the access covers take the value, and every other register
keeps its own. -/
def Obligations.RegisterWriteRule : Prop :=
  ∀ (s : State) (agent : Agent) (o width value : Nat),
    let w := o / 8 * 8
    let mask := (writtenBits o width value).1
    let v := (writtenBits o width value).2
    mayAccess s agent = true → o < 0x4000000 →
    (wellPlaced o width = false → exec (.registerWrite agent o width (some value)) s =
      .next (after s { s with accCount := sat32 (s.accCount + 1), accOffset := o })) ∧
    (wellPlaced o width = true → instOf w 0x00100000 0x40 1024 = none → (w < 0x00200000 ∨ 0x00400000 ≤ w) →
      (rwlReg (canonOffset w) = none → exec (.registerWrite agent o width (some value)) s = .next s) ∧
      ∀ reset rw, rwlReg (canonOffset w) = some (reset, rw) →
        (rw &&& mask = 0 → exec (.registerWrite agent o width (some value)) s = .next s) ∧
        (rw &&& mask ≠ 0 → s.boot.locked = true →
          exec (.registerWrite agent o width (some value)) s = .next (after s (logEvent 0x0001 srcCt none 0 [w] s))) ∧
        (rw &&& mask ≠ 0 → s.boot.locked = false →
          ∃ t, exec (.registerWrite agent o width (some value)) s = .next t ∧ t = { s with regs := t.regs } ∧
            (∀ b < 64, (regWord t w).testBit b = if rw.testBit b && mask.testBit b then v.testBit b else (regWord s w).testBit b) ∧
            ∀ o', canonOffset o' ≠ canonOffset w → regWord t o' = regWord s o'))

/-- An event that repeats the newest record (code, source, partition and unit) within 1 ms of it adds one to its REPEAT; any other
is written at HEAD with the next SEQNO, HEAD advances round the 65,536 records, and a record that overwrites the oldest is counted
in OVERFLOW. -/
def Obligations.EventLogRule : Prop :=
  ∀ (s : State) (code source unit : Nat) (part : Option Nat) (args : List Nat),
    let t := logEvent code source part unit args s
    let newest := (s.ev.head + 65535) % 65536
    let same := fun (r : EvRec) => r.code = code ∧ r.source = source ∧ r.part = part ∧ r.unit = unit ∧
      s.tb.now < r.ts + 1000000 ∧ r.times < 65535
    (∀ r, s.ev.next ≠ 0 → mfind s.ev.recs newest = some r → same r →
      mfind t.ev.recs newest = some { r with times := r.times + 1 } ∧ t.ev.head = s.ev.head ∧ t.ev.next = s.ev.next ∧
      t.ev.overflow = s.ev.overflow ∧ ∀ k, k ≠ newest → mfind t.ev.recs k = mfind s.ev.recs k) ∧
    ((s.ev.next = 0 ∨ ∀ r, mfind s.ev.recs newest = some r → ¬ same r) →
      mfind t.ev.recs s.ev.head = some ⟨s.ev.next, s.tb.now, code, evSev code, source, part, 1, unit, args⟩ ∧
      t.ev.head = (s.ev.head + 1) % 65536 ∧ t.ev.next = s.ev.next + 1 ∧
      t.ev.overflow = (if 65536 ≤ s.ev.next then sat32 (s.ev.overflow + 1) else s.ev.overflow) ∧
      ∀ k, k ≠ s.ev.head → mfind t.ev.recs k = mfind s.ev.recs k) ∧
    t = { s with ev := t.ev }
end

