-- ==== Sys2Proof/Laws/State.lean ====
section
/-!
SUPPORT. What each update of the state leaves: one lemma per field that an update does not change, and what the queue wrapper
`after` and the outcome of a command hold.
-/

namespace Sys2Proof.Machine

open Sys2Proof

/-! ### The outcome of a command -/

/-- A command that goes on leaves the state it computes, with the queue as it was. -/
theorem done_eq_after (s t : State) : (done s t : Host.Outcome State Fault Refusal) = .next (after s t) := rfl

/-- To show what a command answers it is enough to show the state it computes. -/
theorem done_eq_of_eq {s a b : State} (h : a = b) : (done s a : Host.Outcome State Fault Refusal) = .next (after s b) := by
  rw [h, done_eq_after]

@[simp] theorem after_self (s : State) : after s s = s := rfl
@[simp] theorem after_pending (s t : State) : (after s t).pending = s.pending := rfl

/-! ### hbmWrite -/

@[simp] theorem hbmWrite_pending (a : Nat) (bs : List Byte) (s : State) : (hbmWrite a bs s).pending = s.pending := rfl
@[simp] theorem hbmWrite_nv (a : Nat) (bs : List Byte) (s : State) : (hbmWrite a bs s).nv = s.nv := rfl
@[simp] theorem hbmWrite_boot (a : Nat) (bs : List Byte) (s : State) : (hbmWrite a bs s).boot = s.boot := rfl
@[simp] theorem hbmWrite_tb (a : Nat) (bs : List Byte) (s : State) : (hbmWrite a bs s).tb = s.tb := rfl
@[simp] theorem hbmWrite_regs (a : Nat) (bs : List Byte) (s : State) : (hbmWrite a bs s).regs = s.regs := rfl
@[simp] theorem hbmWrite_accCount (a : Nat) (bs : List Byte) (s : State) : (hbmWrite a bs s).accCount = s.accCount := rfl
@[simp] theorem hbmWrite_accOffset (a : Nat) (bs : List Byte) (s : State) : (hbmWrite a bs s).accOffset = s.accOffset := rfl
@[simp] theorem hbmWrite_ev (a : Nat) (bs : List Byte) (s : State) : (hbmWrite a bs s).ev = s.ev := rfl
@[simp] theorem hbmWrite_pages (a : Nat) (bs : List Byte) (s : State) : (hbmWrite a bs s).pages = s.pages := rfl
@[simp] theorem hbmWrite_mdbs (a : Nat) (bs : List Byte) (s : State) : (hbmWrite a bs s).mdbs = s.mdbs := rfl
@[simp] theorem hbmWrite_descs (a : Nat) (bs : List Byte) (s : State) : (hbmWrite a bs s).descs = s.descs := rfl
@[simp] theorem hbmWrite_refs (a : Nat) (bs : List Byte) (s : State) : (hbmWrite a bs s).refs = s.refs := rfl
@[simp] theorem hbmWrite_staging (a : Nat) (bs : List Byte) (s : State) : (hbmWrite a bs s).staging = s.staging := rfl
@[simp] theorem hbmWrite_accSets (a : Nat) (bs : List Byte) (s : State) : (hbmWrite a bs s).accSets = s.accSets := rfl
@[simp] theorem hbmWrite_dir (a : Nat) (bs : List Byte) (s : State) : (hbmWrite a bs s).dir = s.dir := rfl
@[simp] theorem hbmWrite_parts (a : Nat) (bs : List Byte) (s : State) : (hbmWrite a bs s).parts = s.parts := rfl
@[simp] theorem hbmWrite_pastParts (a : Nat) (bs : List Byte) (s : State) : (hbmWrite a bs s).pastParts = s.pastParts := rfl
@[simp] theorem hbmWrite_fab (a : Nat) (bs : List Byte) (s : State) : (hbmWrite a bs s).fab = s.fab := rfl
@[simp] theorem hbmWrite_fronds (a : Nat) (bs : List Byte) (s : State) : (hbmWrite a bs s).fronds = s.fronds := rfl
@[simp] theorem hbmWrite_epochs (a : Nat) (bs : List Byte) (s : State) : (hbmWrite a bs s).epochs = s.epochs := rfl
@[simp] theorem hbmWrite_sched (a : Nat) (bs : List Byte) (s : State) : (hbmWrite a bs s).sched = s.sched := rfl
@[simp] theorem hbmWrite_health (a : Nat) (bs : List Byte) (s : State) : (hbmWrite a bs s).health = s.health := rfl
@[simp] theorem hbmWrite_bist (a : Nat) (bs : List Byte) (s : State) : (hbmWrite a bs s).bist = s.bist := rfl
@[simp] theorem hbmWrite_power (a : Nat) (bs : List Byte) (s : State) : (hbmWrite a bs s).power = s.power := rfl
@[simp] theorem hbmWrite_host (a : Nat) (bs : List Byte) (s : State) : (hbmWrite a bs s).host = s.host := rfl
@[simp] theorem hbmWrite_cocoon (a : Nat) (bs : List Byte) (s : State) : (hbmWrite a bs s).cocoon = s.cocoon := rfl
@[simp] theorem hbmWrite_mgmt (a : Nat) (bs : List Byte) (s : State) : (hbmWrite a bs s).mgmt = s.mgmt := rfl
@[simp] theorem hbmWrite_free (a : Nat) (bs : List Byte) (s : State) : (hbmWrite a bs s).free = s.free := rfl

/-! ### hbmZero -/

@[simp] theorem hbmZero_pending (a n : Nat) (s : State) : (hbmZero a n s).pending = s.pending := rfl
@[simp] theorem hbmZero_nv (a n : Nat) (s : State) : (hbmZero a n s).nv = s.nv := rfl
@[simp] theorem hbmZero_boot (a n : Nat) (s : State) : (hbmZero a n s).boot = s.boot := rfl
@[simp] theorem hbmZero_tb (a n : Nat) (s : State) : (hbmZero a n s).tb = s.tb := rfl
@[simp] theorem hbmZero_regs (a n : Nat) (s : State) : (hbmZero a n s).regs = s.regs := rfl
@[simp] theorem hbmZero_accCount (a n : Nat) (s : State) : (hbmZero a n s).accCount = s.accCount := rfl
@[simp] theorem hbmZero_accOffset (a n : Nat) (s : State) : (hbmZero a n s).accOffset = s.accOffset := rfl
@[simp] theorem hbmZero_ev (a n : Nat) (s : State) : (hbmZero a n s).ev = s.ev := rfl
@[simp] theorem hbmZero_pages (a n : Nat) (s : State) : (hbmZero a n s).pages = s.pages := rfl
@[simp] theorem hbmZero_mdbs (a n : Nat) (s : State) : (hbmZero a n s).mdbs = s.mdbs := rfl
@[simp] theorem hbmZero_descs (a n : Nat) (s : State) : (hbmZero a n s).descs = s.descs := rfl
@[simp] theorem hbmZero_refs (a n : Nat) (s : State) : (hbmZero a n s).refs = s.refs := rfl
@[simp] theorem hbmZero_staging (a n : Nat) (s : State) : (hbmZero a n s).staging = s.staging := rfl
@[simp] theorem hbmZero_accSets (a n : Nat) (s : State) : (hbmZero a n s).accSets = s.accSets := rfl
@[simp] theorem hbmZero_dir (a n : Nat) (s : State) : (hbmZero a n s).dir = s.dir := rfl
@[simp] theorem hbmZero_parts (a n : Nat) (s : State) : (hbmZero a n s).parts = s.parts := rfl
@[simp] theorem hbmZero_pastParts (a n : Nat) (s : State) : (hbmZero a n s).pastParts = s.pastParts := rfl
@[simp] theorem hbmZero_fab (a n : Nat) (s : State) : (hbmZero a n s).fab = s.fab := rfl
@[simp] theorem hbmZero_fronds (a n : Nat) (s : State) : (hbmZero a n s).fronds = s.fronds := rfl
@[simp] theorem hbmZero_epochs (a n : Nat) (s : State) : (hbmZero a n s).epochs = s.epochs := rfl
@[simp] theorem hbmZero_sched (a n : Nat) (s : State) : (hbmZero a n s).sched = s.sched := rfl
@[simp] theorem hbmZero_health (a n : Nat) (s : State) : (hbmZero a n s).health = s.health := rfl
@[simp] theorem hbmZero_bist (a n : Nat) (s : State) : (hbmZero a n s).bist = s.bist := rfl
@[simp] theorem hbmZero_power (a n : Nat) (s : State) : (hbmZero a n s).power = s.power := rfl
@[simp] theorem hbmZero_host (a n : Nat) (s : State) : (hbmZero a n s).host = s.host := rfl
@[simp] theorem hbmZero_cocoon (a n : Nat) (s : State) : (hbmZero a n s).cocoon = s.cocoon := rfl
@[simp] theorem hbmZero_mgmt (a n : Nat) (s : State) : (hbmZero a n s).mgmt = s.mgmt := rfl
@[simp] theorem hbmZero_free (a n : Nat) (s : State) : (hbmZero a n s).free = s.free := rfl

/-! ### hostWrite -/

@[simp] theorem hostWrite_pending (a : Nat) (bs : List Byte) (s : State) : (hostWrite a bs s).pending = s.pending := rfl
@[simp] theorem hostWrite_nv (a : Nat) (bs : List Byte) (s : State) : (hostWrite a bs s).nv = s.nv := rfl
@[simp] theorem hostWrite_boot (a : Nat) (bs : List Byte) (s : State) : (hostWrite a bs s).boot = s.boot := rfl
@[simp] theorem hostWrite_tb (a : Nat) (bs : List Byte) (s : State) : (hostWrite a bs s).tb = s.tb := rfl
@[simp] theorem hostWrite_regs (a : Nat) (bs : List Byte) (s : State) : (hostWrite a bs s).regs = s.regs := rfl
@[simp] theorem hostWrite_accCount (a : Nat) (bs : List Byte) (s : State) : (hostWrite a bs s).accCount = s.accCount := rfl
@[simp] theorem hostWrite_accOffset (a : Nat) (bs : List Byte) (s : State) : (hostWrite a bs s).accOffset = s.accOffset := rfl
@[simp] theorem hostWrite_ev (a : Nat) (bs : List Byte) (s : State) : (hostWrite a bs s).ev = s.ev := rfl
@[simp] theorem hostWrite_mem (a : Nat) (bs : List Byte) (s : State) : (hostWrite a bs s).mem = s.mem := rfl
@[simp] theorem hostWrite_pages (a : Nat) (bs : List Byte) (s : State) : (hostWrite a bs s).pages = s.pages := rfl
@[simp] theorem hostWrite_mdbs (a : Nat) (bs : List Byte) (s : State) : (hostWrite a bs s).mdbs = s.mdbs := rfl
@[simp] theorem hostWrite_descs (a : Nat) (bs : List Byte) (s : State) : (hostWrite a bs s).descs = s.descs := rfl
@[simp] theorem hostWrite_refs (a : Nat) (bs : List Byte) (s : State) : (hostWrite a bs s).refs = s.refs := rfl
@[simp] theorem hostWrite_staging (a : Nat) (bs : List Byte) (s : State) : (hostWrite a bs s).staging = s.staging := rfl
@[simp] theorem hostWrite_accSets (a : Nat) (bs : List Byte) (s : State) : (hostWrite a bs s).accSets = s.accSets := rfl
@[simp] theorem hostWrite_dir (a : Nat) (bs : List Byte) (s : State) : (hostWrite a bs s).dir = s.dir := rfl
@[simp] theorem hostWrite_parts (a : Nat) (bs : List Byte) (s : State) : (hostWrite a bs s).parts = s.parts := rfl
@[simp] theorem hostWrite_pastParts (a : Nat) (bs : List Byte) (s : State) : (hostWrite a bs s).pastParts = s.pastParts := rfl
@[simp] theorem hostWrite_fab (a : Nat) (bs : List Byte) (s : State) : (hostWrite a bs s).fab = s.fab := rfl
@[simp] theorem hostWrite_fronds (a : Nat) (bs : List Byte) (s : State) : (hostWrite a bs s).fronds = s.fronds := rfl
@[simp] theorem hostWrite_epochs (a : Nat) (bs : List Byte) (s : State) : (hostWrite a bs s).epochs = s.epochs := rfl
@[simp] theorem hostWrite_sched (a : Nat) (bs : List Byte) (s : State) : (hostWrite a bs s).sched = s.sched := rfl
@[simp] theorem hostWrite_health (a : Nat) (bs : List Byte) (s : State) : (hostWrite a bs s).health = s.health := rfl
@[simp] theorem hostWrite_bist (a : Nat) (bs : List Byte) (s : State) : (hostWrite a bs s).bist = s.bist := rfl
@[simp] theorem hostWrite_power (a : Nat) (bs : List Byte) (s : State) : (hostWrite a bs s).power = s.power := rfl
@[simp] theorem hostWrite_cocoon (a : Nat) (bs : List Byte) (s : State) : (hostWrite a bs s).cocoon = s.cocoon := rfl
@[simp] theorem hostWrite_mgmt (a : Nat) (bs : List Byte) (s : State) : (hostWrite a bs s).mgmt = s.mgmt := rfl
@[simp] theorem hostWrite_free (a : Nat) (bs : List Byte) (s : State) : (hostWrite a bs s).free = s.free := rfl

/-! ### hostCountRead -/

@[simp] theorem hostCountRead_pending (n : Nat) (s : State) : (hostCountRead n s).pending = s.pending := rfl
@[simp] theorem hostCountRead_nv (n : Nat) (s : State) : (hostCountRead n s).nv = s.nv := rfl
@[simp] theorem hostCountRead_boot (n : Nat) (s : State) : (hostCountRead n s).boot = s.boot := rfl
@[simp] theorem hostCountRead_tb (n : Nat) (s : State) : (hostCountRead n s).tb = s.tb := rfl
@[simp] theorem hostCountRead_regs (n : Nat) (s : State) : (hostCountRead n s).regs = s.regs := rfl
@[simp] theorem hostCountRead_accCount (n : Nat) (s : State) : (hostCountRead n s).accCount = s.accCount := rfl
@[simp] theorem hostCountRead_accOffset (n : Nat) (s : State) : (hostCountRead n s).accOffset = s.accOffset := rfl
@[simp] theorem hostCountRead_ev (n : Nat) (s : State) : (hostCountRead n s).ev = s.ev := rfl
@[simp] theorem hostCountRead_mem (n : Nat) (s : State) : (hostCountRead n s).mem = s.mem := rfl
@[simp] theorem hostCountRead_pages (n : Nat) (s : State) : (hostCountRead n s).pages = s.pages := rfl
@[simp] theorem hostCountRead_mdbs (n : Nat) (s : State) : (hostCountRead n s).mdbs = s.mdbs := rfl
@[simp] theorem hostCountRead_descs (n : Nat) (s : State) : (hostCountRead n s).descs = s.descs := rfl
@[simp] theorem hostCountRead_refs (n : Nat) (s : State) : (hostCountRead n s).refs = s.refs := rfl
@[simp] theorem hostCountRead_staging (n : Nat) (s : State) : (hostCountRead n s).staging = s.staging := rfl
@[simp] theorem hostCountRead_accSets (n : Nat) (s : State) : (hostCountRead n s).accSets = s.accSets := rfl
@[simp] theorem hostCountRead_dir (n : Nat) (s : State) : (hostCountRead n s).dir = s.dir := rfl
@[simp] theorem hostCountRead_parts (n : Nat) (s : State) : (hostCountRead n s).parts = s.parts := rfl
@[simp] theorem hostCountRead_pastParts (n : Nat) (s : State) : (hostCountRead n s).pastParts = s.pastParts := rfl
@[simp] theorem hostCountRead_fab (n : Nat) (s : State) : (hostCountRead n s).fab = s.fab := rfl
@[simp] theorem hostCountRead_fronds (n : Nat) (s : State) : (hostCountRead n s).fronds = s.fronds := rfl
@[simp] theorem hostCountRead_epochs (n : Nat) (s : State) : (hostCountRead n s).epochs = s.epochs := rfl
@[simp] theorem hostCountRead_sched (n : Nat) (s : State) : (hostCountRead n s).sched = s.sched := rfl
@[simp] theorem hostCountRead_health (n : Nat) (s : State) : (hostCountRead n s).health = s.health := rfl
@[simp] theorem hostCountRead_bist (n : Nat) (s : State) : (hostCountRead n s).bist = s.bist := rfl
@[simp] theorem hostCountRead_power (n : Nat) (s : State) : (hostCountRead n s).power = s.power := rfl
@[simp] theorem hostCountRead_cocoon (n : Nat) (s : State) : (hostCountRead n s).cocoon = s.cocoon := rfl
@[simp] theorem hostCountRead_mgmt (n : Nat) (s : State) : (hostCountRead n s).mgmt = s.mgmt := rfl
@[simp] theorem hostCountRead_free (n : Nat) (s : State) : (hostCountRead n s).free = s.free := rfl

/-! ### norWrite -/

@[simp] theorem norWrite_pending (a : Nat) (bs : List Byte) (s : State) : (norWrite a bs s).pending = s.pending := rfl
@[simp] theorem norWrite_boot (a : Nat) (bs : List Byte) (s : State) : (norWrite a bs s).boot = s.boot := rfl
@[simp] theorem norWrite_tb (a : Nat) (bs : List Byte) (s : State) : (norWrite a bs s).tb = s.tb := rfl
@[simp] theorem norWrite_regs (a : Nat) (bs : List Byte) (s : State) : (norWrite a bs s).regs = s.regs := rfl
@[simp] theorem norWrite_accCount (a : Nat) (bs : List Byte) (s : State) : (norWrite a bs s).accCount = s.accCount := rfl
@[simp] theorem norWrite_accOffset (a : Nat) (bs : List Byte) (s : State) : (norWrite a bs s).accOffset = s.accOffset := rfl
@[simp] theorem norWrite_ev (a : Nat) (bs : List Byte) (s : State) : (norWrite a bs s).ev = s.ev := rfl
@[simp] theorem norWrite_mem (a : Nat) (bs : List Byte) (s : State) : (norWrite a bs s).mem = s.mem := rfl
@[simp] theorem norWrite_pages (a : Nat) (bs : List Byte) (s : State) : (norWrite a bs s).pages = s.pages := rfl
@[simp] theorem norWrite_mdbs (a : Nat) (bs : List Byte) (s : State) : (norWrite a bs s).mdbs = s.mdbs := rfl
@[simp] theorem norWrite_descs (a : Nat) (bs : List Byte) (s : State) : (norWrite a bs s).descs = s.descs := rfl
@[simp] theorem norWrite_refs (a : Nat) (bs : List Byte) (s : State) : (norWrite a bs s).refs = s.refs := rfl
@[simp] theorem norWrite_staging (a : Nat) (bs : List Byte) (s : State) : (norWrite a bs s).staging = s.staging := rfl
@[simp] theorem norWrite_accSets (a : Nat) (bs : List Byte) (s : State) : (norWrite a bs s).accSets = s.accSets := rfl
@[simp] theorem norWrite_dir (a : Nat) (bs : List Byte) (s : State) : (norWrite a bs s).dir = s.dir := rfl
@[simp] theorem norWrite_parts (a : Nat) (bs : List Byte) (s : State) : (norWrite a bs s).parts = s.parts := rfl
@[simp] theorem norWrite_pastParts (a : Nat) (bs : List Byte) (s : State) : (norWrite a bs s).pastParts = s.pastParts := rfl
@[simp] theorem norWrite_fab (a : Nat) (bs : List Byte) (s : State) : (norWrite a bs s).fab = s.fab := rfl
@[simp] theorem norWrite_fronds (a : Nat) (bs : List Byte) (s : State) : (norWrite a bs s).fronds = s.fronds := rfl
@[simp] theorem norWrite_epochs (a : Nat) (bs : List Byte) (s : State) : (norWrite a bs s).epochs = s.epochs := rfl
@[simp] theorem norWrite_sched (a : Nat) (bs : List Byte) (s : State) : (norWrite a bs s).sched = s.sched := rfl
@[simp] theorem norWrite_health (a : Nat) (bs : List Byte) (s : State) : (norWrite a bs s).health = s.health := rfl
@[simp] theorem norWrite_bist (a : Nat) (bs : List Byte) (s : State) : (norWrite a bs s).bist = s.bist := rfl
@[simp] theorem norWrite_power (a : Nat) (bs : List Byte) (s : State) : (norWrite a bs s).power = s.power := rfl
@[simp] theorem norWrite_host (a : Nat) (bs : List Byte) (s : State) : (norWrite a bs s).host = s.host := rfl
@[simp] theorem norWrite_cocoon (a : Nat) (bs : List Byte) (s : State) : (norWrite a bs s).cocoon = s.cocoon := rfl
@[simp] theorem norWrite_mgmt (a : Nat) (bs : List Byte) (s : State) : (norWrite a bs s).mgmt = s.mgmt := rfl
@[simp] theorem norWrite_free (a : Nat) (bs : List Byte) (s : State) : (norWrite a bs s).free = s.free := rfl

/-! ### touch -/

@[simp] theorem touch_pending (t : Nat) (s : State) : (touch t s).pending = s.pending := by
  unfold touch; (repeat' split) <;> rfl
@[simp] theorem touch_nv (t : Nat) (s : State) : (touch t s).nv = s.nv := by
  unfold touch; (repeat' split) <;> rfl
@[simp] theorem touch_boot (t : Nat) (s : State) : (touch t s).boot = s.boot := by
  unfold touch; (repeat' split) <;> rfl
@[simp] theorem touch_regs (t : Nat) (s : State) : (touch t s).regs = s.regs := by
  unfold touch; (repeat' split) <;> rfl
@[simp] theorem touch_accCount (t : Nat) (s : State) : (touch t s).accCount = s.accCount := by
  unfold touch; (repeat' split) <;> rfl
@[simp] theorem touch_accOffset (t : Nat) (s : State) : (touch t s).accOffset = s.accOffset := by
  unfold touch; (repeat' split) <;> rfl
@[simp] theorem touch_ev (t : Nat) (s : State) : (touch t s).ev = s.ev := by
  unfold touch; (repeat' split) <;> rfl
@[simp] theorem touch_mem (t : Nat) (s : State) : (touch t s).mem = s.mem := by
  unfold touch; (repeat' split) <;> rfl
@[simp] theorem touch_pages (t : Nat) (s : State) : (touch t s).pages = s.pages := by
  unfold touch; (repeat' split) <;> rfl
@[simp] theorem touch_mdbs (t : Nat) (s : State) : (touch t s).mdbs = s.mdbs := by
  unfold touch; (repeat' split) <;> rfl
@[simp] theorem touch_descs (t : Nat) (s : State) : (touch t s).descs = s.descs := by
  unfold touch; (repeat' split) <;> rfl
@[simp] theorem touch_refs (t : Nat) (s : State) : (touch t s).refs = s.refs := by
  unfold touch; (repeat' split) <;> rfl
@[simp] theorem touch_staging (t : Nat) (s : State) : (touch t s).staging = s.staging := by
  unfold touch; (repeat' split) <;> rfl
@[simp] theorem touch_accSets (t : Nat) (s : State) : (touch t s).accSets = s.accSets := by
  unfold touch; (repeat' split) <;> rfl
@[simp] theorem touch_dir (t : Nat) (s : State) : (touch t s).dir = s.dir := by
  unfold touch; (repeat' split) <;> rfl
@[simp] theorem touch_parts (t : Nat) (s : State) : (touch t s).parts = s.parts := by
  unfold touch; (repeat' split) <;> rfl
@[simp] theorem touch_pastParts (t : Nat) (s : State) : (touch t s).pastParts = s.pastParts := by
  unfold touch; (repeat' split) <;> rfl
@[simp] theorem touch_fab (t : Nat) (s : State) : (touch t s).fab = s.fab := by
  unfold touch; (repeat' split) <;> rfl
@[simp] theorem touch_fronds (t : Nat) (s : State) : (touch t s).fronds = s.fronds := by
  unfold touch; (repeat' split) <;> rfl
@[simp] theorem touch_epochs (t : Nat) (s : State) : (touch t s).epochs = s.epochs := by
  unfold touch; (repeat' split) <;> rfl
@[simp] theorem touch_sched (t : Nat) (s : State) : (touch t s).sched = s.sched := by
  unfold touch; (repeat' split) <;> rfl
@[simp] theorem touch_health (t : Nat) (s : State) : (touch t s).health = s.health := by
  unfold touch; (repeat' split) <;> rfl
@[simp] theorem touch_bist (t : Nat) (s : State) : (touch t s).bist = s.bist := by
  unfold touch; (repeat' split) <;> rfl
@[simp] theorem touch_power (t : Nat) (s : State) : (touch t s).power = s.power := by
  unfold touch; (repeat' split) <;> rfl
@[simp] theorem touch_host (t : Nat) (s : State) : (touch t s).host = s.host := by
  unfold touch; (repeat' split) <;> rfl
@[simp] theorem touch_cocoon (t : Nat) (s : State) : (touch t s).cocoon = s.cocoon := by
  unfold touch; (repeat' split) <;> rfl
@[simp] theorem touch_mgmt (t : Nat) (s : State) : (touch t s).mgmt = s.mgmt := by
  unfold touch; (repeat' split) <;> rfl
@[simp] theorem touch_free (t : Nat) (s : State) : (touch t s).free = s.free := by
  unfold touch; (repeat' split) <;> rfl

/-! ### setRegWord -/

@[simp] theorem setRegWord_pending (o v : Nat) (s : State) : (setRegWord o v s).pending = s.pending := by
  unfold setRegWord; dsimp only; (repeat' split) <;> rfl
@[simp] theorem setRegWord_nv (o v : Nat) (s : State) : (setRegWord o v s).nv = s.nv := by
  unfold setRegWord; dsimp only; (repeat' split) <;> rfl
@[simp] theorem setRegWord_boot (o v : Nat) (s : State) : (setRegWord o v s).boot = s.boot := by
  unfold setRegWord; dsimp only; (repeat' split) <;> rfl
@[simp] theorem setRegWord_tb (o v : Nat) (s : State) : (setRegWord o v s).tb = s.tb := by
  unfold setRegWord; dsimp only; (repeat' split) <;> rfl
@[simp] theorem setRegWord_accCount (o v : Nat) (s : State) : (setRegWord o v s).accCount = s.accCount := by
  unfold setRegWord; dsimp only; (repeat' split) <;> rfl
@[simp] theorem setRegWord_accOffset (o v : Nat) (s : State) : (setRegWord o v s).accOffset = s.accOffset := by
  unfold setRegWord; dsimp only; (repeat' split) <;> rfl
@[simp] theorem setRegWord_ev (o v : Nat) (s : State) : (setRegWord o v s).ev = s.ev := by
  unfold setRegWord; dsimp only; (repeat' split) <;> rfl
@[simp] theorem setRegWord_mem (o v : Nat) (s : State) : (setRegWord o v s).mem = s.mem := by
  unfold setRegWord; dsimp only; (repeat' split) <;> rfl
@[simp] theorem setRegWord_pages (o v : Nat) (s : State) : (setRegWord o v s).pages = s.pages := by
  unfold setRegWord; dsimp only; (repeat' split) <;> rfl
@[simp] theorem setRegWord_mdbs (o v : Nat) (s : State) : (setRegWord o v s).mdbs = s.mdbs := by
  unfold setRegWord; dsimp only; (repeat' split) <;> rfl
@[simp] theorem setRegWord_descs (o v : Nat) (s : State) : (setRegWord o v s).descs = s.descs := by
  unfold setRegWord; dsimp only; (repeat' split) <;> rfl
@[simp] theorem setRegWord_refs (o v : Nat) (s : State) : (setRegWord o v s).refs = s.refs := by
  unfold setRegWord; dsimp only; (repeat' split) <;> rfl
@[simp] theorem setRegWord_staging (o v : Nat) (s : State) : (setRegWord o v s).staging = s.staging := by
  unfold setRegWord; dsimp only; (repeat' split) <;> rfl
@[simp] theorem setRegWord_accSets (o v : Nat) (s : State) : (setRegWord o v s).accSets = s.accSets := by
  unfold setRegWord; dsimp only; (repeat' split) <;> rfl
@[simp] theorem setRegWord_dir (o v : Nat) (s : State) : (setRegWord o v s).dir = s.dir := by
  unfold setRegWord; dsimp only; (repeat' split) <;> rfl
@[simp] theorem setRegWord_parts (o v : Nat) (s : State) : (setRegWord o v s).parts = s.parts := by
  unfold setRegWord; dsimp only; (repeat' split) <;> rfl
@[simp] theorem setRegWord_pastParts (o v : Nat) (s : State) : (setRegWord o v s).pastParts = s.pastParts := by
  unfold setRegWord; dsimp only; (repeat' split) <;> rfl
@[simp] theorem setRegWord_fab (o v : Nat) (s : State) : (setRegWord o v s).fab = s.fab := by
  unfold setRegWord; dsimp only; (repeat' split) <;> rfl
@[simp] theorem setRegWord_fronds (o v : Nat) (s : State) : (setRegWord o v s).fronds = s.fronds := by
  unfold setRegWord; dsimp only; (repeat' split) <;> rfl
@[simp] theorem setRegWord_epochs (o v : Nat) (s : State) : (setRegWord o v s).epochs = s.epochs := by
  unfold setRegWord; dsimp only; (repeat' split) <;> rfl
@[simp] theorem setRegWord_sched (o v : Nat) (s : State) : (setRegWord o v s).sched = s.sched := by
  unfold setRegWord; dsimp only; (repeat' split) <;> rfl
@[simp] theorem setRegWord_health (o v : Nat) (s : State) : (setRegWord o v s).health = s.health := by
  unfold setRegWord; dsimp only; (repeat' split) <;> rfl
@[simp] theorem setRegWord_bist (o v : Nat) (s : State) : (setRegWord o v s).bist = s.bist := by
  unfold setRegWord; dsimp only; (repeat' split) <;> rfl
@[simp] theorem setRegWord_power (o v : Nat) (s : State) : (setRegWord o v s).power = s.power := by
  unfold setRegWord; dsimp only; (repeat' split) <;> rfl
@[simp] theorem setRegWord_host (o v : Nat) (s : State) : (setRegWord o v s).host = s.host := by
  unfold setRegWord; dsimp only; (repeat' split) <;> rfl
@[simp] theorem setRegWord_cocoon (o v : Nat) (s : State) : (setRegWord o v s).cocoon = s.cocoon := by
  unfold setRegWord; dsimp only; (repeat' split) <;> rfl
@[simp] theorem setRegWord_mgmt (o v : Nat) (s : State) : (setRegWord o v s).mgmt = s.mgmt := by
  unfold setRegWord; dsimp only; (repeat' split) <;> rfl
@[simp] theorem setRegWord_free (o v : Nat) (s : State) : (setRegWord o v s).free = s.free := by
  unfold setRegWord; dsimp only; (repeat' split) <;> rfl

/-! ### logEvent -/

@[simp] theorem logEvent_pending (code src : Nat) (p : Option Nat) (u : Nat) (as_ : List Nat) (s : State) : (logEvent code src p u as_ s).pending = s.pending := rfl
@[simp] theorem logEvent_nv (code src : Nat) (p : Option Nat) (u : Nat) (as_ : List Nat) (s : State) : (logEvent code src p u as_ s).nv = s.nv := rfl
@[simp] theorem logEvent_boot (code src : Nat) (p : Option Nat) (u : Nat) (as_ : List Nat) (s : State) : (logEvent code src p u as_ s).boot = s.boot := rfl
@[simp] theorem logEvent_tb (code src : Nat) (p : Option Nat) (u : Nat) (as_ : List Nat) (s : State) : (logEvent code src p u as_ s).tb = s.tb := rfl
@[simp] theorem logEvent_regs (code src : Nat) (p : Option Nat) (u : Nat) (as_ : List Nat) (s : State) : (logEvent code src p u as_ s).regs = s.regs := rfl
@[simp] theorem logEvent_accCount (code src : Nat) (p : Option Nat) (u : Nat) (as_ : List Nat) (s : State) : (logEvent code src p u as_ s).accCount = s.accCount := rfl
@[simp] theorem logEvent_accOffset (code src : Nat) (p : Option Nat) (u : Nat) (as_ : List Nat) (s : State) : (logEvent code src p u as_ s).accOffset = s.accOffset := rfl
@[simp] theorem logEvent_mem (code src : Nat) (p : Option Nat) (u : Nat) (as_ : List Nat) (s : State) : (logEvent code src p u as_ s).mem = s.mem := rfl
@[simp] theorem logEvent_pages (code src : Nat) (p : Option Nat) (u : Nat) (as_ : List Nat) (s : State) : (logEvent code src p u as_ s).pages = s.pages := rfl
@[simp] theorem logEvent_mdbs (code src : Nat) (p : Option Nat) (u : Nat) (as_ : List Nat) (s : State) : (logEvent code src p u as_ s).mdbs = s.mdbs := rfl
@[simp] theorem logEvent_descs (code src : Nat) (p : Option Nat) (u : Nat) (as_ : List Nat) (s : State) : (logEvent code src p u as_ s).descs = s.descs := rfl
@[simp] theorem logEvent_refs (code src : Nat) (p : Option Nat) (u : Nat) (as_ : List Nat) (s : State) : (logEvent code src p u as_ s).refs = s.refs := rfl
@[simp] theorem logEvent_staging (code src : Nat) (p : Option Nat) (u : Nat) (as_ : List Nat) (s : State) : (logEvent code src p u as_ s).staging = s.staging := rfl
@[simp] theorem logEvent_accSets (code src : Nat) (p : Option Nat) (u : Nat) (as_ : List Nat) (s : State) : (logEvent code src p u as_ s).accSets = s.accSets := rfl
@[simp] theorem logEvent_dir (code src : Nat) (p : Option Nat) (u : Nat) (as_ : List Nat) (s : State) : (logEvent code src p u as_ s).dir = s.dir := rfl
@[simp] theorem logEvent_parts (code src : Nat) (p : Option Nat) (u : Nat) (as_ : List Nat) (s : State) : (logEvent code src p u as_ s).parts = s.parts := rfl
@[simp] theorem logEvent_pastParts (code src : Nat) (p : Option Nat) (u : Nat) (as_ : List Nat) (s : State) : (logEvent code src p u as_ s).pastParts = s.pastParts := rfl
@[simp] theorem logEvent_fab (code src : Nat) (p : Option Nat) (u : Nat) (as_ : List Nat) (s : State) : (logEvent code src p u as_ s).fab = s.fab := rfl
@[simp] theorem logEvent_fronds (code src : Nat) (p : Option Nat) (u : Nat) (as_ : List Nat) (s : State) : (logEvent code src p u as_ s).fronds = s.fronds := rfl
@[simp] theorem logEvent_epochs (code src : Nat) (p : Option Nat) (u : Nat) (as_ : List Nat) (s : State) : (logEvent code src p u as_ s).epochs = s.epochs := rfl
@[simp] theorem logEvent_sched (code src : Nat) (p : Option Nat) (u : Nat) (as_ : List Nat) (s : State) : (logEvent code src p u as_ s).sched = s.sched := rfl
@[simp] theorem logEvent_health (code src : Nat) (p : Option Nat) (u : Nat) (as_ : List Nat) (s : State) : (logEvent code src p u as_ s).health = s.health := rfl
@[simp] theorem logEvent_bist (code src : Nat) (p : Option Nat) (u : Nat) (as_ : List Nat) (s : State) : (logEvent code src p u as_ s).bist = s.bist := rfl
@[simp] theorem logEvent_power (code src : Nat) (p : Option Nat) (u : Nat) (as_ : List Nat) (s : State) : (logEvent code src p u as_ s).power = s.power := rfl
@[simp] theorem logEvent_host (code src : Nat) (p : Option Nat) (u : Nat) (as_ : List Nat) (s : State) : (logEvent code src p u as_ s).host = s.host := rfl
@[simp] theorem logEvent_cocoon (code src : Nat) (p : Option Nat) (u : Nat) (as_ : List Nat) (s : State) : (logEvent code src p u as_ s).cocoon = s.cocoon := rfl
@[simp] theorem logEvent_mgmt (code src : Nat) (p : Option Nat) (u : Nat) (as_ : List Nat) (s : State) : (logEvent code src p u as_ s).mgmt = s.mgmt := rfl
@[simp] theorem logEvent_free (code src : Nat) (p : Option Nat) (u : Nat) (as_ : List Nat) (s : State) : (logEvent code src p u as_ s).free = s.free := rfl

/-! ### updPart -/

@[simp] theorem updPart_pending (n : Nat) (f : Part → Part) (s : State) : (updPart n f s).pending = s.pending := by
  unfold updPart; (repeat' split) <;> rfl
@[simp] theorem updPart_nv (n : Nat) (f : Part → Part) (s : State) : (updPart n f s).nv = s.nv := by
  unfold updPart; (repeat' split) <;> rfl
@[simp] theorem updPart_boot (n : Nat) (f : Part → Part) (s : State) : (updPart n f s).boot = s.boot := by
  unfold updPart; (repeat' split) <;> rfl
@[simp] theorem updPart_tb (n : Nat) (f : Part → Part) (s : State) : (updPart n f s).tb = s.tb := by
  unfold updPart; (repeat' split) <;> rfl
@[simp] theorem updPart_regs (n : Nat) (f : Part → Part) (s : State) : (updPart n f s).regs = s.regs := by
  unfold updPart; (repeat' split) <;> rfl
@[simp] theorem updPart_accCount (n : Nat) (f : Part → Part) (s : State) : (updPart n f s).accCount = s.accCount := by
  unfold updPart; (repeat' split) <;> rfl
@[simp] theorem updPart_accOffset (n : Nat) (f : Part → Part) (s : State) : (updPart n f s).accOffset = s.accOffset := by
  unfold updPart; (repeat' split) <;> rfl
@[simp] theorem updPart_ev (n : Nat) (f : Part → Part) (s : State) : (updPart n f s).ev = s.ev := by
  unfold updPart; (repeat' split) <;> rfl
@[simp] theorem updPart_mem (n : Nat) (f : Part → Part) (s : State) : (updPart n f s).mem = s.mem := by
  unfold updPart; (repeat' split) <;> rfl
@[simp] theorem updPart_pages (n : Nat) (f : Part → Part) (s : State) : (updPart n f s).pages = s.pages := by
  unfold updPart; (repeat' split) <;> rfl
@[simp] theorem updPart_mdbs (n : Nat) (f : Part → Part) (s : State) : (updPart n f s).mdbs = s.mdbs := by
  unfold updPart; (repeat' split) <;> rfl
@[simp] theorem updPart_descs (n : Nat) (f : Part → Part) (s : State) : (updPart n f s).descs = s.descs := by
  unfold updPart; (repeat' split) <;> rfl
@[simp] theorem updPart_refs (n : Nat) (f : Part → Part) (s : State) : (updPart n f s).refs = s.refs := by
  unfold updPart; (repeat' split) <;> rfl
@[simp] theorem updPart_staging (n : Nat) (f : Part → Part) (s : State) : (updPart n f s).staging = s.staging := by
  unfold updPart; (repeat' split) <;> rfl
@[simp] theorem updPart_accSets (n : Nat) (f : Part → Part) (s : State) : (updPart n f s).accSets = s.accSets := by
  unfold updPart; (repeat' split) <;> rfl
@[simp] theorem updPart_dir (n : Nat) (f : Part → Part) (s : State) : (updPart n f s).dir = s.dir := by
  unfold updPart; (repeat' split) <;> rfl
@[simp] theorem updPart_pastParts (n : Nat) (f : Part → Part) (s : State) : (updPart n f s).pastParts = s.pastParts := by
  unfold updPart; (repeat' split) <;> rfl
@[simp] theorem updPart_fab (n : Nat) (f : Part → Part) (s : State) : (updPart n f s).fab = s.fab := by
  unfold updPart; (repeat' split) <;> rfl
@[simp] theorem updPart_fronds (n : Nat) (f : Part → Part) (s : State) : (updPart n f s).fronds = s.fronds := by
  unfold updPart; (repeat' split) <;> rfl
@[simp] theorem updPart_epochs (n : Nat) (f : Part → Part) (s : State) : (updPart n f s).epochs = s.epochs := by
  unfold updPart; (repeat' split) <;> rfl
@[simp] theorem updPart_sched (n : Nat) (f : Part → Part) (s : State) : (updPart n f s).sched = s.sched := by
  unfold updPart; (repeat' split) <;> rfl
@[simp] theorem updPart_health (n : Nat) (f : Part → Part) (s : State) : (updPart n f s).health = s.health := by
  unfold updPart; (repeat' split) <;> rfl
@[simp] theorem updPart_bist (n : Nat) (f : Part → Part) (s : State) : (updPart n f s).bist = s.bist := by
  unfold updPart; (repeat' split) <;> rfl
@[simp] theorem updPart_power (n : Nat) (f : Part → Part) (s : State) : (updPart n f s).power = s.power := by
  unfold updPart; (repeat' split) <;> rfl
@[simp] theorem updPart_host (n : Nat) (f : Part → Part) (s : State) : (updPart n f s).host = s.host := by
  unfold updPart; (repeat' split) <;> rfl
@[simp] theorem updPart_cocoon (n : Nat) (f : Part → Part) (s : State) : (updPart n f s).cocoon = s.cocoon := by
  unfold updPart; (repeat' split) <;> rfl
@[simp] theorem updPart_mgmt (n : Nat) (f : Part → Part) (s : State) : (updPart n f s).mgmt = s.mgmt := by
  unfold updPart; (repeat' split) <;> rfl
@[simp] theorem updPart_free (n : Nat) (f : Part → Part) (s : State) : (updPart n f s).free = s.free := by
  unfold updPart; (repeat' split) <;> rfl

/-! ### updDesc -/

@[simp] theorem updDesc_pending (m : Nat) (f : Desc → Desc) (s : State) : (updDesc m f s).pending = s.pending := by
  unfold updDesc; (repeat' split) <;> rfl
@[simp] theorem updDesc_nv (m : Nat) (f : Desc → Desc) (s : State) : (updDesc m f s).nv = s.nv := by
  unfold updDesc; (repeat' split) <;> rfl
@[simp] theorem updDesc_boot (m : Nat) (f : Desc → Desc) (s : State) : (updDesc m f s).boot = s.boot := by
  unfold updDesc; (repeat' split) <;> rfl
@[simp] theorem updDesc_tb (m : Nat) (f : Desc → Desc) (s : State) : (updDesc m f s).tb = s.tb := by
  unfold updDesc; (repeat' split) <;> rfl
@[simp] theorem updDesc_regs (m : Nat) (f : Desc → Desc) (s : State) : (updDesc m f s).regs = s.regs := by
  unfold updDesc; (repeat' split) <;> rfl
@[simp] theorem updDesc_accCount (m : Nat) (f : Desc → Desc) (s : State) : (updDesc m f s).accCount = s.accCount := by
  unfold updDesc; (repeat' split) <;> rfl
@[simp] theorem updDesc_accOffset (m : Nat) (f : Desc → Desc) (s : State) : (updDesc m f s).accOffset = s.accOffset := by
  unfold updDesc; (repeat' split) <;> rfl
@[simp] theorem updDesc_ev (m : Nat) (f : Desc → Desc) (s : State) : (updDesc m f s).ev = s.ev := by
  unfold updDesc; (repeat' split) <;> rfl
@[simp] theorem updDesc_mem (m : Nat) (f : Desc → Desc) (s : State) : (updDesc m f s).mem = s.mem := by
  unfold updDesc; (repeat' split) <;> rfl
@[simp] theorem updDesc_pages (m : Nat) (f : Desc → Desc) (s : State) : (updDesc m f s).pages = s.pages := by
  unfold updDesc; (repeat' split) <;> rfl
@[simp] theorem updDesc_mdbs (m : Nat) (f : Desc → Desc) (s : State) : (updDesc m f s).mdbs = s.mdbs := by
  unfold updDesc; (repeat' split) <;> rfl
@[simp] theorem updDesc_refs (m : Nat) (f : Desc → Desc) (s : State) : (updDesc m f s).refs = s.refs := by
  unfold updDesc; (repeat' split) <;> rfl
@[simp] theorem updDesc_staging (m : Nat) (f : Desc → Desc) (s : State) : (updDesc m f s).staging = s.staging := by
  unfold updDesc; (repeat' split) <;> rfl
@[simp] theorem updDesc_accSets (m : Nat) (f : Desc → Desc) (s : State) : (updDesc m f s).accSets = s.accSets := by
  unfold updDesc; (repeat' split) <;> rfl
@[simp] theorem updDesc_dir (m : Nat) (f : Desc → Desc) (s : State) : (updDesc m f s).dir = s.dir := by
  unfold updDesc; (repeat' split) <;> rfl
@[simp] theorem updDesc_parts (m : Nat) (f : Desc → Desc) (s : State) : (updDesc m f s).parts = s.parts := by
  unfold updDesc; (repeat' split) <;> rfl
@[simp] theorem updDesc_pastParts (m : Nat) (f : Desc → Desc) (s : State) : (updDesc m f s).pastParts = s.pastParts := by
  unfold updDesc; (repeat' split) <;> rfl
@[simp] theorem updDesc_fab (m : Nat) (f : Desc → Desc) (s : State) : (updDesc m f s).fab = s.fab := by
  unfold updDesc; (repeat' split) <;> rfl
@[simp] theorem updDesc_fronds (m : Nat) (f : Desc → Desc) (s : State) : (updDesc m f s).fronds = s.fronds := by
  unfold updDesc; (repeat' split) <;> rfl
@[simp] theorem updDesc_epochs (m : Nat) (f : Desc → Desc) (s : State) : (updDesc m f s).epochs = s.epochs := by
  unfold updDesc; (repeat' split) <;> rfl
@[simp] theorem updDesc_sched (m : Nat) (f : Desc → Desc) (s : State) : (updDesc m f s).sched = s.sched := by
  unfold updDesc; (repeat' split) <;> rfl
@[simp] theorem updDesc_health (m : Nat) (f : Desc → Desc) (s : State) : (updDesc m f s).health = s.health := by
  unfold updDesc; (repeat' split) <;> rfl
@[simp] theorem updDesc_bist (m : Nat) (f : Desc → Desc) (s : State) : (updDesc m f s).bist = s.bist := by
  unfold updDesc; (repeat' split) <;> rfl
@[simp] theorem updDesc_power (m : Nat) (f : Desc → Desc) (s : State) : (updDesc m f s).power = s.power := by
  unfold updDesc; (repeat' split) <;> rfl
@[simp] theorem updDesc_host (m : Nat) (f : Desc → Desc) (s : State) : (updDesc m f s).host = s.host := by
  unfold updDesc; (repeat' split) <;> rfl
@[simp] theorem updDesc_cocoon (m : Nat) (f : Desc → Desc) (s : State) : (updDesc m f s).cocoon = s.cocoon := by
  unfold updDesc; (repeat' split) <;> rfl
@[simp] theorem updDesc_mgmt (m : Nat) (f : Desc → Desc) (s : State) : (updDesc m f s).mgmt = s.mgmt := by
  unfold updDesc; (repeat' split) <;> rfl
@[simp] theorem updDesc_free (m : Nat) (f : Desc → Desc) (s : State) : (updDesc m f s).free = s.free := by
  unfold updDesc; (repeat' split) <;> rfl

/-! ### updPc -/

@[simp] theorem updPc_pending (g : Nat) (f : PcCtl → PcCtl) (s : State) : (updPc g f s).pending = s.pending := rfl
@[simp] theorem updPc_nv (g : Nat) (f : PcCtl → PcCtl) (s : State) : (updPc g f s).nv = s.nv := rfl
@[simp] theorem updPc_boot (g : Nat) (f : PcCtl → PcCtl) (s : State) : (updPc g f s).boot = s.boot := rfl
@[simp] theorem updPc_tb (g : Nat) (f : PcCtl → PcCtl) (s : State) : (updPc g f s).tb = s.tb := rfl
@[simp] theorem updPc_regs (g : Nat) (f : PcCtl → PcCtl) (s : State) : (updPc g f s).regs = s.regs := rfl
@[simp] theorem updPc_accCount (g : Nat) (f : PcCtl → PcCtl) (s : State) : (updPc g f s).accCount = s.accCount := rfl
@[simp] theorem updPc_accOffset (g : Nat) (f : PcCtl → PcCtl) (s : State) : (updPc g f s).accOffset = s.accOffset := rfl
@[simp] theorem updPc_ev (g : Nat) (f : PcCtl → PcCtl) (s : State) : (updPc g f s).ev = s.ev := rfl
@[simp] theorem updPc_pages (g : Nat) (f : PcCtl → PcCtl) (s : State) : (updPc g f s).pages = s.pages := rfl
@[simp] theorem updPc_mdbs (g : Nat) (f : PcCtl → PcCtl) (s : State) : (updPc g f s).mdbs = s.mdbs := rfl
@[simp] theorem updPc_descs (g : Nat) (f : PcCtl → PcCtl) (s : State) : (updPc g f s).descs = s.descs := rfl
@[simp] theorem updPc_refs (g : Nat) (f : PcCtl → PcCtl) (s : State) : (updPc g f s).refs = s.refs := rfl
@[simp] theorem updPc_staging (g : Nat) (f : PcCtl → PcCtl) (s : State) : (updPc g f s).staging = s.staging := rfl
@[simp] theorem updPc_accSets (g : Nat) (f : PcCtl → PcCtl) (s : State) : (updPc g f s).accSets = s.accSets := rfl
@[simp] theorem updPc_dir (g : Nat) (f : PcCtl → PcCtl) (s : State) : (updPc g f s).dir = s.dir := rfl
@[simp] theorem updPc_parts (g : Nat) (f : PcCtl → PcCtl) (s : State) : (updPc g f s).parts = s.parts := rfl
@[simp] theorem updPc_pastParts (g : Nat) (f : PcCtl → PcCtl) (s : State) : (updPc g f s).pastParts = s.pastParts := rfl
@[simp] theorem updPc_fab (g : Nat) (f : PcCtl → PcCtl) (s : State) : (updPc g f s).fab = s.fab := rfl
@[simp] theorem updPc_fronds (g : Nat) (f : PcCtl → PcCtl) (s : State) : (updPc g f s).fronds = s.fronds := rfl
@[simp] theorem updPc_epochs (g : Nat) (f : PcCtl → PcCtl) (s : State) : (updPc g f s).epochs = s.epochs := rfl
@[simp] theorem updPc_sched (g : Nat) (f : PcCtl → PcCtl) (s : State) : (updPc g f s).sched = s.sched := rfl
@[simp] theorem updPc_health (g : Nat) (f : PcCtl → PcCtl) (s : State) : (updPc g f s).health = s.health := rfl
@[simp] theorem updPc_bist (g : Nat) (f : PcCtl → PcCtl) (s : State) : (updPc g f s).bist = s.bist := rfl
@[simp] theorem updPc_power (g : Nat) (f : PcCtl → PcCtl) (s : State) : (updPc g f s).power = s.power := rfl
@[simp] theorem updPc_host (g : Nat) (f : PcCtl → PcCtl) (s : State) : (updPc g f s).host = s.host := rfl
@[simp] theorem updPc_cocoon (g : Nat) (f : PcCtl → PcCtl) (s : State) : (updPc g f s).cocoon = s.cocoon := rfl
@[simp] theorem updPc_mgmt (g : Nat) (f : PcCtl → PcCtl) (s : State) : (updPc g f s).mgmt = s.mgmt := rfl
@[simp] theorem updPc_free (g : Nat) (f : PcCtl → PcCtl) (s : State) : (updPc g f s).free = s.free := rfl

/-! ### updMemDie -/

@[simp] theorem updMemDie_pending (d : Nat) (f : MemDie → MemDie) (s : State) : (updMemDie d f s).pending = s.pending := rfl
@[simp] theorem updMemDie_nv (d : Nat) (f : MemDie → MemDie) (s : State) : (updMemDie d f s).nv = s.nv := rfl
@[simp] theorem updMemDie_boot (d : Nat) (f : MemDie → MemDie) (s : State) : (updMemDie d f s).boot = s.boot := rfl
@[simp] theorem updMemDie_tb (d : Nat) (f : MemDie → MemDie) (s : State) : (updMemDie d f s).tb = s.tb := rfl
@[simp] theorem updMemDie_regs (d : Nat) (f : MemDie → MemDie) (s : State) : (updMemDie d f s).regs = s.regs := rfl
@[simp] theorem updMemDie_accCount (d : Nat) (f : MemDie → MemDie) (s : State) : (updMemDie d f s).accCount = s.accCount := rfl
@[simp] theorem updMemDie_accOffset (d : Nat) (f : MemDie → MemDie) (s : State) : (updMemDie d f s).accOffset = s.accOffset := rfl
@[simp] theorem updMemDie_ev (d : Nat) (f : MemDie → MemDie) (s : State) : (updMemDie d f s).ev = s.ev := rfl
@[simp] theorem updMemDie_pages (d : Nat) (f : MemDie → MemDie) (s : State) : (updMemDie d f s).pages = s.pages := rfl
@[simp] theorem updMemDie_mdbs (d : Nat) (f : MemDie → MemDie) (s : State) : (updMemDie d f s).mdbs = s.mdbs := rfl
@[simp] theorem updMemDie_descs (d : Nat) (f : MemDie → MemDie) (s : State) : (updMemDie d f s).descs = s.descs := rfl
@[simp] theorem updMemDie_refs (d : Nat) (f : MemDie → MemDie) (s : State) : (updMemDie d f s).refs = s.refs := rfl
@[simp] theorem updMemDie_staging (d : Nat) (f : MemDie → MemDie) (s : State) : (updMemDie d f s).staging = s.staging := rfl
@[simp] theorem updMemDie_accSets (d : Nat) (f : MemDie → MemDie) (s : State) : (updMemDie d f s).accSets = s.accSets := rfl
@[simp] theorem updMemDie_dir (d : Nat) (f : MemDie → MemDie) (s : State) : (updMemDie d f s).dir = s.dir := rfl
@[simp] theorem updMemDie_parts (d : Nat) (f : MemDie → MemDie) (s : State) : (updMemDie d f s).parts = s.parts := rfl
@[simp] theorem updMemDie_pastParts (d : Nat) (f : MemDie → MemDie) (s : State) : (updMemDie d f s).pastParts = s.pastParts := rfl
@[simp] theorem updMemDie_fab (d : Nat) (f : MemDie → MemDie) (s : State) : (updMemDie d f s).fab = s.fab := rfl
@[simp] theorem updMemDie_fronds (d : Nat) (f : MemDie → MemDie) (s : State) : (updMemDie d f s).fronds = s.fronds := rfl
@[simp] theorem updMemDie_epochs (d : Nat) (f : MemDie → MemDie) (s : State) : (updMemDie d f s).epochs = s.epochs := rfl
@[simp] theorem updMemDie_sched (d : Nat) (f : MemDie → MemDie) (s : State) : (updMemDie d f s).sched = s.sched := rfl
@[simp] theorem updMemDie_health (d : Nat) (f : MemDie → MemDie) (s : State) : (updMemDie d f s).health = s.health := rfl
@[simp] theorem updMemDie_bist (d : Nat) (f : MemDie → MemDie) (s : State) : (updMemDie d f s).bist = s.bist := rfl
@[simp] theorem updMemDie_power (d : Nat) (f : MemDie → MemDie) (s : State) : (updMemDie d f s).power = s.power := rfl
@[simp] theorem updMemDie_host (d : Nat) (f : MemDie → MemDie) (s : State) : (updMemDie d f s).host = s.host := rfl
@[simp] theorem updMemDie_cocoon (d : Nat) (f : MemDie → MemDie) (s : State) : (updMemDie d f s).cocoon = s.cocoon := rfl
@[simp] theorem updMemDie_mgmt (d : Nat) (f : MemDie → MemDie) (s : State) : (updMemDie d f s).mgmt = s.mgmt := rfl
@[simp] theorem updMemDie_free (d : Nat) (f : MemDie → MemDie) (s : State) : (updMemDie d f s).free = s.free := rfl

/-! ### dirPut -/

@[simp] theorem dirPut_pending (a : Nat) (e : DirEntry) (s : State) : (dirPut a e s).pending = s.pending := rfl
@[simp] theorem dirPut_nv (a : Nat) (e : DirEntry) (s : State) : (dirPut a e s).nv = s.nv := rfl
@[simp] theorem dirPut_boot (a : Nat) (e : DirEntry) (s : State) : (dirPut a e s).boot = s.boot := rfl
@[simp] theorem dirPut_tb (a : Nat) (e : DirEntry) (s : State) : (dirPut a e s).tb = s.tb := rfl
@[simp] theorem dirPut_regs (a : Nat) (e : DirEntry) (s : State) : (dirPut a e s).regs = s.regs := rfl
@[simp] theorem dirPut_accCount (a : Nat) (e : DirEntry) (s : State) : (dirPut a e s).accCount = s.accCount := rfl
@[simp] theorem dirPut_accOffset (a : Nat) (e : DirEntry) (s : State) : (dirPut a e s).accOffset = s.accOffset := rfl
@[simp] theorem dirPut_ev (a : Nat) (e : DirEntry) (s : State) : (dirPut a e s).ev = s.ev := rfl
@[simp] theorem dirPut_mem (a : Nat) (e : DirEntry) (s : State) : (dirPut a e s).mem = s.mem := rfl
@[simp] theorem dirPut_pages (a : Nat) (e : DirEntry) (s : State) : (dirPut a e s).pages = s.pages := rfl
@[simp] theorem dirPut_mdbs (a : Nat) (e : DirEntry) (s : State) : (dirPut a e s).mdbs = s.mdbs := rfl
@[simp] theorem dirPut_descs (a : Nat) (e : DirEntry) (s : State) : (dirPut a e s).descs = s.descs := rfl
@[simp] theorem dirPut_refs (a : Nat) (e : DirEntry) (s : State) : (dirPut a e s).refs = s.refs := rfl
@[simp] theorem dirPut_staging (a : Nat) (e : DirEntry) (s : State) : (dirPut a e s).staging = s.staging := rfl
@[simp] theorem dirPut_accSets (a : Nat) (e : DirEntry) (s : State) : (dirPut a e s).accSets = s.accSets := rfl
@[simp] theorem dirPut_parts (a : Nat) (e : DirEntry) (s : State) : (dirPut a e s).parts = s.parts := rfl
@[simp] theorem dirPut_pastParts (a : Nat) (e : DirEntry) (s : State) : (dirPut a e s).pastParts = s.pastParts := rfl
@[simp] theorem dirPut_fab (a : Nat) (e : DirEntry) (s : State) : (dirPut a e s).fab = s.fab := rfl
@[simp] theorem dirPut_fronds (a : Nat) (e : DirEntry) (s : State) : (dirPut a e s).fronds = s.fronds := rfl
@[simp] theorem dirPut_epochs (a : Nat) (e : DirEntry) (s : State) : (dirPut a e s).epochs = s.epochs := rfl
@[simp] theorem dirPut_sched (a : Nat) (e : DirEntry) (s : State) : (dirPut a e s).sched = s.sched := rfl
@[simp] theorem dirPut_health (a : Nat) (e : DirEntry) (s : State) : (dirPut a e s).health = s.health := rfl
@[simp] theorem dirPut_bist (a : Nat) (e : DirEntry) (s : State) : (dirPut a e s).bist = s.bist := rfl
@[simp] theorem dirPut_power (a : Nat) (e : DirEntry) (s : State) : (dirPut a e s).power = s.power := rfl
@[simp] theorem dirPut_host (a : Nat) (e : DirEntry) (s : State) : (dirPut a e s).host = s.host := rfl
@[simp] theorem dirPut_cocoon (a : Nat) (e : DirEntry) (s : State) : (dirPut a e s).cocoon = s.cocoon := rfl
@[simp] theorem dirPut_mgmt (a : Nat) (e : DirEntry) (s : State) : (dirPut a e s).mgmt = s.mgmt := rfl
@[simp] theorem dirPut_free (a : Nat) (e : DirEntry) (s : State) : (dirPut a e s).free = s.free := rfl

/-! ### dirDelete -/

@[simp] theorem dirDelete_pending (a : Nat) (s : State) : (dirDelete a s).pending = s.pending := rfl
@[simp] theorem dirDelete_nv (a : Nat) (s : State) : (dirDelete a s).nv = s.nv := rfl
@[simp] theorem dirDelete_boot (a : Nat) (s : State) : (dirDelete a s).boot = s.boot := rfl
@[simp] theorem dirDelete_tb (a : Nat) (s : State) : (dirDelete a s).tb = s.tb := rfl
@[simp] theorem dirDelete_regs (a : Nat) (s : State) : (dirDelete a s).regs = s.regs := rfl
@[simp] theorem dirDelete_accCount (a : Nat) (s : State) : (dirDelete a s).accCount = s.accCount := rfl
@[simp] theorem dirDelete_accOffset (a : Nat) (s : State) : (dirDelete a s).accOffset = s.accOffset := rfl
@[simp] theorem dirDelete_ev (a : Nat) (s : State) : (dirDelete a s).ev = s.ev := rfl
@[simp] theorem dirDelete_mem (a : Nat) (s : State) : (dirDelete a s).mem = s.mem := rfl
@[simp] theorem dirDelete_pages (a : Nat) (s : State) : (dirDelete a s).pages = s.pages := rfl
@[simp] theorem dirDelete_mdbs (a : Nat) (s : State) : (dirDelete a s).mdbs = s.mdbs := rfl
@[simp] theorem dirDelete_descs (a : Nat) (s : State) : (dirDelete a s).descs = s.descs := rfl
@[simp] theorem dirDelete_refs (a : Nat) (s : State) : (dirDelete a s).refs = s.refs := rfl
@[simp] theorem dirDelete_staging (a : Nat) (s : State) : (dirDelete a s).staging = s.staging := rfl
@[simp] theorem dirDelete_accSets (a : Nat) (s : State) : (dirDelete a s).accSets = s.accSets := rfl
@[simp] theorem dirDelete_parts (a : Nat) (s : State) : (dirDelete a s).parts = s.parts := rfl
@[simp] theorem dirDelete_pastParts (a : Nat) (s : State) : (dirDelete a s).pastParts = s.pastParts := rfl
@[simp] theorem dirDelete_fab (a : Nat) (s : State) : (dirDelete a s).fab = s.fab := rfl
@[simp] theorem dirDelete_fronds (a : Nat) (s : State) : (dirDelete a s).fronds = s.fronds := rfl
@[simp] theorem dirDelete_epochs (a : Nat) (s : State) : (dirDelete a s).epochs = s.epochs := rfl
@[simp] theorem dirDelete_sched (a : Nat) (s : State) : (dirDelete a s).sched = s.sched := rfl
@[simp] theorem dirDelete_health (a : Nat) (s : State) : (dirDelete a s).health = s.health := rfl
@[simp] theorem dirDelete_bist (a : Nat) (s : State) : (dirDelete a s).bist = s.bist := rfl
@[simp] theorem dirDelete_power (a : Nat) (s : State) : (dirDelete a s).power = s.power := rfl
@[simp] theorem dirDelete_host (a : Nat) (s : State) : (dirDelete a s).host = s.host := rfl
@[simp] theorem dirDelete_cocoon (a : Nat) (s : State) : (dirDelete a s).cocoon = s.cocoon := rfl
@[simp] theorem dirDelete_mgmt (a : Nat) (s : State) : (dirDelete a s).mgmt = s.mgmt := rfl
@[simp] theorem dirDelete_free (a : Nat) (s : State) : (dirDelete a s).free = s.free := rfl

/-! ### updDirDie -/

@[simp] theorem updDirDie_pending (d : Nat) (f : DirDie → DirDie) (s : State) : (updDirDie d f s).pending = s.pending := by
  unfold updDirDie; (repeat' split) <;> rfl
@[simp] theorem updDirDie_nv (d : Nat) (f : DirDie → DirDie) (s : State) : (updDirDie d f s).nv = s.nv := by
  unfold updDirDie; (repeat' split) <;> rfl
@[simp] theorem updDirDie_boot (d : Nat) (f : DirDie → DirDie) (s : State) : (updDirDie d f s).boot = s.boot := by
  unfold updDirDie; (repeat' split) <;> rfl
@[simp] theorem updDirDie_tb (d : Nat) (f : DirDie → DirDie) (s : State) : (updDirDie d f s).tb = s.tb := by
  unfold updDirDie; (repeat' split) <;> rfl
@[simp] theorem updDirDie_regs (d : Nat) (f : DirDie → DirDie) (s : State) : (updDirDie d f s).regs = s.regs := by
  unfold updDirDie; (repeat' split) <;> rfl
@[simp] theorem updDirDie_accCount (d : Nat) (f : DirDie → DirDie) (s : State) : (updDirDie d f s).accCount = s.accCount := by
  unfold updDirDie; (repeat' split) <;> rfl
@[simp] theorem updDirDie_accOffset (d : Nat) (f : DirDie → DirDie) (s : State) : (updDirDie d f s).accOffset = s.accOffset := by
  unfold updDirDie; (repeat' split) <;> rfl
@[simp] theorem updDirDie_ev (d : Nat) (f : DirDie → DirDie) (s : State) : (updDirDie d f s).ev = s.ev := by
  unfold updDirDie; (repeat' split) <;> rfl
@[simp] theorem updDirDie_mem (d : Nat) (f : DirDie → DirDie) (s : State) : (updDirDie d f s).mem = s.mem := by
  unfold updDirDie; (repeat' split) <;> rfl
@[simp] theorem updDirDie_pages (d : Nat) (f : DirDie → DirDie) (s : State) : (updDirDie d f s).pages = s.pages := by
  unfold updDirDie; (repeat' split) <;> rfl
@[simp] theorem updDirDie_mdbs (d : Nat) (f : DirDie → DirDie) (s : State) : (updDirDie d f s).mdbs = s.mdbs := by
  unfold updDirDie; (repeat' split) <;> rfl
@[simp] theorem updDirDie_descs (d : Nat) (f : DirDie → DirDie) (s : State) : (updDirDie d f s).descs = s.descs := by
  unfold updDirDie; (repeat' split) <;> rfl
@[simp] theorem updDirDie_refs (d : Nat) (f : DirDie → DirDie) (s : State) : (updDirDie d f s).refs = s.refs := by
  unfold updDirDie; (repeat' split) <;> rfl
@[simp] theorem updDirDie_staging (d : Nat) (f : DirDie → DirDie) (s : State) : (updDirDie d f s).staging = s.staging := by
  unfold updDirDie; (repeat' split) <;> rfl
@[simp] theorem updDirDie_accSets (d : Nat) (f : DirDie → DirDie) (s : State) : (updDirDie d f s).accSets = s.accSets := by
  unfold updDirDie; (repeat' split) <;> rfl
@[simp] theorem updDirDie_parts (d : Nat) (f : DirDie → DirDie) (s : State) : (updDirDie d f s).parts = s.parts := by
  unfold updDirDie; (repeat' split) <;> rfl
@[simp] theorem updDirDie_pastParts (d : Nat) (f : DirDie → DirDie) (s : State) : (updDirDie d f s).pastParts = s.pastParts := by
  unfold updDirDie; (repeat' split) <;> rfl
@[simp] theorem updDirDie_fab (d : Nat) (f : DirDie → DirDie) (s : State) : (updDirDie d f s).fab = s.fab := by
  unfold updDirDie; (repeat' split) <;> rfl
@[simp] theorem updDirDie_fronds (d : Nat) (f : DirDie → DirDie) (s : State) : (updDirDie d f s).fronds = s.fronds := by
  unfold updDirDie; (repeat' split) <;> rfl
@[simp] theorem updDirDie_epochs (d : Nat) (f : DirDie → DirDie) (s : State) : (updDirDie d f s).epochs = s.epochs := by
  unfold updDirDie; (repeat' split) <;> rfl
@[simp] theorem updDirDie_sched (d : Nat) (f : DirDie → DirDie) (s : State) : (updDirDie d f s).sched = s.sched := by
  unfold updDirDie; (repeat' split) <;> rfl
@[simp] theorem updDirDie_health (d : Nat) (f : DirDie → DirDie) (s : State) : (updDirDie d f s).health = s.health := by
  unfold updDirDie; (repeat' split) <;> rfl
@[simp] theorem updDirDie_bist (d : Nat) (f : DirDie → DirDie) (s : State) : (updDirDie d f s).bist = s.bist := by
  unfold updDirDie; (repeat' split) <;> rfl
@[simp] theorem updDirDie_power (d : Nat) (f : DirDie → DirDie) (s : State) : (updDirDie d f s).power = s.power := by
  unfold updDirDie; (repeat' split) <;> rfl
@[simp] theorem updDirDie_host (d : Nat) (f : DirDie → DirDie) (s : State) : (updDirDie d f s).host = s.host := by
  unfold updDirDie; (repeat' split) <;> rfl
@[simp] theorem updDirDie_cocoon (d : Nat) (f : DirDie → DirDie) (s : State) : (updDirDie d f s).cocoon = s.cocoon := by
  unfold updDirDie; (repeat' split) <;> rfl
@[simp] theorem updDirDie_mgmt (d : Nat) (f : DirDie → DirDie) (s : State) : (updDirDie d f s).mgmt = s.mgmt := by
  unfold updDirDie; (repeat' split) <;> rfl
@[simp] theorem updDirDie_free (d : Nat) (f : DirDie → DirDie) (s : State) : (updDirDie d f s).free = s.free := by
  unfold updDirDie; (repeat' split) <;> rfl

/-! ### setConn -/

@[simp] theorem setConn_pending (i : Nat) (c : Conn) (s : State) : (setConn i c s).pending = s.pending := rfl
@[simp] theorem setConn_nv (i : Nat) (c : Conn) (s : State) : (setConn i c s).nv = s.nv := rfl
@[simp] theorem setConn_boot (i : Nat) (c : Conn) (s : State) : (setConn i c s).boot = s.boot := rfl
@[simp] theorem setConn_tb (i : Nat) (c : Conn) (s : State) : (setConn i c s).tb = s.tb := rfl
@[simp] theorem setConn_regs (i : Nat) (c : Conn) (s : State) : (setConn i c s).regs = s.regs := rfl
@[simp] theorem setConn_accCount (i : Nat) (c : Conn) (s : State) : (setConn i c s).accCount = s.accCount := rfl
@[simp] theorem setConn_accOffset (i : Nat) (c : Conn) (s : State) : (setConn i c s).accOffset = s.accOffset := rfl
@[simp] theorem setConn_ev (i : Nat) (c : Conn) (s : State) : (setConn i c s).ev = s.ev := rfl
@[simp] theorem setConn_mem (i : Nat) (c : Conn) (s : State) : (setConn i c s).mem = s.mem := rfl
@[simp] theorem setConn_pages (i : Nat) (c : Conn) (s : State) : (setConn i c s).pages = s.pages := rfl
@[simp] theorem setConn_mdbs (i : Nat) (c : Conn) (s : State) : (setConn i c s).mdbs = s.mdbs := rfl
@[simp] theorem setConn_descs (i : Nat) (c : Conn) (s : State) : (setConn i c s).descs = s.descs := rfl
@[simp] theorem setConn_refs (i : Nat) (c : Conn) (s : State) : (setConn i c s).refs = s.refs := rfl
@[simp] theorem setConn_staging (i : Nat) (c : Conn) (s : State) : (setConn i c s).staging = s.staging := rfl
@[simp] theorem setConn_accSets (i : Nat) (c : Conn) (s : State) : (setConn i c s).accSets = s.accSets := rfl
@[simp] theorem setConn_dir (i : Nat) (c : Conn) (s : State) : (setConn i c s).dir = s.dir := rfl
@[simp] theorem setConn_parts (i : Nat) (c : Conn) (s : State) : (setConn i c s).parts = s.parts := rfl
@[simp] theorem setConn_pastParts (i : Nat) (c : Conn) (s : State) : (setConn i c s).pastParts = s.pastParts := rfl
@[simp] theorem setConn_fronds (i : Nat) (c : Conn) (s : State) : (setConn i c s).fronds = s.fronds := rfl
@[simp] theorem setConn_epochs (i : Nat) (c : Conn) (s : State) : (setConn i c s).epochs = s.epochs := rfl
@[simp] theorem setConn_sched (i : Nat) (c : Conn) (s : State) : (setConn i c s).sched = s.sched := rfl
@[simp] theorem setConn_health (i : Nat) (c : Conn) (s : State) : (setConn i c s).health = s.health := rfl
@[simp] theorem setConn_bist (i : Nat) (c : Conn) (s : State) : (setConn i c s).bist = s.bist := rfl
@[simp] theorem setConn_power (i : Nat) (c : Conn) (s : State) : (setConn i c s).power = s.power := rfl
@[simp] theorem setConn_host (i : Nat) (c : Conn) (s : State) : (setConn i c s).host = s.host := rfl
@[simp] theorem setConn_cocoon (i : Nat) (c : Conn) (s : State) : (setConn i c s).cocoon = s.cocoon := rfl
@[simp] theorem setConn_mgmt (i : Nat) (c : Conn) (s : State) : (setConn i c s).mgmt = s.mgmt := rfl
@[simp] theorem setConn_free (i : Nat) (c : Conn) (s : State) : (setConn i c s).free = s.free := rfl

/-! ### updConn -/

@[simp] theorem updConn_pending (i : Nat) (f : Conn → Conn) (s : State) : (updConn i f s).pending = s.pending := by
  unfold updConn; (repeat' split) <;> rfl
@[simp] theorem updConn_nv (i : Nat) (f : Conn → Conn) (s : State) : (updConn i f s).nv = s.nv := by
  unfold updConn; (repeat' split) <;> rfl
@[simp] theorem updConn_boot (i : Nat) (f : Conn → Conn) (s : State) : (updConn i f s).boot = s.boot := by
  unfold updConn; (repeat' split) <;> rfl
@[simp] theorem updConn_tb (i : Nat) (f : Conn → Conn) (s : State) : (updConn i f s).tb = s.tb := by
  unfold updConn; (repeat' split) <;> rfl
@[simp] theorem updConn_regs (i : Nat) (f : Conn → Conn) (s : State) : (updConn i f s).regs = s.regs := by
  unfold updConn; (repeat' split) <;> rfl
@[simp] theorem updConn_accCount (i : Nat) (f : Conn → Conn) (s : State) : (updConn i f s).accCount = s.accCount := by
  unfold updConn; (repeat' split) <;> rfl
@[simp] theorem updConn_accOffset (i : Nat) (f : Conn → Conn) (s : State) : (updConn i f s).accOffset = s.accOffset := by
  unfold updConn; (repeat' split) <;> rfl
@[simp] theorem updConn_ev (i : Nat) (f : Conn → Conn) (s : State) : (updConn i f s).ev = s.ev := by
  unfold updConn; (repeat' split) <;> rfl
@[simp] theorem updConn_mem (i : Nat) (f : Conn → Conn) (s : State) : (updConn i f s).mem = s.mem := by
  unfold updConn; (repeat' split) <;> rfl
@[simp] theorem updConn_pages (i : Nat) (f : Conn → Conn) (s : State) : (updConn i f s).pages = s.pages := by
  unfold updConn; (repeat' split) <;> rfl
@[simp] theorem updConn_mdbs (i : Nat) (f : Conn → Conn) (s : State) : (updConn i f s).mdbs = s.mdbs := by
  unfold updConn; (repeat' split) <;> rfl
@[simp] theorem updConn_descs (i : Nat) (f : Conn → Conn) (s : State) : (updConn i f s).descs = s.descs := by
  unfold updConn; (repeat' split) <;> rfl
@[simp] theorem updConn_refs (i : Nat) (f : Conn → Conn) (s : State) : (updConn i f s).refs = s.refs := by
  unfold updConn; (repeat' split) <;> rfl
@[simp] theorem updConn_staging (i : Nat) (f : Conn → Conn) (s : State) : (updConn i f s).staging = s.staging := by
  unfold updConn; (repeat' split) <;> rfl
@[simp] theorem updConn_accSets (i : Nat) (f : Conn → Conn) (s : State) : (updConn i f s).accSets = s.accSets := by
  unfold updConn; (repeat' split) <;> rfl
@[simp] theorem updConn_dir (i : Nat) (f : Conn → Conn) (s : State) : (updConn i f s).dir = s.dir := by
  unfold updConn; (repeat' split) <;> rfl
@[simp] theorem updConn_parts (i : Nat) (f : Conn → Conn) (s : State) : (updConn i f s).parts = s.parts := by
  unfold updConn; (repeat' split) <;> rfl
@[simp] theorem updConn_pastParts (i : Nat) (f : Conn → Conn) (s : State) : (updConn i f s).pastParts = s.pastParts := by
  unfold updConn; (repeat' split) <;> rfl
@[simp] theorem updConn_fronds (i : Nat) (f : Conn → Conn) (s : State) : (updConn i f s).fronds = s.fronds := by
  unfold updConn; (repeat' split) <;> rfl
@[simp] theorem updConn_epochs (i : Nat) (f : Conn → Conn) (s : State) : (updConn i f s).epochs = s.epochs := by
  unfold updConn; (repeat' split) <;> rfl
@[simp] theorem updConn_sched (i : Nat) (f : Conn → Conn) (s : State) : (updConn i f s).sched = s.sched := by
  unfold updConn; (repeat' split) <;> rfl
@[simp] theorem updConn_health (i : Nat) (f : Conn → Conn) (s : State) : (updConn i f s).health = s.health := by
  unfold updConn; (repeat' split) <;> rfl
@[simp] theorem updConn_bist (i : Nat) (f : Conn → Conn) (s : State) : (updConn i f s).bist = s.bist := by
  unfold updConn; (repeat' split) <;> rfl
@[simp] theorem updConn_power (i : Nat) (f : Conn → Conn) (s : State) : (updConn i f s).power = s.power := by
  unfold updConn; (repeat' split) <;> rfl
@[simp] theorem updConn_host (i : Nat) (f : Conn → Conn) (s : State) : (updConn i f s).host = s.host := by
  unfold updConn; (repeat' split) <;> rfl
@[simp] theorem updConn_cocoon (i : Nat) (f : Conn → Conn) (s : State) : (updConn i f s).cocoon = s.cocoon := by
  unfold updConn; (repeat' split) <;> rfl
@[simp] theorem updConn_mgmt (i : Nat) (f : Conn → Conn) (s : State) : (updConn i f s).mgmt = s.mgmt := by
  unfold updConn; (repeat' split) <;> rfl
@[simp] theorem updConn_free (i : Nat) (f : Conn → Conn) (s : State) : (updConn i f s).free = s.free := by
  unfold updConn; (repeat' split) <;> rfl

/-! ### updNetDie -/

@[simp] theorem updNetDie_pending (d : Nat) (f : NetDie → NetDie) (s : State) : (updNetDie d f s).pending = s.pending := rfl
@[simp] theorem updNetDie_nv (d : Nat) (f : NetDie → NetDie) (s : State) : (updNetDie d f s).nv = s.nv := rfl
@[simp] theorem updNetDie_boot (d : Nat) (f : NetDie → NetDie) (s : State) : (updNetDie d f s).boot = s.boot := rfl
@[simp] theorem updNetDie_tb (d : Nat) (f : NetDie → NetDie) (s : State) : (updNetDie d f s).tb = s.tb := rfl
@[simp] theorem updNetDie_regs (d : Nat) (f : NetDie → NetDie) (s : State) : (updNetDie d f s).regs = s.regs := rfl
@[simp] theorem updNetDie_accCount (d : Nat) (f : NetDie → NetDie) (s : State) : (updNetDie d f s).accCount = s.accCount := rfl
@[simp] theorem updNetDie_accOffset (d : Nat) (f : NetDie → NetDie) (s : State) : (updNetDie d f s).accOffset = s.accOffset := rfl
@[simp] theorem updNetDie_ev (d : Nat) (f : NetDie → NetDie) (s : State) : (updNetDie d f s).ev = s.ev := rfl
@[simp] theorem updNetDie_mem (d : Nat) (f : NetDie → NetDie) (s : State) : (updNetDie d f s).mem = s.mem := rfl
@[simp] theorem updNetDie_pages (d : Nat) (f : NetDie → NetDie) (s : State) : (updNetDie d f s).pages = s.pages := rfl
@[simp] theorem updNetDie_mdbs (d : Nat) (f : NetDie → NetDie) (s : State) : (updNetDie d f s).mdbs = s.mdbs := rfl
@[simp] theorem updNetDie_descs (d : Nat) (f : NetDie → NetDie) (s : State) : (updNetDie d f s).descs = s.descs := rfl
@[simp] theorem updNetDie_refs (d : Nat) (f : NetDie → NetDie) (s : State) : (updNetDie d f s).refs = s.refs := rfl
@[simp] theorem updNetDie_staging (d : Nat) (f : NetDie → NetDie) (s : State) : (updNetDie d f s).staging = s.staging := rfl
@[simp] theorem updNetDie_accSets (d : Nat) (f : NetDie → NetDie) (s : State) : (updNetDie d f s).accSets = s.accSets := rfl
@[simp] theorem updNetDie_dir (d : Nat) (f : NetDie → NetDie) (s : State) : (updNetDie d f s).dir = s.dir := rfl
@[simp] theorem updNetDie_parts (d : Nat) (f : NetDie → NetDie) (s : State) : (updNetDie d f s).parts = s.parts := rfl
@[simp] theorem updNetDie_pastParts (d : Nat) (f : NetDie → NetDie) (s : State) : (updNetDie d f s).pastParts = s.pastParts := rfl
@[simp] theorem updNetDie_fronds (d : Nat) (f : NetDie → NetDie) (s : State) : (updNetDie d f s).fronds = s.fronds := rfl
@[simp] theorem updNetDie_epochs (d : Nat) (f : NetDie → NetDie) (s : State) : (updNetDie d f s).epochs = s.epochs := rfl
@[simp] theorem updNetDie_sched (d : Nat) (f : NetDie → NetDie) (s : State) : (updNetDie d f s).sched = s.sched := rfl
@[simp] theorem updNetDie_health (d : Nat) (f : NetDie → NetDie) (s : State) : (updNetDie d f s).health = s.health := rfl
@[simp] theorem updNetDie_bist (d : Nat) (f : NetDie → NetDie) (s : State) : (updNetDie d f s).bist = s.bist := rfl
@[simp] theorem updNetDie_power (d : Nat) (f : NetDie → NetDie) (s : State) : (updNetDie d f s).power = s.power := rfl
@[simp] theorem updNetDie_host (d : Nat) (f : NetDie → NetDie) (s : State) : (updNetDie d f s).host = s.host := rfl
@[simp] theorem updNetDie_cocoon (d : Nat) (f : NetDie → NetDie) (s : State) : (updNetDie d f s).cocoon = s.cocoon := rfl
@[simp] theorem updNetDie_mgmt (d : Nat) (f : NetDie → NetDie) (s : State) : (updNetDie d f s).mgmt = s.mgmt := rfl
@[simp] theorem updNetDie_free (d : Nat) (f : NetDie → NetDie) (s : State) : (updNetDie d f s).free = s.free := rfl

/-! ### updPort -/

@[simp] theorem updPort_pending (p : Nat) (f : Port → Port) (s : State) : (updPort p f s).pending = s.pending := rfl
@[simp] theorem updPort_nv (p : Nat) (f : Port → Port) (s : State) : (updPort p f s).nv = s.nv := rfl
@[simp] theorem updPort_boot (p : Nat) (f : Port → Port) (s : State) : (updPort p f s).boot = s.boot := rfl
@[simp] theorem updPort_tb (p : Nat) (f : Port → Port) (s : State) : (updPort p f s).tb = s.tb := rfl
@[simp] theorem updPort_regs (p : Nat) (f : Port → Port) (s : State) : (updPort p f s).regs = s.regs := rfl
@[simp] theorem updPort_accCount (p : Nat) (f : Port → Port) (s : State) : (updPort p f s).accCount = s.accCount := rfl
@[simp] theorem updPort_accOffset (p : Nat) (f : Port → Port) (s : State) : (updPort p f s).accOffset = s.accOffset := rfl
@[simp] theorem updPort_ev (p : Nat) (f : Port → Port) (s : State) : (updPort p f s).ev = s.ev := rfl
@[simp] theorem updPort_mem (p : Nat) (f : Port → Port) (s : State) : (updPort p f s).mem = s.mem := rfl
@[simp] theorem updPort_pages (p : Nat) (f : Port → Port) (s : State) : (updPort p f s).pages = s.pages := rfl
@[simp] theorem updPort_mdbs (p : Nat) (f : Port → Port) (s : State) : (updPort p f s).mdbs = s.mdbs := rfl
@[simp] theorem updPort_descs (p : Nat) (f : Port → Port) (s : State) : (updPort p f s).descs = s.descs := rfl
@[simp] theorem updPort_refs (p : Nat) (f : Port → Port) (s : State) : (updPort p f s).refs = s.refs := rfl
@[simp] theorem updPort_staging (p : Nat) (f : Port → Port) (s : State) : (updPort p f s).staging = s.staging := rfl
@[simp] theorem updPort_accSets (p : Nat) (f : Port → Port) (s : State) : (updPort p f s).accSets = s.accSets := rfl
@[simp] theorem updPort_dir (p : Nat) (f : Port → Port) (s : State) : (updPort p f s).dir = s.dir := rfl
@[simp] theorem updPort_parts (p : Nat) (f : Port → Port) (s : State) : (updPort p f s).parts = s.parts := rfl
@[simp] theorem updPort_pastParts (p : Nat) (f : Port → Port) (s : State) : (updPort p f s).pastParts = s.pastParts := rfl
@[simp] theorem updPort_fronds (p : Nat) (f : Port → Port) (s : State) : (updPort p f s).fronds = s.fronds := rfl
@[simp] theorem updPort_epochs (p : Nat) (f : Port → Port) (s : State) : (updPort p f s).epochs = s.epochs := rfl
@[simp] theorem updPort_sched (p : Nat) (f : Port → Port) (s : State) : (updPort p f s).sched = s.sched := rfl
@[simp] theorem updPort_health (p : Nat) (f : Port → Port) (s : State) : (updPort p f s).health = s.health := rfl
@[simp] theorem updPort_bist (p : Nat) (f : Port → Port) (s : State) : (updPort p f s).bist = s.bist := rfl
@[simp] theorem updPort_power (p : Nat) (f : Port → Port) (s : State) : (updPort p f s).power = s.power := rfl
@[simp] theorem updPort_host (p : Nat) (f : Port → Port) (s : State) : (updPort p f s).host = s.host := rfl
@[simp] theorem updPort_cocoon (p : Nat) (f : Port → Port) (s : State) : (updPort p f s).cocoon = s.cocoon := rfl
@[simp] theorem updPort_mgmt (p : Nat) (f : Port → Port) (s : State) : (updPort p f s).mgmt = s.mgmt := rfl
@[simp] theorem updPort_free (p : Nat) (f : Port → Port) (s : State) : (updPort p f s).free = s.free := rfl

/-! ### setBuf -/

@[simp] theorem setBuf_pending (i : Nat) (b : Buf) (s : State) : (setBuf i b s).pending = s.pending := rfl
@[simp] theorem setBuf_nv (i : Nat) (b : Buf) (s : State) : (setBuf i b s).nv = s.nv := rfl
@[simp] theorem setBuf_boot (i : Nat) (b : Buf) (s : State) : (setBuf i b s).boot = s.boot := rfl
@[simp] theorem setBuf_tb (i : Nat) (b : Buf) (s : State) : (setBuf i b s).tb = s.tb := rfl
@[simp] theorem setBuf_regs (i : Nat) (b : Buf) (s : State) : (setBuf i b s).regs = s.regs := rfl
@[simp] theorem setBuf_accCount (i : Nat) (b : Buf) (s : State) : (setBuf i b s).accCount = s.accCount := rfl
@[simp] theorem setBuf_accOffset (i : Nat) (b : Buf) (s : State) : (setBuf i b s).accOffset = s.accOffset := rfl
@[simp] theorem setBuf_ev (i : Nat) (b : Buf) (s : State) : (setBuf i b s).ev = s.ev := rfl
@[simp] theorem setBuf_mem (i : Nat) (b : Buf) (s : State) : (setBuf i b s).mem = s.mem := rfl
@[simp] theorem setBuf_pages (i : Nat) (b : Buf) (s : State) : (setBuf i b s).pages = s.pages := rfl
@[simp] theorem setBuf_mdbs (i : Nat) (b : Buf) (s : State) : (setBuf i b s).mdbs = s.mdbs := rfl
@[simp] theorem setBuf_descs (i : Nat) (b : Buf) (s : State) : (setBuf i b s).descs = s.descs := rfl
@[simp] theorem setBuf_refs (i : Nat) (b : Buf) (s : State) : (setBuf i b s).refs = s.refs := rfl
@[simp] theorem setBuf_staging (i : Nat) (b : Buf) (s : State) : (setBuf i b s).staging = s.staging := rfl
@[simp] theorem setBuf_accSets (i : Nat) (b : Buf) (s : State) : (setBuf i b s).accSets = s.accSets := rfl
@[simp] theorem setBuf_dir (i : Nat) (b : Buf) (s : State) : (setBuf i b s).dir = s.dir := rfl
@[simp] theorem setBuf_parts (i : Nat) (b : Buf) (s : State) : (setBuf i b s).parts = s.parts := rfl
@[simp] theorem setBuf_pastParts (i : Nat) (b : Buf) (s : State) : (setBuf i b s).pastParts = s.pastParts := rfl
@[simp] theorem setBuf_fronds (i : Nat) (b : Buf) (s : State) : (setBuf i b s).fronds = s.fronds := rfl
@[simp] theorem setBuf_epochs (i : Nat) (b : Buf) (s : State) : (setBuf i b s).epochs = s.epochs := rfl
@[simp] theorem setBuf_sched (i : Nat) (b : Buf) (s : State) : (setBuf i b s).sched = s.sched := rfl
@[simp] theorem setBuf_health (i : Nat) (b : Buf) (s : State) : (setBuf i b s).health = s.health := rfl
@[simp] theorem setBuf_bist (i : Nat) (b : Buf) (s : State) : (setBuf i b s).bist = s.bist := rfl
@[simp] theorem setBuf_power (i : Nat) (b : Buf) (s : State) : (setBuf i b s).power = s.power := rfl
@[simp] theorem setBuf_host (i : Nat) (b : Buf) (s : State) : (setBuf i b s).host = s.host := rfl
@[simp] theorem setBuf_cocoon (i : Nat) (b : Buf) (s : State) : (setBuf i b s).cocoon = s.cocoon := rfl
@[simp] theorem setBuf_mgmt (i : Nat) (b : Buf) (s : State) : (setBuf i b s).mgmt = s.mgmt := rfl
@[simp] theorem setBuf_free (i : Nat) (b : Buf) (s : State) : (setBuf i b s).free = s.free := rfl

/-! ### setEgress -/

@[simp] theorem setEgress_pending (k : Nat) (l : List OutPkt) (s : State) : (setEgress k l s).pending = s.pending := rfl
@[simp] theorem setEgress_nv (k : Nat) (l : List OutPkt) (s : State) : (setEgress k l s).nv = s.nv := rfl
@[simp] theorem setEgress_boot (k : Nat) (l : List OutPkt) (s : State) : (setEgress k l s).boot = s.boot := rfl
@[simp] theorem setEgress_tb (k : Nat) (l : List OutPkt) (s : State) : (setEgress k l s).tb = s.tb := rfl
@[simp] theorem setEgress_regs (k : Nat) (l : List OutPkt) (s : State) : (setEgress k l s).regs = s.regs := rfl
@[simp] theorem setEgress_accCount (k : Nat) (l : List OutPkt) (s : State) : (setEgress k l s).accCount = s.accCount := rfl
@[simp] theorem setEgress_accOffset (k : Nat) (l : List OutPkt) (s : State) : (setEgress k l s).accOffset = s.accOffset := rfl
@[simp] theorem setEgress_ev (k : Nat) (l : List OutPkt) (s : State) : (setEgress k l s).ev = s.ev := rfl
@[simp] theorem setEgress_mem (k : Nat) (l : List OutPkt) (s : State) : (setEgress k l s).mem = s.mem := rfl
@[simp] theorem setEgress_pages (k : Nat) (l : List OutPkt) (s : State) : (setEgress k l s).pages = s.pages := rfl
@[simp] theorem setEgress_mdbs (k : Nat) (l : List OutPkt) (s : State) : (setEgress k l s).mdbs = s.mdbs := rfl
@[simp] theorem setEgress_descs (k : Nat) (l : List OutPkt) (s : State) : (setEgress k l s).descs = s.descs := rfl
@[simp] theorem setEgress_refs (k : Nat) (l : List OutPkt) (s : State) : (setEgress k l s).refs = s.refs := rfl
@[simp] theorem setEgress_staging (k : Nat) (l : List OutPkt) (s : State) : (setEgress k l s).staging = s.staging := rfl
@[simp] theorem setEgress_accSets (k : Nat) (l : List OutPkt) (s : State) : (setEgress k l s).accSets = s.accSets := rfl
@[simp] theorem setEgress_dir (k : Nat) (l : List OutPkt) (s : State) : (setEgress k l s).dir = s.dir := rfl
@[simp] theorem setEgress_parts (k : Nat) (l : List OutPkt) (s : State) : (setEgress k l s).parts = s.parts := rfl
@[simp] theorem setEgress_pastParts (k : Nat) (l : List OutPkt) (s : State) : (setEgress k l s).pastParts = s.pastParts := rfl
@[simp] theorem setEgress_fronds (k : Nat) (l : List OutPkt) (s : State) : (setEgress k l s).fronds = s.fronds := rfl
@[simp] theorem setEgress_epochs (k : Nat) (l : List OutPkt) (s : State) : (setEgress k l s).epochs = s.epochs := rfl
@[simp] theorem setEgress_sched (k : Nat) (l : List OutPkt) (s : State) : (setEgress k l s).sched = s.sched := rfl
@[simp] theorem setEgress_health (k : Nat) (l : List OutPkt) (s : State) : (setEgress k l s).health = s.health := rfl
@[simp] theorem setEgress_bist (k : Nat) (l : List OutPkt) (s : State) : (setEgress k l s).bist = s.bist := rfl
@[simp] theorem setEgress_power (k : Nat) (l : List OutPkt) (s : State) : (setEgress k l s).power = s.power := rfl
@[simp] theorem setEgress_host (k : Nat) (l : List OutPkt) (s : State) : (setEgress k l s).host = s.host := rfl
@[simp] theorem setEgress_cocoon (k : Nat) (l : List OutPkt) (s : State) : (setEgress k l s).cocoon = s.cocoon := rfl
@[simp] theorem setEgress_mgmt (k : Nat) (l : List OutPkt) (s : State) : (setEgress k l s).mgmt = s.mgmt := rfl
@[simp] theorem setEgress_free (k : Nat) (l : List OutPkt) (s : State) : (setEgress k l s).free = s.free := rfl

/-! ### setPolicer -/

@[simp] theorem setPolicer_pending (i : Nat) (b : Bucket) (s : State) : (setPolicer i b s).pending = s.pending := rfl
@[simp] theorem setPolicer_nv (i : Nat) (b : Bucket) (s : State) : (setPolicer i b s).nv = s.nv := rfl
@[simp] theorem setPolicer_boot (i : Nat) (b : Bucket) (s : State) : (setPolicer i b s).boot = s.boot := rfl
@[simp] theorem setPolicer_tb (i : Nat) (b : Bucket) (s : State) : (setPolicer i b s).tb = s.tb := rfl
@[simp] theorem setPolicer_regs (i : Nat) (b : Bucket) (s : State) : (setPolicer i b s).regs = s.regs := rfl
@[simp] theorem setPolicer_accCount (i : Nat) (b : Bucket) (s : State) : (setPolicer i b s).accCount = s.accCount := rfl
@[simp] theorem setPolicer_accOffset (i : Nat) (b : Bucket) (s : State) : (setPolicer i b s).accOffset = s.accOffset := rfl
@[simp] theorem setPolicer_ev (i : Nat) (b : Bucket) (s : State) : (setPolicer i b s).ev = s.ev := rfl
@[simp] theorem setPolicer_mem (i : Nat) (b : Bucket) (s : State) : (setPolicer i b s).mem = s.mem := rfl
@[simp] theorem setPolicer_pages (i : Nat) (b : Bucket) (s : State) : (setPolicer i b s).pages = s.pages := rfl
@[simp] theorem setPolicer_mdbs (i : Nat) (b : Bucket) (s : State) : (setPolicer i b s).mdbs = s.mdbs := rfl
@[simp] theorem setPolicer_descs (i : Nat) (b : Bucket) (s : State) : (setPolicer i b s).descs = s.descs := rfl
@[simp] theorem setPolicer_refs (i : Nat) (b : Bucket) (s : State) : (setPolicer i b s).refs = s.refs := rfl
@[simp] theorem setPolicer_staging (i : Nat) (b : Bucket) (s : State) : (setPolicer i b s).staging = s.staging := rfl
@[simp] theorem setPolicer_accSets (i : Nat) (b : Bucket) (s : State) : (setPolicer i b s).accSets = s.accSets := rfl
@[simp] theorem setPolicer_dir (i : Nat) (b : Bucket) (s : State) : (setPolicer i b s).dir = s.dir := rfl
@[simp] theorem setPolicer_parts (i : Nat) (b : Bucket) (s : State) : (setPolicer i b s).parts = s.parts := rfl
@[simp] theorem setPolicer_pastParts (i : Nat) (b : Bucket) (s : State) : (setPolicer i b s).pastParts = s.pastParts := rfl
@[simp] theorem setPolicer_fronds (i : Nat) (b : Bucket) (s : State) : (setPolicer i b s).fronds = s.fronds := rfl
@[simp] theorem setPolicer_epochs (i : Nat) (b : Bucket) (s : State) : (setPolicer i b s).epochs = s.epochs := rfl
@[simp] theorem setPolicer_sched (i : Nat) (b : Bucket) (s : State) : (setPolicer i b s).sched = s.sched := rfl
@[simp] theorem setPolicer_health (i : Nat) (b : Bucket) (s : State) : (setPolicer i b s).health = s.health := rfl
@[simp] theorem setPolicer_bist (i : Nat) (b : Bucket) (s : State) : (setPolicer i b s).bist = s.bist := rfl
@[simp] theorem setPolicer_power (i : Nat) (b : Bucket) (s : State) : (setPolicer i b s).power = s.power := rfl
@[simp] theorem setPolicer_host (i : Nat) (b : Bucket) (s : State) : (setPolicer i b s).host = s.host := rfl
@[simp] theorem setPolicer_cocoon (i : Nat) (b : Bucket) (s : State) : (setPolicer i b s).cocoon = s.cocoon := rfl
@[simp] theorem setPolicer_mgmt (i : Nat) (b : Bucket) (s : State) : (setPolicer i b s).mgmt = s.mgmt := rfl
@[simp] theorem setPolicer_free (i : Nat) (b : Bucket) (s : State) : (setPolicer i b s).free = s.free := rfl

/-! ### setShaper -/

@[simp] theorem setShaper_pending (i : Nat) (b : Bucket) (s : State) : (setShaper i b s).pending = s.pending := rfl
@[simp] theorem setShaper_nv (i : Nat) (b : Bucket) (s : State) : (setShaper i b s).nv = s.nv := rfl
@[simp] theorem setShaper_boot (i : Nat) (b : Bucket) (s : State) : (setShaper i b s).boot = s.boot := rfl
@[simp] theorem setShaper_tb (i : Nat) (b : Bucket) (s : State) : (setShaper i b s).tb = s.tb := rfl
@[simp] theorem setShaper_regs (i : Nat) (b : Bucket) (s : State) : (setShaper i b s).regs = s.regs := rfl
@[simp] theorem setShaper_accCount (i : Nat) (b : Bucket) (s : State) : (setShaper i b s).accCount = s.accCount := rfl
@[simp] theorem setShaper_accOffset (i : Nat) (b : Bucket) (s : State) : (setShaper i b s).accOffset = s.accOffset := rfl
@[simp] theorem setShaper_ev (i : Nat) (b : Bucket) (s : State) : (setShaper i b s).ev = s.ev := rfl
@[simp] theorem setShaper_mem (i : Nat) (b : Bucket) (s : State) : (setShaper i b s).mem = s.mem := rfl
@[simp] theorem setShaper_pages (i : Nat) (b : Bucket) (s : State) : (setShaper i b s).pages = s.pages := rfl
@[simp] theorem setShaper_mdbs (i : Nat) (b : Bucket) (s : State) : (setShaper i b s).mdbs = s.mdbs := rfl
@[simp] theorem setShaper_descs (i : Nat) (b : Bucket) (s : State) : (setShaper i b s).descs = s.descs := rfl
@[simp] theorem setShaper_refs (i : Nat) (b : Bucket) (s : State) : (setShaper i b s).refs = s.refs := rfl
@[simp] theorem setShaper_staging (i : Nat) (b : Bucket) (s : State) : (setShaper i b s).staging = s.staging := rfl
@[simp] theorem setShaper_accSets (i : Nat) (b : Bucket) (s : State) : (setShaper i b s).accSets = s.accSets := rfl
@[simp] theorem setShaper_dir (i : Nat) (b : Bucket) (s : State) : (setShaper i b s).dir = s.dir := rfl
@[simp] theorem setShaper_parts (i : Nat) (b : Bucket) (s : State) : (setShaper i b s).parts = s.parts := rfl
@[simp] theorem setShaper_pastParts (i : Nat) (b : Bucket) (s : State) : (setShaper i b s).pastParts = s.pastParts := rfl
@[simp] theorem setShaper_fronds (i : Nat) (b : Bucket) (s : State) : (setShaper i b s).fronds = s.fronds := rfl
@[simp] theorem setShaper_epochs (i : Nat) (b : Bucket) (s : State) : (setShaper i b s).epochs = s.epochs := rfl
@[simp] theorem setShaper_sched (i : Nat) (b : Bucket) (s : State) : (setShaper i b s).sched = s.sched := rfl
@[simp] theorem setShaper_health (i : Nat) (b : Bucket) (s : State) : (setShaper i b s).health = s.health := rfl
@[simp] theorem setShaper_bist (i : Nat) (b : Bucket) (s : State) : (setShaper i b s).bist = s.bist := rfl
@[simp] theorem setShaper_power (i : Nat) (b : Bucket) (s : State) : (setShaper i b s).power = s.power := rfl
@[simp] theorem setShaper_host (i : Nat) (b : Bucket) (s : State) : (setShaper i b s).host = s.host := rfl
@[simp] theorem setShaper_cocoon (i : Nat) (b : Bucket) (s : State) : (setShaper i b s).cocoon = s.cocoon := rfl
@[simp] theorem setShaper_mgmt (i : Nat) (b : Bucket) (s : State) : (setShaper i b s).mgmt = s.mgmt := rfl
@[simp] theorem setShaper_free (i : Nat) (b : Bucket) (s : State) : (setShaper i b s).free = s.free := rfl

/-! ### setRing -/

@[simp] theorem setRing_pending (n r : Nat) (x : Ring) (s : State) : (setRing n r x s).pending = s.pending := rfl
@[simp] theorem setRing_nv (n r : Nat) (x : Ring) (s : State) : (setRing n r x s).nv = s.nv := rfl
@[simp] theorem setRing_boot (n r : Nat) (x : Ring) (s : State) : (setRing n r x s).boot = s.boot := rfl
@[simp] theorem setRing_tb (n r : Nat) (x : Ring) (s : State) : (setRing n r x s).tb = s.tb := rfl
@[simp] theorem setRing_regs (n r : Nat) (x : Ring) (s : State) : (setRing n r x s).regs = s.regs := rfl
@[simp] theorem setRing_accCount (n r : Nat) (x : Ring) (s : State) : (setRing n r x s).accCount = s.accCount := rfl
@[simp] theorem setRing_accOffset (n r : Nat) (x : Ring) (s : State) : (setRing n r x s).accOffset = s.accOffset := rfl
@[simp] theorem setRing_ev (n r : Nat) (x : Ring) (s : State) : (setRing n r x s).ev = s.ev := rfl
@[simp] theorem setRing_mem (n r : Nat) (x : Ring) (s : State) : (setRing n r x s).mem = s.mem := rfl
@[simp] theorem setRing_pages (n r : Nat) (x : Ring) (s : State) : (setRing n r x s).pages = s.pages := rfl
@[simp] theorem setRing_mdbs (n r : Nat) (x : Ring) (s : State) : (setRing n r x s).mdbs = s.mdbs := rfl
@[simp] theorem setRing_descs (n r : Nat) (x : Ring) (s : State) : (setRing n r x s).descs = s.descs := rfl
@[simp] theorem setRing_refs (n r : Nat) (x : Ring) (s : State) : (setRing n r x s).refs = s.refs := rfl
@[simp] theorem setRing_staging (n r : Nat) (x : Ring) (s : State) : (setRing n r x s).staging = s.staging := rfl
@[simp] theorem setRing_accSets (n r : Nat) (x : Ring) (s : State) : (setRing n r x s).accSets = s.accSets := rfl
@[simp] theorem setRing_dir (n r : Nat) (x : Ring) (s : State) : (setRing n r x s).dir = s.dir := rfl
@[simp] theorem setRing_parts (n r : Nat) (x : Ring) (s : State) : (setRing n r x s).parts = s.parts := rfl
@[simp] theorem setRing_pastParts (n r : Nat) (x : Ring) (s : State) : (setRing n r x s).pastParts = s.pastParts := rfl
@[simp] theorem setRing_fab (n r : Nat) (x : Ring) (s : State) : (setRing n r x s).fab = s.fab := rfl
@[simp] theorem setRing_fronds (n r : Nat) (x : Ring) (s : State) : (setRing n r x s).fronds = s.fronds := rfl
@[simp] theorem setRing_epochs (n r : Nat) (x : Ring) (s : State) : (setRing n r x s).epochs = s.epochs := rfl
@[simp] theorem setRing_sched (n r : Nat) (x : Ring) (s : State) : (setRing n r x s).sched = s.sched := rfl
@[simp] theorem setRing_health (n r : Nat) (x : Ring) (s : State) : (setRing n r x s).health = s.health := rfl
@[simp] theorem setRing_bist (n r : Nat) (x : Ring) (s : State) : (setRing n r x s).bist = s.bist := rfl
@[simp] theorem setRing_power (n r : Nat) (x : Ring) (s : State) : (setRing n r x s).power = s.power := rfl
@[simp] theorem setRing_cocoon (n r : Nat) (x : Ring) (s : State) : (setRing n r x s).cocoon = s.cocoon := rfl
@[simp] theorem setRing_mgmt (n r : Nat) (x : Ring) (s : State) : (setRing n r x s).mgmt = s.mgmt := rfl
@[simp] theorem setRing_free (n r : Nat) (x : Ring) (s : State) : (setRing n r x s).free = s.free := rfl

/-! ### updCore -/

@[simp] theorem updCore_pending (c : Nat) (f : Core → Core) (s : State) : (updCore c f s).pending = s.pending := rfl
@[simp] theorem updCore_nv (c : Nat) (f : Core → Core) (s : State) : (updCore c f s).nv = s.nv := rfl
@[simp] theorem updCore_boot (c : Nat) (f : Core → Core) (s : State) : (updCore c f s).boot = s.boot := rfl
@[simp] theorem updCore_tb (c : Nat) (f : Core → Core) (s : State) : (updCore c f s).tb = s.tb := rfl
@[simp] theorem updCore_regs (c : Nat) (f : Core → Core) (s : State) : (updCore c f s).regs = s.regs := rfl
@[simp] theorem updCore_accCount (c : Nat) (f : Core → Core) (s : State) : (updCore c f s).accCount = s.accCount := rfl
@[simp] theorem updCore_accOffset (c : Nat) (f : Core → Core) (s : State) : (updCore c f s).accOffset = s.accOffset := rfl
@[simp] theorem updCore_ev (c : Nat) (f : Core → Core) (s : State) : (updCore c f s).ev = s.ev := rfl
@[simp] theorem updCore_mem (c : Nat) (f : Core → Core) (s : State) : (updCore c f s).mem = s.mem := rfl
@[simp] theorem updCore_pages (c : Nat) (f : Core → Core) (s : State) : (updCore c f s).pages = s.pages := rfl
@[simp] theorem updCore_mdbs (c : Nat) (f : Core → Core) (s : State) : (updCore c f s).mdbs = s.mdbs := rfl
@[simp] theorem updCore_descs (c : Nat) (f : Core → Core) (s : State) : (updCore c f s).descs = s.descs := rfl
@[simp] theorem updCore_refs (c : Nat) (f : Core → Core) (s : State) : (updCore c f s).refs = s.refs := rfl
@[simp] theorem updCore_staging (c : Nat) (f : Core → Core) (s : State) : (updCore c f s).staging = s.staging := rfl
@[simp] theorem updCore_accSets (c : Nat) (f : Core → Core) (s : State) : (updCore c f s).accSets = s.accSets := rfl
@[simp] theorem updCore_dir (c : Nat) (f : Core → Core) (s : State) : (updCore c f s).dir = s.dir := rfl
@[simp] theorem updCore_parts (c : Nat) (f : Core → Core) (s : State) : (updCore c f s).parts = s.parts := rfl
@[simp] theorem updCore_pastParts (c : Nat) (f : Core → Core) (s : State) : (updCore c f s).pastParts = s.pastParts := rfl
@[simp] theorem updCore_fab (c : Nat) (f : Core → Core) (s : State) : (updCore c f s).fab = s.fab := rfl
@[simp] theorem updCore_fronds (c : Nat) (f : Core → Core) (s : State) : (updCore c f s).fronds = s.fronds := rfl
@[simp] theorem updCore_epochs (c : Nat) (f : Core → Core) (s : State) : (updCore c f s).epochs = s.epochs := rfl
@[simp] theorem updCore_health (c : Nat) (f : Core → Core) (s : State) : (updCore c f s).health = s.health := rfl
@[simp] theorem updCore_bist (c : Nat) (f : Core → Core) (s : State) : (updCore c f s).bist = s.bist := rfl
@[simp] theorem updCore_power (c : Nat) (f : Core → Core) (s : State) : (updCore c f s).power = s.power := rfl
@[simp] theorem updCore_host (c : Nat) (f : Core → Core) (s : State) : (updCore c f s).host = s.host := rfl
@[simp] theorem updCore_cocoon (c : Nat) (f : Core → Core) (s : State) : (updCore c f s).cocoon = s.cocoon := rfl
@[simp] theorem updCore_mgmt (c : Nat) (f : Core → Core) (s : State) : (updCore c f s).mgmt = s.mgmt := rfl
@[simp] theorem updCore_free (c : Nat) (f : Core → Core) (s : State) : (updCore c f s).free = s.free := rfl

/-! ### updAttDie -/

@[simp] theorem updAttDie_pending (d : Nat) (f : AttDie → AttDie) (s : State) : (updAttDie d f s).pending = s.pending := rfl
@[simp] theorem updAttDie_nv (d : Nat) (f : AttDie → AttDie) (s : State) : (updAttDie d f s).nv = s.nv := rfl
@[simp] theorem updAttDie_boot (d : Nat) (f : AttDie → AttDie) (s : State) : (updAttDie d f s).boot = s.boot := rfl
@[simp] theorem updAttDie_tb (d : Nat) (f : AttDie → AttDie) (s : State) : (updAttDie d f s).tb = s.tb := rfl
@[simp] theorem updAttDie_regs (d : Nat) (f : AttDie → AttDie) (s : State) : (updAttDie d f s).regs = s.regs := rfl
@[simp] theorem updAttDie_accCount (d : Nat) (f : AttDie → AttDie) (s : State) : (updAttDie d f s).accCount = s.accCount := rfl
@[simp] theorem updAttDie_accOffset (d : Nat) (f : AttDie → AttDie) (s : State) : (updAttDie d f s).accOffset = s.accOffset := rfl
@[simp] theorem updAttDie_ev (d : Nat) (f : AttDie → AttDie) (s : State) : (updAttDie d f s).ev = s.ev := rfl
@[simp] theorem updAttDie_mem (d : Nat) (f : AttDie → AttDie) (s : State) : (updAttDie d f s).mem = s.mem := rfl
@[simp] theorem updAttDie_pages (d : Nat) (f : AttDie → AttDie) (s : State) : (updAttDie d f s).pages = s.pages := rfl
@[simp] theorem updAttDie_mdbs (d : Nat) (f : AttDie → AttDie) (s : State) : (updAttDie d f s).mdbs = s.mdbs := rfl
@[simp] theorem updAttDie_descs (d : Nat) (f : AttDie → AttDie) (s : State) : (updAttDie d f s).descs = s.descs := rfl
@[simp] theorem updAttDie_refs (d : Nat) (f : AttDie → AttDie) (s : State) : (updAttDie d f s).refs = s.refs := rfl
@[simp] theorem updAttDie_staging (d : Nat) (f : AttDie → AttDie) (s : State) : (updAttDie d f s).staging = s.staging := rfl
@[simp] theorem updAttDie_accSets (d : Nat) (f : AttDie → AttDie) (s : State) : (updAttDie d f s).accSets = s.accSets := rfl
@[simp] theorem updAttDie_dir (d : Nat) (f : AttDie → AttDie) (s : State) : (updAttDie d f s).dir = s.dir := rfl
@[simp] theorem updAttDie_parts (d : Nat) (f : AttDie → AttDie) (s : State) : (updAttDie d f s).parts = s.parts := rfl
@[simp] theorem updAttDie_pastParts (d : Nat) (f : AttDie → AttDie) (s : State) : (updAttDie d f s).pastParts = s.pastParts := rfl
@[simp] theorem updAttDie_fab (d : Nat) (f : AttDie → AttDie) (s : State) : (updAttDie d f s).fab = s.fab := rfl
@[simp] theorem updAttDie_fronds (d : Nat) (f : AttDie → AttDie) (s : State) : (updAttDie d f s).fronds = s.fronds := rfl
@[simp] theorem updAttDie_epochs (d : Nat) (f : AttDie → AttDie) (s : State) : (updAttDie d f s).epochs = s.epochs := rfl
@[simp] theorem updAttDie_health (d : Nat) (f : AttDie → AttDie) (s : State) : (updAttDie d f s).health = s.health := rfl
@[simp] theorem updAttDie_bist (d : Nat) (f : AttDie → AttDie) (s : State) : (updAttDie d f s).bist = s.bist := rfl
@[simp] theorem updAttDie_power (d : Nat) (f : AttDie → AttDie) (s : State) : (updAttDie d f s).power = s.power := rfl
@[simp] theorem updAttDie_host (d : Nat) (f : AttDie → AttDie) (s : State) : (updAttDie d f s).host = s.host := rfl
@[simp] theorem updAttDie_cocoon (d : Nat) (f : AttDie → AttDie) (s : State) : (updAttDie d f s).cocoon = s.cocoon := rfl
@[simp] theorem updAttDie_mgmt (d : Nat) (f : AttDie → AttDie) (s : State) : (updAttDie d f s).mgmt = s.mgmt := rfl
@[simp] theorem updAttDie_free (d : Nat) (f : AttDie → AttDie) (s : State) : (updAttDie d f s).free = s.free := rfl

/-! ### setJob -/

@[simp] theorem setJob_pending (j : Nat) (x : Job) (s : State) : (setJob j x s).pending = s.pending := rfl
@[simp] theorem setJob_nv (j : Nat) (x : Job) (s : State) : (setJob j x s).nv = s.nv := rfl
@[simp] theorem setJob_boot (j : Nat) (x : Job) (s : State) : (setJob j x s).boot = s.boot := rfl
@[simp] theorem setJob_tb (j : Nat) (x : Job) (s : State) : (setJob j x s).tb = s.tb := rfl
@[simp] theorem setJob_regs (j : Nat) (x : Job) (s : State) : (setJob j x s).regs = s.regs := rfl
@[simp] theorem setJob_accCount (j : Nat) (x : Job) (s : State) : (setJob j x s).accCount = s.accCount := rfl
@[simp] theorem setJob_accOffset (j : Nat) (x : Job) (s : State) : (setJob j x s).accOffset = s.accOffset := rfl
@[simp] theorem setJob_ev (j : Nat) (x : Job) (s : State) : (setJob j x s).ev = s.ev := rfl
@[simp] theorem setJob_mem (j : Nat) (x : Job) (s : State) : (setJob j x s).mem = s.mem := rfl
@[simp] theorem setJob_pages (j : Nat) (x : Job) (s : State) : (setJob j x s).pages = s.pages := rfl
@[simp] theorem setJob_mdbs (j : Nat) (x : Job) (s : State) : (setJob j x s).mdbs = s.mdbs := rfl
@[simp] theorem setJob_descs (j : Nat) (x : Job) (s : State) : (setJob j x s).descs = s.descs := rfl
@[simp] theorem setJob_refs (j : Nat) (x : Job) (s : State) : (setJob j x s).refs = s.refs := rfl
@[simp] theorem setJob_staging (j : Nat) (x : Job) (s : State) : (setJob j x s).staging = s.staging := rfl
@[simp] theorem setJob_accSets (j : Nat) (x : Job) (s : State) : (setJob j x s).accSets = s.accSets := rfl
@[simp] theorem setJob_dir (j : Nat) (x : Job) (s : State) : (setJob j x s).dir = s.dir := rfl
@[simp] theorem setJob_parts (j : Nat) (x : Job) (s : State) : (setJob j x s).parts = s.parts := rfl
@[simp] theorem setJob_pastParts (j : Nat) (x : Job) (s : State) : (setJob j x s).pastParts = s.pastParts := rfl
@[simp] theorem setJob_fab (j : Nat) (x : Job) (s : State) : (setJob j x s).fab = s.fab := rfl
@[simp] theorem setJob_fronds (j : Nat) (x : Job) (s : State) : (setJob j x s).fronds = s.fronds := rfl
@[simp] theorem setJob_epochs (j : Nat) (x : Job) (s : State) : (setJob j x s).epochs = s.epochs := rfl
@[simp] theorem setJob_health (j : Nat) (x : Job) (s : State) : (setJob j x s).health = s.health := rfl
@[simp] theorem setJob_bist (j : Nat) (x : Job) (s : State) : (setJob j x s).bist = s.bist := rfl
@[simp] theorem setJob_power (j : Nat) (x : Job) (s : State) : (setJob j x s).power = s.power := rfl
@[simp] theorem setJob_host (j : Nat) (x : Job) (s : State) : (setJob j x s).host = s.host := rfl
@[simp] theorem setJob_cocoon (j : Nat) (x : Job) (s : State) : (setJob j x s).cocoon = s.cocoon := rfl
@[simp] theorem setJob_mgmt (j : Nat) (x : Job) (s : State) : (setJob j x s).mgmt = s.mgmt := rfl
@[simp] theorem setJob_free (j : Nat) (x : Job) (s : State) : (setJob j x s).free = s.free := rfl

/-! ### updJob -/

@[simp] theorem updJob_pending (j : Nat) (f : Job → Job) (s : State) : (updJob j f s).pending = s.pending := by
  unfold updJob; (repeat' split) <;> rfl
@[simp] theorem updJob_nv (j : Nat) (f : Job → Job) (s : State) : (updJob j f s).nv = s.nv := by
  unfold updJob; (repeat' split) <;> rfl
@[simp] theorem updJob_boot (j : Nat) (f : Job → Job) (s : State) : (updJob j f s).boot = s.boot := by
  unfold updJob; (repeat' split) <;> rfl
@[simp] theorem updJob_tb (j : Nat) (f : Job → Job) (s : State) : (updJob j f s).tb = s.tb := by
  unfold updJob; (repeat' split) <;> rfl
@[simp] theorem updJob_regs (j : Nat) (f : Job → Job) (s : State) : (updJob j f s).regs = s.regs := by
  unfold updJob; (repeat' split) <;> rfl
@[simp] theorem updJob_accCount (j : Nat) (f : Job → Job) (s : State) : (updJob j f s).accCount = s.accCount := by
  unfold updJob; (repeat' split) <;> rfl
@[simp] theorem updJob_accOffset (j : Nat) (f : Job → Job) (s : State) : (updJob j f s).accOffset = s.accOffset := by
  unfold updJob; (repeat' split) <;> rfl
@[simp] theorem updJob_ev (j : Nat) (f : Job → Job) (s : State) : (updJob j f s).ev = s.ev := by
  unfold updJob; (repeat' split) <;> rfl
@[simp] theorem updJob_mem (j : Nat) (f : Job → Job) (s : State) : (updJob j f s).mem = s.mem := by
  unfold updJob; (repeat' split) <;> rfl
@[simp] theorem updJob_pages (j : Nat) (f : Job → Job) (s : State) : (updJob j f s).pages = s.pages := by
  unfold updJob; (repeat' split) <;> rfl
@[simp] theorem updJob_mdbs (j : Nat) (f : Job → Job) (s : State) : (updJob j f s).mdbs = s.mdbs := by
  unfold updJob; (repeat' split) <;> rfl
@[simp] theorem updJob_descs (j : Nat) (f : Job → Job) (s : State) : (updJob j f s).descs = s.descs := by
  unfold updJob; (repeat' split) <;> rfl
@[simp] theorem updJob_refs (j : Nat) (f : Job → Job) (s : State) : (updJob j f s).refs = s.refs := by
  unfold updJob; (repeat' split) <;> rfl
@[simp] theorem updJob_staging (j : Nat) (f : Job → Job) (s : State) : (updJob j f s).staging = s.staging := by
  unfold updJob; (repeat' split) <;> rfl
@[simp] theorem updJob_accSets (j : Nat) (f : Job → Job) (s : State) : (updJob j f s).accSets = s.accSets := by
  unfold updJob; (repeat' split) <;> rfl
@[simp] theorem updJob_dir (j : Nat) (f : Job → Job) (s : State) : (updJob j f s).dir = s.dir := by
  unfold updJob; (repeat' split) <;> rfl
@[simp] theorem updJob_parts (j : Nat) (f : Job → Job) (s : State) : (updJob j f s).parts = s.parts := by
  unfold updJob; (repeat' split) <;> rfl
@[simp] theorem updJob_pastParts (j : Nat) (f : Job → Job) (s : State) : (updJob j f s).pastParts = s.pastParts := by
  unfold updJob; (repeat' split) <;> rfl
@[simp] theorem updJob_fab (j : Nat) (f : Job → Job) (s : State) : (updJob j f s).fab = s.fab := by
  unfold updJob; (repeat' split) <;> rfl
@[simp] theorem updJob_fronds (j : Nat) (f : Job → Job) (s : State) : (updJob j f s).fronds = s.fronds := by
  unfold updJob; (repeat' split) <;> rfl
@[simp] theorem updJob_epochs (j : Nat) (f : Job → Job) (s : State) : (updJob j f s).epochs = s.epochs := by
  unfold updJob; (repeat' split) <;> rfl
@[simp] theorem updJob_health (j : Nat) (f : Job → Job) (s : State) : (updJob j f s).health = s.health := by
  unfold updJob; (repeat' split) <;> rfl
@[simp] theorem updJob_bist (j : Nat) (f : Job → Job) (s : State) : (updJob j f s).bist = s.bist := by
  unfold updJob; (repeat' split) <;> rfl
@[simp] theorem updJob_power (j : Nat) (f : Job → Job) (s : State) : (updJob j f s).power = s.power := by
  unfold updJob; (repeat' split) <;> rfl
@[simp] theorem updJob_host (j : Nat) (f : Job → Job) (s : State) : (updJob j f s).host = s.host := by
  unfold updJob; (repeat' split) <;> rfl
@[simp] theorem updJob_cocoon (j : Nat) (f : Job → Job) (s : State) : (updJob j f s).cocoon = s.cocoon := by
  unfold updJob; (repeat' split) <;> rfl
@[simp] theorem updJob_mgmt (j : Nat) (f : Job → Job) (s : State) : (updJob j f s).mgmt = s.mgmt := by
  unfold updJob; (repeat' split) <;> rfl
@[simp] theorem updJob_free (j : Nat) (f : Job → Job) (s : State) : (updJob j f s).free = s.free := by
  unfold updJob; (repeat' split) <;> rfl

/-! ### updPcHealth -/

@[simp] theorem updPcHealth_pending (g : Nat) (f : PcHealth → PcHealth) (s : State) : (updPcHealth g f s).pending = s.pending := rfl
@[simp] theorem updPcHealth_nv (g : Nat) (f : PcHealth → PcHealth) (s : State) : (updPcHealth g f s).nv = s.nv := rfl
@[simp] theorem updPcHealth_boot (g : Nat) (f : PcHealth → PcHealth) (s : State) : (updPcHealth g f s).boot = s.boot := rfl
@[simp] theorem updPcHealth_tb (g : Nat) (f : PcHealth → PcHealth) (s : State) : (updPcHealth g f s).tb = s.tb := rfl
@[simp] theorem updPcHealth_regs (g : Nat) (f : PcHealth → PcHealth) (s : State) : (updPcHealth g f s).regs = s.regs := rfl
@[simp] theorem updPcHealth_accCount (g : Nat) (f : PcHealth → PcHealth) (s : State) : (updPcHealth g f s).accCount = s.accCount := rfl
@[simp] theorem updPcHealth_accOffset (g : Nat) (f : PcHealth → PcHealth) (s : State) : (updPcHealth g f s).accOffset = s.accOffset := rfl
@[simp] theorem updPcHealth_ev (g : Nat) (f : PcHealth → PcHealth) (s : State) : (updPcHealth g f s).ev = s.ev := rfl
@[simp] theorem updPcHealth_mem (g : Nat) (f : PcHealth → PcHealth) (s : State) : (updPcHealth g f s).mem = s.mem := rfl
@[simp] theorem updPcHealth_pages (g : Nat) (f : PcHealth → PcHealth) (s : State) : (updPcHealth g f s).pages = s.pages := rfl
@[simp] theorem updPcHealth_mdbs (g : Nat) (f : PcHealth → PcHealth) (s : State) : (updPcHealth g f s).mdbs = s.mdbs := rfl
@[simp] theorem updPcHealth_descs (g : Nat) (f : PcHealth → PcHealth) (s : State) : (updPcHealth g f s).descs = s.descs := rfl
@[simp] theorem updPcHealth_refs (g : Nat) (f : PcHealth → PcHealth) (s : State) : (updPcHealth g f s).refs = s.refs := rfl
@[simp] theorem updPcHealth_staging (g : Nat) (f : PcHealth → PcHealth) (s : State) : (updPcHealth g f s).staging = s.staging := rfl
@[simp] theorem updPcHealth_accSets (g : Nat) (f : PcHealth → PcHealth) (s : State) : (updPcHealth g f s).accSets = s.accSets := rfl
@[simp] theorem updPcHealth_dir (g : Nat) (f : PcHealth → PcHealth) (s : State) : (updPcHealth g f s).dir = s.dir := rfl
@[simp] theorem updPcHealth_parts (g : Nat) (f : PcHealth → PcHealth) (s : State) : (updPcHealth g f s).parts = s.parts := rfl
@[simp] theorem updPcHealth_pastParts (g : Nat) (f : PcHealth → PcHealth) (s : State) : (updPcHealth g f s).pastParts = s.pastParts := rfl
@[simp] theorem updPcHealth_fab (g : Nat) (f : PcHealth → PcHealth) (s : State) : (updPcHealth g f s).fab = s.fab := rfl
@[simp] theorem updPcHealth_fronds (g : Nat) (f : PcHealth → PcHealth) (s : State) : (updPcHealth g f s).fronds = s.fronds := rfl
@[simp] theorem updPcHealth_epochs (g : Nat) (f : PcHealth → PcHealth) (s : State) : (updPcHealth g f s).epochs = s.epochs := rfl
@[simp] theorem updPcHealth_sched (g : Nat) (f : PcHealth → PcHealth) (s : State) : (updPcHealth g f s).sched = s.sched := rfl
@[simp] theorem updPcHealth_bist (g : Nat) (f : PcHealth → PcHealth) (s : State) : (updPcHealth g f s).bist = s.bist := rfl
@[simp] theorem updPcHealth_power (g : Nat) (f : PcHealth → PcHealth) (s : State) : (updPcHealth g f s).power = s.power := rfl
@[simp] theorem updPcHealth_host (g : Nat) (f : PcHealth → PcHealth) (s : State) : (updPcHealth g f s).host = s.host := rfl
@[simp] theorem updPcHealth_cocoon (g : Nat) (f : PcHealth → PcHealth) (s : State) : (updPcHealth g f s).cocoon = s.cocoon := rfl
@[simp] theorem updPcHealth_mgmt (g : Nat) (f : PcHealth → PcHealth) (s : State) : (updPcHealth g f s).mgmt = s.mgmt := rfl
@[simp] theorem updPcHealth_free (g : Nat) (f : PcHealth → PcHealth) (s : State) : (updPcHealth g f s).free = s.free := rfl

/-! ### updLane -/

@[simp] theorem updLane_pending (l : Nat) (f : LaneHealth → LaneHealth) (s : State) : (updLane l f s).pending = s.pending := rfl
@[simp] theorem updLane_nv (l : Nat) (f : LaneHealth → LaneHealth) (s : State) : (updLane l f s).nv = s.nv := rfl
@[simp] theorem updLane_boot (l : Nat) (f : LaneHealth → LaneHealth) (s : State) : (updLane l f s).boot = s.boot := rfl
@[simp] theorem updLane_tb (l : Nat) (f : LaneHealth → LaneHealth) (s : State) : (updLane l f s).tb = s.tb := rfl
@[simp] theorem updLane_regs (l : Nat) (f : LaneHealth → LaneHealth) (s : State) : (updLane l f s).regs = s.regs := rfl
@[simp] theorem updLane_accCount (l : Nat) (f : LaneHealth → LaneHealth) (s : State) : (updLane l f s).accCount = s.accCount := rfl
@[simp] theorem updLane_accOffset (l : Nat) (f : LaneHealth → LaneHealth) (s : State) : (updLane l f s).accOffset = s.accOffset := rfl
@[simp] theorem updLane_ev (l : Nat) (f : LaneHealth → LaneHealth) (s : State) : (updLane l f s).ev = s.ev := rfl
@[simp] theorem updLane_mem (l : Nat) (f : LaneHealth → LaneHealth) (s : State) : (updLane l f s).mem = s.mem := rfl
@[simp] theorem updLane_pages (l : Nat) (f : LaneHealth → LaneHealth) (s : State) : (updLane l f s).pages = s.pages := rfl
@[simp] theorem updLane_mdbs (l : Nat) (f : LaneHealth → LaneHealth) (s : State) : (updLane l f s).mdbs = s.mdbs := rfl
@[simp] theorem updLane_descs (l : Nat) (f : LaneHealth → LaneHealth) (s : State) : (updLane l f s).descs = s.descs := rfl
@[simp] theorem updLane_refs (l : Nat) (f : LaneHealth → LaneHealth) (s : State) : (updLane l f s).refs = s.refs := rfl
@[simp] theorem updLane_staging (l : Nat) (f : LaneHealth → LaneHealth) (s : State) : (updLane l f s).staging = s.staging := rfl
@[simp] theorem updLane_accSets (l : Nat) (f : LaneHealth → LaneHealth) (s : State) : (updLane l f s).accSets = s.accSets := rfl
@[simp] theorem updLane_dir (l : Nat) (f : LaneHealth → LaneHealth) (s : State) : (updLane l f s).dir = s.dir := rfl
@[simp] theorem updLane_parts (l : Nat) (f : LaneHealth → LaneHealth) (s : State) : (updLane l f s).parts = s.parts := rfl
@[simp] theorem updLane_pastParts (l : Nat) (f : LaneHealth → LaneHealth) (s : State) : (updLane l f s).pastParts = s.pastParts := rfl
@[simp] theorem updLane_fab (l : Nat) (f : LaneHealth → LaneHealth) (s : State) : (updLane l f s).fab = s.fab := rfl
@[simp] theorem updLane_fronds (l : Nat) (f : LaneHealth → LaneHealth) (s : State) : (updLane l f s).fronds = s.fronds := rfl
@[simp] theorem updLane_epochs (l : Nat) (f : LaneHealth → LaneHealth) (s : State) : (updLane l f s).epochs = s.epochs := rfl
@[simp] theorem updLane_sched (l : Nat) (f : LaneHealth → LaneHealth) (s : State) : (updLane l f s).sched = s.sched := rfl
@[simp] theorem updLane_bist (l : Nat) (f : LaneHealth → LaneHealth) (s : State) : (updLane l f s).bist = s.bist := rfl
@[simp] theorem updLane_power (l : Nat) (f : LaneHealth → LaneHealth) (s : State) : (updLane l f s).power = s.power := rfl
@[simp] theorem updLane_host (l : Nat) (f : LaneHealth → LaneHealth) (s : State) : (updLane l f s).host = s.host := rfl
@[simp] theorem updLane_cocoon (l : Nat) (f : LaneHealth → LaneHealth) (s : State) : (updLane l f s).cocoon = s.cocoon := rfl
@[simp] theorem updLane_mgmt (l : Nat) (f : LaneHealth → LaneHealth) (s : State) : (updLane l f s).mgmt = s.mgmt := rfl
@[simp] theorem updLane_free (l : Nat) (f : LaneHealth → LaneHealth) (s : State) : (updLane l f s).free = s.free := rfl

/-! ### setMarkerPort -/

@[simp] theorem setMarkerPort_pending (p : Nat) (m : MarkerPort) (s : State) : (setMarkerPort p m s).pending = s.pending := rfl
@[simp] theorem setMarkerPort_nv (p : Nat) (m : MarkerPort) (s : State) : (setMarkerPort p m s).nv = s.nv := rfl
@[simp] theorem setMarkerPort_boot (p : Nat) (m : MarkerPort) (s : State) : (setMarkerPort p m s).boot = s.boot := rfl
@[simp] theorem setMarkerPort_regs (p : Nat) (m : MarkerPort) (s : State) : (setMarkerPort p m s).regs = s.regs := rfl
@[simp] theorem setMarkerPort_accCount (p : Nat) (m : MarkerPort) (s : State) : (setMarkerPort p m s).accCount = s.accCount := rfl
@[simp] theorem setMarkerPort_accOffset (p : Nat) (m : MarkerPort) (s : State) : (setMarkerPort p m s).accOffset = s.accOffset := rfl
@[simp] theorem setMarkerPort_ev (p : Nat) (m : MarkerPort) (s : State) : (setMarkerPort p m s).ev = s.ev := rfl
@[simp] theorem setMarkerPort_mem (p : Nat) (m : MarkerPort) (s : State) : (setMarkerPort p m s).mem = s.mem := rfl
@[simp] theorem setMarkerPort_pages (p : Nat) (m : MarkerPort) (s : State) : (setMarkerPort p m s).pages = s.pages := rfl
@[simp] theorem setMarkerPort_mdbs (p : Nat) (m : MarkerPort) (s : State) : (setMarkerPort p m s).mdbs = s.mdbs := rfl
@[simp] theorem setMarkerPort_descs (p : Nat) (m : MarkerPort) (s : State) : (setMarkerPort p m s).descs = s.descs := rfl
@[simp] theorem setMarkerPort_refs (p : Nat) (m : MarkerPort) (s : State) : (setMarkerPort p m s).refs = s.refs := rfl
@[simp] theorem setMarkerPort_staging (p : Nat) (m : MarkerPort) (s : State) : (setMarkerPort p m s).staging = s.staging := rfl
@[simp] theorem setMarkerPort_accSets (p : Nat) (m : MarkerPort) (s : State) : (setMarkerPort p m s).accSets = s.accSets := rfl
@[simp] theorem setMarkerPort_dir (p : Nat) (m : MarkerPort) (s : State) : (setMarkerPort p m s).dir = s.dir := rfl
@[simp] theorem setMarkerPort_parts (p : Nat) (m : MarkerPort) (s : State) : (setMarkerPort p m s).parts = s.parts := rfl
@[simp] theorem setMarkerPort_pastParts (p : Nat) (m : MarkerPort) (s : State) : (setMarkerPort p m s).pastParts = s.pastParts := rfl
@[simp] theorem setMarkerPort_fab (p : Nat) (m : MarkerPort) (s : State) : (setMarkerPort p m s).fab = s.fab := rfl
@[simp] theorem setMarkerPort_fronds (p : Nat) (m : MarkerPort) (s : State) : (setMarkerPort p m s).fronds = s.fronds := rfl
@[simp] theorem setMarkerPort_epochs (p : Nat) (m : MarkerPort) (s : State) : (setMarkerPort p m s).epochs = s.epochs := rfl
@[simp] theorem setMarkerPort_sched (p : Nat) (m : MarkerPort) (s : State) : (setMarkerPort p m s).sched = s.sched := rfl
@[simp] theorem setMarkerPort_health (p : Nat) (m : MarkerPort) (s : State) : (setMarkerPort p m s).health = s.health := rfl
@[simp] theorem setMarkerPort_bist (p : Nat) (m : MarkerPort) (s : State) : (setMarkerPort p m s).bist = s.bist := rfl
@[simp] theorem setMarkerPort_power (p : Nat) (m : MarkerPort) (s : State) : (setMarkerPort p m s).power = s.power := rfl
@[simp] theorem setMarkerPort_host (p : Nat) (m : MarkerPort) (s : State) : (setMarkerPort p m s).host = s.host := rfl
@[simp] theorem setMarkerPort_cocoon (p : Nat) (m : MarkerPort) (s : State) : (setMarkerPort p m s).cocoon = s.cocoon := rfl
@[simp] theorem setMarkerPort_mgmt (p : Nat) (m : MarkerPort) (s : State) : (setMarkerPort p m s).mgmt = s.mgmt := rfl
@[simp] theorem setMarkerPort_free (p : Nat) (m : MarkerPort) (s : State) : (setMarkerPort p m s).free = s.free := rfl

/-! ### setMailbox -/

@[simp] theorem setMailbox_pending (i : Nat) (m : Mailbox) (s : State) : (setMailbox i m s).pending = s.pending := by
  unfold setMailbox; (repeat' split) <;> rfl
@[simp] theorem setMailbox_nv (i : Nat) (m : Mailbox) (s : State) : (setMailbox i m s).nv = s.nv := by
  unfold setMailbox; (repeat' split) <;> rfl
@[simp] theorem setMailbox_boot (i : Nat) (m : Mailbox) (s : State) : (setMailbox i m s).boot = s.boot := by
  unfold setMailbox; (repeat' split) <;> rfl
@[simp] theorem setMailbox_tb (i : Nat) (m : Mailbox) (s : State) : (setMailbox i m s).tb = s.tb := by
  unfold setMailbox; (repeat' split) <;> rfl
@[simp] theorem setMailbox_regs (i : Nat) (m : Mailbox) (s : State) : (setMailbox i m s).regs = s.regs := by
  unfold setMailbox; (repeat' split) <;> rfl
@[simp] theorem setMailbox_accCount (i : Nat) (m : Mailbox) (s : State) : (setMailbox i m s).accCount = s.accCount := by
  unfold setMailbox; (repeat' split) <;> rfl
@[simp] theorem setMailbox_accOffset (i : Nat) (m : Mailbox) (s : State) : (setMailbox i m s).accOffset = s.accOffset := by
  unfold setMailbox; (repeat' split) <;> rfl
@[simp] theorem setMailbox_ev (i : Nat) (m : Mailbox) (s : State) : (setMailbox i m s).ev = s.ev := by
  unfold setMailbox; (repeat' split) <;> rfl
@[simp] theorem setMailbox_mem (i : Nat) (m : Mailbox) (s : State) : (setMailbox i m s).mem = s.mem := by
  unfold setMailbox; (repeat' split) <;> rfl
@[simp] theorem setMailbox_pages (i : Nat) (m : Mailbox) (s : State) : (setMailbox i m s).pages = s.pages := by
  unfold setMailbox; (repeat' split) <;> rfl
@[simp] theorem setMailbox_mdbs (i : Nat) (m : Mailbox) (s : State) : (setMailbox i m s).mdbs = s.mdbs := by
  unfold setMailbox; (repeat' split) <;> rfl
@[simp] theorem setMailbox_descs (i : Nat) (m : Mailbox) (s : State) : (setMailbox i m s).descs = s.descs := by
  unfold setMailbox; (repeat' split) <;> rfl
@[simp] theorem setMailbox_refs (i : Nat) (m : Mailbox) (s : State) : (setMailbox i m s).refs = s.refs := by
  unfold setMailbox; (repeat' split) <;> rfl
@[simp] theorem setMailbox_staging (i : Nat) (m : Mailbox) (s : State) : (setMailbox i m s).staging = s.staging := by
  unfold setMailbox; (repeat' split) <;> rfl
@[simp] theorem setMailbox_accSets (i : Nat) (m : Mailbox) (s : State) : (setMailbox i m s).accSets = s.accSets := by
  unfold setMailbox; (repeat' split) <;> rfl
@[simp] theorem setMailbox_dir (i : Nat) (m : Mailbox) (s : State) : (setMailbox i m s).dir = s.dir := by
  unfold setMailbox; (repeat' split) <;> rfl
@[simp] theorem setMailbox_parts (i : Nat) (m : Mailbox) (s : State) : (setMailbox i m s).parts = s.parts := by
  unfold setMailbox; (repeat' split) <;> rfl
@[simp] theorem setMailbox_pastParts (i : Nat) (m : Mailbox) (s : State) : (setMailbox i m s).pastParts = s.pastParts := by
  unfold setMailbox; (repeat' split) <;> rfl
@[simp] theorem setMailbox_fab (i : Nat) (m : Mailbox) (s : State) : (setMailbox i m s).fab = s.fab := by
  unfold setMailbox; (repeat' split) <;> rfl
@[simp] theorem setMailbox_fronds (i : Nat) (m : Mailbox) (s : State) : (setMailbox i m s).fronds = s.fronds := by
  unfold setMailbox; (repeat' split) <;> rfl
@[simp] theorem setMailbox_epochs (i : Nat) (m : Mailbox) (s : State) : (setMailbox i m s).epochs = s.epochs := by
  unfold setMailbox; (repeat' split) <;> rfl
@[simp] theorem setMailbox_sched (i : Nat) (m : Mailbox) (s : State) : (setMailbox i m s).sched = s.sched := by
  unfold setMailbox; (repeat' split) <;> rfl
@[simp] theorem setMailbox_health (i : Nat) (m : Mailbox) (s : State) : (setMailbox i m s).health = s.health := by
  unfold setMailbox; (repeat' split) <;> rfl
@[simp] theorem setMailbox_bist (i : Nat) (m : Mailbox) (s : State) : (setMailbox i m s).bist = s.bist := by
  unfold setMailbox; (repeat' split) <;> rfl
@[simp] theorem setMailbox_power (i : Nat) (m : Mailbox) (s : State) : (setMailbox i m s).power = s.power := by
  unfold setMailbox; (repeat' split) <;> rfl
@[simp] theorem setMailbox_host (i : Nat) (m : Mailbox) (s : State) : (setMailbox i m s).host = s.host := by
  unfold setMailbox; (repeat' split) <;> rfl
@[simp] theorem setMailbox_mgmt (i : Nat) (m : Mailbox) (s : State) : (setMailbox i m s).mgmt = s.mgmt := by
  unfold setMailbox; (repeat' split) <;> rfl
@[simp] theorem setMailbox_free (i : Nat) (m : Mailbox) (s : State) : (setMailbox i m s).free = s.free := by
  unfold setMailbox; (repeat' split) <;> rfl

/-! ### mailboxReply -/

@[simp] theorem mailboxReply_pending (i : Nat) (bs : List Byte) (s : State) : (mailboxReply i bs s).pending = s.pending := by
  simp [mailboxReply]
@[simp] theorem mailboxReply_nv (i : Nat) (bs : List Byte) (s : State) : (mailboxReply i bs s).nv = s.nv := by
  simp [mailboxReply]
@[simp] theorem mailboxReply_boot (i : Nat) (bs : List Byte) (s : State) : (mailboxReply i bs s).boot = s.boot := by
  simp [mailboxReply]
@[simp] theorem mailboxReply_tb (i : Nat) (bs : List Byte) (s : State) : (mailboxReply i bs s).tb = s.tb := by
  simp [mailboxReply]
@[simp] theorem mailboxReply_regs (i : Nat) (bs : List Byte) (s : State) : (mailboxReply i bs s).regs = s.regs := by
  simp [mailboxReply]
@[simp] theorem mailboxReply_accCount (i : Nat) (bs : List Byte) (s : State) : (mailboxReply i bs s).accCount = s.accCount := by
  simp [mailboxReply]
@[simp] theorem mailboxReply_accOffset (i : Nat) (bs : List Byte) (s : State) : (mailboxReply i bs s).accOffset = s.accOffset := by
  simp [mailboxReply]
@[simp] theorem mailboxReply_ev (i : Nat) (bs : List Byte) (s : State) : (mailboxReply i bs s).ev = s.ev := by
  simp [mailboxReply]
@[simp] theorem mailboxReply_mem (i : Nat) (bs : List Byte) (s : State) : (mailboxReply i bs s).mem = s.mem := by
  simp [mailboxReply]
@[simp] theorem mailboxReply_pages (i : Nat) (bs : List Byte) (s : State) : (mailboxReply i bs s).pages = s.pages := by
  simp [mailboxReply]
@[simp] theorem mailboxReply_mdbs (i : Nat) (bs : List Byte) (s : State) : (mailboxReply i bs s).mdbs = s.mdbs := by
  simp [mailboxReply]
@[simp] theorem mailboxReply_descs (i : Nat) (bs : List Byte) (s : State) : (mailboxReply i bs s).descs = s.descs := by
  simp [mailboxReply]
@[simp] theorem mailboxReply_refs (i : Nat) (bs : List Byte) (s : State) : (mailboxReply i bs s).refs = s.refs := by
  simp [mailboxReply]
@[simp] theorem mailboxReply_staging (i : Nat) (bs : List Byte) (s : State) : (mailboxReply i bs s).staging = s.staging := by
  simp [mailboxReply]
@[simp] theorem mailboxReply_accSets (i : Nat) (bs : List Byte) (s : State) : (mailboxReply i bs s).accSets = s.accSets := by
  simp [mailboxReply]
@[simp] theorem mailboxReply_dir (i : Nat) (bs : List Byte) (s : State) : (mailboxReply i bs s).dir = s.dir := by
  simp [mailboxReply]
@[simp] theorem mailboxReply_parts (i : Nat) (bs : List Byte) (s : State) : (mailboxReply i bs s).parts = s.parts := by
  simp [mailboxReply]
@[simp] theorem mailboxReply_pastParts (i : Nat) (bs : List Byte) (s : State) : (mailboxReply i bs s).pastParts = s.pastParts := by
  simp [mailboxReply]
@[simp] theorem mailboxReply_fab (i : Nat) (bs : List Byte) (s : State) : (mailboxReply i bs s).fab = s.fab := by
  simp [mailboxReply]
@[simp] theorem mailboxReply_fronds (i : Nat) (bs : List Byte) (s : State) : (mailboxReply i bs s).fronds = s.fronds := by
  simp [mailboxReply]
@[simp] theorem mailboxReply_epochs (i : Nat) (bs : List Byte) (s : State) : (mailboxReply i bs s).epochs = s.epochs := by
  simp [mailboxReply]
@[simp] theorem mailboxReply_sched (i : Nat) (bs : List Byte) (s : State) : (mailboxReply i bs s).sched = s.sched := by
  simp [mailboxReply]
@[simp] theorem mailboxReply_health (i : Nat) (bs : List Byte) (s : State) : (mailboxReply i bs s).health = s.health := by
  simp [mailboxReply]
@[simp] theorem mailboxReply_bist (i : Nat) (bs : List Byte) (s : State) : (mailboxReply i bs s).bist = s.bist := by
  simp [mailboxReply]
@[simp] theorem mailboxReply_power (i : Nat) (bs : List Byte) (s : State) : (mailboxReply i bs s).power = s.power := by
  simp [mailboxReply]
@[simp] theorem mailboxReply_host (i : Nat) (bs : List Byte) (s : State) : (mailboxReply i bs s).host = s.host := by
  simp [mailboxReply]
@[simp] theorem mailboxReply_mgmt (i : Nat) (bs : List Byte) (s : State) : (mailboxReply i bs s).mgmt = s.mgmt := by
  simp [mailboxReply]
@[simp] theorem mailboxReply_free (i : Nat) (bs : List Byte) (s : State) : (mailboxReply i bs s).free = s.free := by
  simp [mailboxReply]

/-! ### cocoonAnswer -/

@[simp] theorem cocoonAnswer_pending (c : CocoonCmd) (st : Nat) (bs : List Byte) (s : State) : (cocoonAnswer c st bs s).pending = s.pending := by
  simp [cocoonAnswer]
@[simp] theorem cocoonAnswer_nv (c : CocoonCmd) (st : Nat) (bs : List Byte) (s : State) : (cocoonAnswer c st bs s).nv = s.nv := by
  simp [cocoonAnswer]
@[simp] theorem cocoonAnswer_boot (c : CocoonCmd) (st : Nat) (bs : List Byte) (s : State) : (cocoonAnswer c st bs s).boot = s.boot := by
  simp [cocoonAnswer]
@[simp] theorem cocoonAnswer_tb (c : CocoonCmd) (st : Nat) (bs : List Byte) (s : State) : (cocoonAnswer c st bs s).tb = s.tb := by
  simp [cocoonAnswer]
@[simp] theorem cocoonAnswer_regs (c : CocoonCmd) (st : Nat) (bs : List Byte) (s : State) : (cocoonAnswer c st bs s).regs = s.regs := by
  simp [cocoonAnswer]
@[simp] theorem cocoonAnswer_accCount (c : CocoonCmd) (st : Nat) (bs : List Byte) (s : State) : (cocoonAnswer c st bs s).accCount = s.accCount := by
  simp [cocoonAnswer]
@[simp] theorem cocoonAnswer_accOffset (c : CocoonCmd) (st : Nat) (bs : List Byte) (s : State) : (cocoonAnswer c st bs s).accOffset = s.accOffset := by
  simp [cocoonAnswer]
@[simp] theorem cocoonAnswer_ev (c : CocoonCmd) (st : Nat) (bs : List Byte) (s : State) : (cocoonAnswer c st bs s).ev = s.ev := by
  simp [cocoonAnswer]
@[simp] theorem cocoonAnswer_mem (c : CocoonCmd) (st : Nat) (bs : List Byte) (s : State) : (cocoonAnswer c st bs s).mem = s.mem := by
  simp [cocoonAnswer]
@[simp] theorem cocoonAnswer_pages (c : CocoonCmd) (st : Nat) (bs : List Byte) (s : State) : (cocoonAnswer c st bs s).pages = s.pages := by
  simp [cocoonAnswer]
@[simp] theorem cocoonAnswer_mdbs (c : CocoonCmd) (st : Nat) (bs : List Byte) (s : State) : (cocoonAnswer c st bs s).mdbs = s.mdbs := by
  simp [cocoonAnswer]
@[simp] theorem cocoonAnswer_descs (c : CocoonCmd) (st : Nat) (bs : List Byte) (s : State) : (cocoonAnswer c st bs s).descs = s.descs := by
  simp [cocoonAnswer]
@[simp] theorem cocoonAnswer_refs (c : CocoonCmd) (st : Nat) (bs : List Byte) (s : State) : (cocoonAnswer c st bs s).refs = s.refs := by
  simp [cocoonAnswer]
@[simp] theorem cocoonAnswer_staging (c : CocoonCmd) (st : Nat) (bs : List Byte) (s : State) : (cocoonAnswer c st bs s).staging = s.staging := by
  simp [cocoonAnswer]
@[simp] theorem cocoonAnswer_accSets (c : CocoonCmd) (st : Nat) (bs : List Byte) (s : State) : (cocoonAnswer c st bs s).accSets = s.accSets := by
  simp [cocoonAnswer]
@[simp] theorem cocoonAnswer_dir (c : CocoonCmd) (st : Nat) (bs : List Byte) (s : State) : (cocoonAnswer c st bs s).dir = s.dir := by
  simp [cocoonAnswer]
@[simp] theorem cocoonAnswer_parts (c : CocoonCmd) (st : Nat) (bs : List Byte) (s : State) : (cocoonAnswer c st bs s).parts = s.parts := by
  simp [cocoonAnswer]
@[simp] theorem cocoonAnswer_pastParts (c : CocoonCmd) (st : Nat) (bs : List Byte) (s : State) : (cocoonAnswer c st bs s).pastParts = s.pastParts := by
  simp [cocoonAnswer]
@[simp] theorem cocoonAnswer_fab (c : CocoonCmd) (st : Nat) (bs : List Byte) (s : State) : (cocoonAnswer c st bs s).fab = s.fab := by
  simp [cocoonAnswer]
@[simp] theorem cocoonAnswer_fronds (c : CocoonCmd) (st : Nat) (bs : List Byte) (s : State) : (cocoonAnswer c st bs s).fronds = s.fronds := by
  simp [cocoonAnswer]
@[simp] theorem cocoonAnswer_epochs (c : CocoonCmd) (st : Nat) (bs : List Byte) (s : State) : (cocoonAnswer c st bs s).epochs = s.epochs := by
  simp [cocoonAnswer]
@[simp] theorem cocoonAnswer_sched (c : CocoonCmd) (st : Nat) (bs : List Byte) (s : State) : (cocoonAnswer c st bs s).sched = s.sched := by
  simp [cocoonAnswer]
@[simp] theorem cocoonAnswer_health (c : CocoonCmd) (st : Nat) (bs : List Byte) (s : State) : (cocoonAnswer c st bs s).health = s.health := by
  simp [cocoonAnswer]
@[simp] theorem cocoonAnswer_bist (c : CocoonCmd) (st : Nat) (bs : List Byte) (s : State) : (cocoonAnswer c st bs s).bist = s.bist := by
  simp [cocoonAnswer]
@[simp] theorem cocoonAnswer_power (c : CocoonCmd) (st : Nat) (bs : List Byte) (s : State) : (cocoonAnswer c st bs s).power = s.power := by
  simp [cocoonAnswer]
@[simp] theorem cocoonAnswer_host (c : CocoonCmd) (st : Nat) (bs : List Byte) (s : State) : (cocoonAnswer c st bs s).host = s.host := by
  simp [cocoonAnswer]
@[simp] theorem cocoonAnswer_mgmt (c : CocoonCmd) (st : Nat) (bs : List Byte) (s : State) : (cocoonAnswer c st bs s).mgmt = s.mgmt := by
  simp [cocoonAnswer]
@[simp] theorem cocoonAnswer_free (c : CocoonCmd) (st : Nat) (bs : List Byte) (s : State) : (cocoonAnswer c st bs s).free = s.free := by
  simp [cocoonAnswer]

/-! ### mgmtAnswer -/

@[simp] theorem mgmtAnswer_pending (c : MgmtCmd) (st k : Nat) (bs : List Byte) (s : State) : (mgmtAnswer c st k bs s).pending = s.pending := rfl
@[simp] theorem mgmtAnswer_nv (c : MgmtCmd) (st k : Nat) (bs : List Byte) (s : State) : (mgmtAnswer c st k bs s).nv = s.nv := rfl
@[simp] theorem mgmtAnswer_boot (c : MgmtCmd) (st k : Nat) (bs : List Byte) (s : State) : (mgmtAnswer c st k bs s).boot = s.boot := rfl
@[simp] theorem mgmtAnswer_tb (c : MgmtCmd) (st k : Nat) (bs : List Byte) (s : State) : (mgmtAnswer c st k bs s).tb = s.tb := rfl
@[simp] theorem mgmtAnswer_regs (c : MgmtCmd) (st k : Nat) (bs : List Byte) (s : State) : (mgmtAnswer c st k bs s).regs = s.regs := rfl
@[simp] theorem mgmtAnswer_accCount (c : MgmtCmd) (st k : Nat) (bs : List Byte) (s : State) : (mgmtAnswer c st k bs s).accCount = s.accCount := rfl
@[simp] theorem mgmtAnswer_accOffset (c : MgmtCmd) (st k : Nat) (bs : List Byte) (s : State) : (mgmtAnswer c st k bs s).accOffset = s.accOffset := rfl
@[simp] theorem mgmtAnswer_ev (c : MgmtCmd) (st k : Nat) (bs : List Byte) (s : State) : (mgmtAnswer c st k bs s).ev = s.ev := rfl
@[simp] theorem mgmtAnswer_mem (c : MgmtCmd) (st k : Nat) (bs : List Byte) (s : State) : (mgmtAnswer c st k bs s).mem = s.mem := rfl
@[simp] theorem mgmtAnswer_pages (c : MgmtCmd) (st k : Nat) (bs : List Byte) (s : State) : (mgmtAnswer c st k bs s).pages = s.pages := rfl
@[simp] theorem mgmtAnswer_mdbs (c : MgmtCmd) (st k : Nat) (bs : List Byte) (s : State) : (mgmtAnswer c st k bs s).mdbs = s.mdbs := rfl
@[simp] theorem mgmtAnswer_descs (c : MgmtCmd) (st k : Nat) (bs : List Byte) (s : State) : (mgmtAnswer c st k bs s).descs = s.descs := rfl
@[simp] theorem mgmtAnswer_refs (c : MgmtCmd) (st k : Nat) (bs : List Byte) (s : State) : (mgmtAnswer c st k bs s).refs = s.refs := rfl
@[simp] theorem mgmtAnswer_staging (c : MgmtCmd) (st k : Nat) (bs : List Byte) (s : State) : (mgmtAnswer c st k bs s).staging = s.staging := rfl
@[simp] theorem mgmtAnswer_accSets (c : MgmtCmd) (st k : Nat) (bs : List Byte) (s : State) : (mgmtAnswer c st k bs s).accSets = s.accSets := rfl
@[simp] theorem mgmtAnswer_dir (c : MgmtCmd) (st k : Nat) (bs : List Byte) (s : State) : (mgmtAnswer c st k bs s).dir = s.dir := rfl
@[simp] theorem mgmtAnswer_parts (c : MgmtCmd) (st k : Nat) (bs : List Byte) (s : State) : (mgmtAnswer c st k bs s).parts = s.parts := rfl
@[simp] theorem mgmtAnswer_pastParts (c : MgmtCmd) (st k : Nat) (bs : List Byte) (s : State) : (mgmtAnswer c st k bs s).pastParts = s.pastParts := rfl
@[simp] theorem mgmtAnswer_fab (c : MgmtCmd) (st k : Nat) (bs : List Byte) (s : State) : (mgmtAnswer c st k bs s).fab = s.fab := rfl
@[simp] theorem mgmtAnswer_fronds (c : MgmtCmd) (st k : Nat) (bs : List Byte) (s : State) : (mgmtAnswer c st k bs s).fronds = s.fronds := rfl
@[simp] theorem mgmtAnswer_epochs (c : MgmtCmd) (st k : Nat) (bs : List Byte) (s : State) : (mgmtAnswer c st k bs s).epochs = s.epochs := rfl
@[simp] theorem mgmtAnswer_sched (c : MgmtCmd) (st k : Nat) (bs : List Byte) (s : State) : (mgmtAnswer c st k bs s).sched = s.sched := rfl
@[simp] theorem mgmtAnswer_health (c : MgmtCmd) (st k : Nat) (bs : List Byte) (s : State) : (mgmtAnswer c st k bs s).health = s.health := rfl
@[simp] theorem mgmtAnswer_bist (c : MgmtCmd) (st k : Nat) (bs : List Byte) (s : State) : (mgmtAnswer c st k bs s).bist = s.bist := rfl
@[simp] theorem mgmtAnswer_power (c : MgmtCmd) (st k : Nat) (bs : List Byte) (s : State) : (mgmtAnswer c st k bs s).power = s.power := rfl
@[simp] theorem mgmtAnswer_host (c : MgmtCmd) (st k : Nat) (bs : List Byte) (s : State) : (mgmtAnswer c st k bs s).host = s.host := rfl
@[simp] theorem mgmtAnswer_cocoon (c : MgmtCmd) (st k : Nat) (bs : List Byte) (s : State) : (mgmtAnswer c st k bs s).cocoon = s.cocoon := rfl
@[simp] theorem mgmtAnswer_free (c : MgmtCmd) (st k : Nat) (bs : List Byte) (s : State) : (mgmtAnswer c st k bs s).free = s.free := rfl

/-! ### accessFault -/

@[simp] theorem accessFault_pending (o : Nat) (s : State) : (accessFault o s).pending = s.pending := rfl
@[simp] theorem accessFault_nv (o : Nat) (s : State) : (accessFault o s).nv = s.nv := rfl
@[simp] theorem accessFault_boot (o : Nat) (s : State) : (accessFault o s).boot = s.boot := rfl
@[simp] theorem accessFault_tb (o : Nat) (s : State) : (accessFault o s).tb = s.tb := rfl
@[simp] theorem accessFault_regs (o : Nat) (s : State) : (accessFault o s).regs = s.regs := rfl
@[simp] theorem accessFault_ev (o : Nat) (s : State) : (accessFault o s).ev = s.ev := rfl
@[simp] theorem accessFault_mem (o : Nat) (s : State) : (accessFault o s).mem = s.mem := rfl
@[simp] theorem accessFault_pages (o : Nat) (s : State) : (accessFault o s).pages = s.pages := rfl
@[simp] theorem accessFault_mdbs (o : Nat) (s : State) : (accessFault o s).mdbs = s.mdbs := rfl
@[simp] theorem accessFault_descs (o : Nat) (s : State) : (accessFault o s).descs = s.descs := rfl
@[simp] theorem accessFault_refs (o : Nat) (s : State) : (accessFault o s).refs = s.refs := rfl
@[simp] theorem accessFault_staging (o : Nat) (s : State) : (accessFault o s).staging = s.staging := rfl
@[simp] theorem accessFault_accSets (o : Nat) (s : State) : (accessFault o s).accSets = s.accSets := rfl
@[simp] theorem accessFault_dir (o : Nat) (s : State) : (accessFault o s).dir = s.dir := rfl
@[simp] theorem accessFault_parts (o : Nat) (s : State) : (accessFault o s).parts = s.parts := rfl
@[simp] theorem accessFault_pastParts (o : Nat) (s : State) : (accessFault o s).pastParts = s.pastParts := rfl
@[simp] theorem accessFault_fab (o : Nat) (s : State) : (accessFault o s).fab = s.fab := rfl
@[simp] theorem accessFault_fronds (o : Nat) (s : State) : (accessFault o s).fronds = s.fronds := rfl
@[simp] theorem accessFault_epochs (o : Nat) (s : State) : (accessFault o s).epochs = s.epochs := rfl
@[simp] theorem accessFault_sched (o : Nat) (s : State) : (accessFault o s).sched = s.sched := rfl
@[simp] theorem accessFault_health (o : Nat) (s : State) : (accessFault o s).health = s.health := rfl
@[simp] theorem accessFault_bist (o : Nat) (s : State) : (accessFault o s).bist = s.bist := rfl
@[simp] theorem accessFault_power (o : Nat) (s : State) : (accessFault o s).power = s.power := rfl
@[simp] theorem accessFault_host (o : Nat) (s : State) : (accessFault o s).host = s.host := rfl
@[simp] theorem accessFault_cocoon (o : Nat) (s : State) : (accessFault o s).cocoon = s.cocoon := rfl
@[simp] theorem accessFault_mgmt (o : Nat) (s : State) : (accessFault o s).mgmt = s.mgmt := rfl
@[simp] theorem accessFault_free (o : Nat) (s : State) : (accessFault o s).free = s.free := rfl

end Sys2Proof.Machine
end

