-- ==== Sys2Proof/Laws/Memory.lean ====
section
/-!
SUPPORT. The byte memories: every memory operation keeps the canonical form (addresses strictly rising, no cell equal to what an
unlisted address reads as), so that equal memories are equal data; and what a filter and a join of cells read as.
-/

namespace Sys2Proof.Machine

open Sys2Proof

/-- Canonical form as two plain facts: the addresses rise, and no cell holds the default. -/
theorem cellsWf_iff (d : Byte) (m : List Host.Cell) :
    cellsWf d m = true ↔ m.Pairwise (fun x y => x.1 < y.1) ∧ ∀ c ∈ m, c.2 ≠ d := by
  induction m with
  | nil => simp [cellsWf]
  | cons c m ih =>
    simp only [cellsWf, Bool.and_eq_true, bne_iff_ne, List.all_eq_true, decide_eq_true_eq, ih, List.pairwise_cons,
      List.mem_cons, forall_eq_or_imp]
    constructor
    · rintro ⟨⟨a, b⟩, c, e⟩; exact ⟨⟨b, c⟩, a, e⟩
    · rintro ⟨⟨b, c⟩, a, e⟩; exact ⟨⟨a, b⟩, c, e⟩

/-- The cells of a run of bytes rise from its first address, stay inside the run, and hold no default. -/
theorem cellsOf_spec (d : Byte) (bs : List Byte) (a : Nat) :
    (cellsOf d a bs).Pairwise (fun x y => x.1 < y.1) ∧
      ∀ c ∈ cellsOf d a bs, a ≤ c.1 ∧ c.1 < a + bs.length ∧ c.2 ≠ d := by
  induction bs generalizing a with
  | nil => simp [cellsOf]
  | cons b bs ih =>
    obtain ⟨h1, h2⟩ := ih (a + 1)
    unfold cellsOf
    split
    · refine ⟨h1, fun c hc => ?_⟩
      have := h2 c hc
      simp only [List.length_cons]
      exact ⟨by omega, by omega, this.2.2⟩
    · rename_i hb
      refine ⟨List.pairwise_cons.mpr ⟨fun c hc => ?_, h1⟩, fun c hc => ?_⟩
      · have := h2 c hc
        show a < c.1
        omega
      · simp only [List.length_cons]
        rcases List.mem_cons.mp hc with h | h
        · subst h
          exact ⟨Nat.le_refl _, by show a < _; omega, by simpa using hb⟩
        · have := h2 c h
          exact ⟨by omega, by omega, this.2.2⟩

/-- A write keeps the canonical form. -/
theorem cellsPut_wf (d : Byte) (m : List Host.Cell) (a : Nat) (bs : List Byte) (h : cellsWf d m = true) :
    cellsWf d (cellsPut d m a bs) = true := by
  rw [cellsWf_iff] at h ⊢
  obtain ⟨o1, o2⟩ := cellsOf_spec d bs a
  unfold cellsPut
  refine ⟨?_, ?_⟩
  · rw [List.pairwise_append, List.pairwise_append]
    refine ⟨⟨h.1.filter _, o1, ?_⟩, h.1.filter _, ?_⟩
    · intro x hx y hy
      simp only [List.mem_filter, decide_eq_true_eq] at hx
      have := o2 y hy
      omega
    · intro x hx y hy
      simp only [List.mem_filter, decide_eq_true_eq] at hy
      rcases List.mem_append.mp hx with hx | hx
      · simp only [List.mem_filter, decide_eq_true_eq] at hx
        omega
      · have := o2 x hx
        omega
  · intro c hc
    rcases List.mem_append.mp hc with hc | hc
    · rcases List.mem_append.mp hc with hc | hc
      · exact h.2 c (List.mem_filter.mp hc).1
      · exact (o2 c hc).2.2
    · exact h.2 c (List.mem_filter.mp hc).1

/-- Clearing a range keeps the canonical form. -/
theorem cellsClear_wf (d : Byte) (m : List Host.Cell) (a n : Nat) (h : cellsWf d m = true) :
    cellsWf d (cellsClear m a n) = true := by
  rw [cellsWf_iff] at h ⊢
  exact ⟨h.1.filter _, fun c hc => h.2 c (List.mem_filter.mp hc).1⟩

theorem Memory.wf_iff (s : State) : Memory.wf s = true ↔
    cellsWf 0#8 s.mem.hbm = true ∧ cellsWf 0#8 s.host.mem = true ∧ cellsWf 0xFF#8 s.nv.nor = true := by
  simp [Memory.wf, and_assoc]

/-- A write of HBM keeps every memory canonical. -/
theorem hbmWrite_wf (a : Nat) (bs : List Byte) (s : State) (h : Memory.wf s = true) : Memory.wf (hbmWrite a bs s) = true := by
  rw [Memory.wf_iff] at h ⊢
  exact ⟨cellsPut_wf _ _ _ _ h.1, h.2.1, h.2.2⟩

/-- Zeroing HBM keeps every memory canonical. -/
theorem hbmZero_wf (a n : Nat) (s : State) (h : Memory.wf s = true) : Memory.wf (hbmZero a n s) = true := by
  rw [Memory.wf_iff] at h ⊢
  exact ⟨cellsClear_wf _ _ _ _ h.1, h.2.1, h.2.2⟩

/-- A write of the host's memory keeps every memory canonical. -/
theorem hostWrite_wf (a : Nat) (bs : List Byte) (s : State) (h : Memory.wf s = true) : Memory.wf (hostWrite a bs s) = true := by
  rw [Memory.wf_iff] at h ⊢
  exact ⟨h.1, cellsPut_wf _ _ _ _ h.2.1, h.2.2⟩

/-- A write of the configuration memory keeps every memory canonical. -/
theorem norWrite_wf (a : Nat) (bs : List Byte) (s : State) (h : Memory.wf s = true) : Memory.wf (norWrite a bs s) = true := by
  rw [Memory.wf_iff] at h ⊢
  exact ⟨h.1, h.2.1, cellsPut_wf _ _ _ _ h.2.2⟩

/-- Programming a region of the configuration memory keeps every memory canonical. -/
theorem norProgram_wf (a n : Nat) (bs : List Byte) (s : State) (h : Memory.wf s = true) :
    Memory.wf (norProgram a n bs s) = true := by
  refine norWrite_wf a bs _ ?_
  rw [Memory.wf_iff] at h ⊢
  exact ⟨h.1, h.2.1, cellsClear_wf _ _ _ _ h.2.2⟩

/-- Memory is canonical right after reset. -/
theorem reset_memory_wf : Memory.wf State.reset = true := rfl

/-! ### Reading cells -/

/-- A byte that no cell of the list names reads as the default. -/
theorem cellAt_of_forall_ne (d : Byte) (m : List Host.Cell) (a : Nat) (h : ∀ c ∈ m, c.1 ≠ a) : cellAt d m a = d := by
  induction m with
  | nil => rfl
  | cons c m ih =>
    have h1 : c.1 ≠ a := h c (List.mem_cons_self ..)
    simp only [cellAt, h1, if_false]
    exact ih fun x hx => h x (List.mem_cons_of_mem _ hx)

/-- A filter that lets every cell at an address through reads there as the whole list does. -/
theorem cellAt_filter (d : Byte) (m : List Host.Cell) (a : Nat) (p : Host.Cell → Bool) (h : ∀ c, c.1 = a → p c = true) :
    cellAt d (m.filter p) a = cellAt d m a := by
  induction m with
  | nil => rfl
  | cons c m ih =>
    by_cases hc : c.1 = a
    · simp [h c hc, cellAt, hc]
    · by_cases hp : p c = true
      · simp [hp, cellAt, hc, ih]
      · simp [hp, cellAt, hc, ih]

/-- A join reads as its second part where the first names no cell at the address. -/
theorem cellAt_append (d : Byte) (m₁ m₂ : List Host.Cell) (a : Nat) (h : ∀ c ∈ m₁, c.1 ≠ a) :
    cellAt d (m₁ ++ m₂) a = cellAt d m₂ a := by
  induction m₁ with
  | nil => rfl
  | cons c m ih =>
    have h1 : c.1 ≠ a := h c (List.mem_cons_self ..)
    simp only [List.cons_append, cellAt, h1, if_false]
    exact ih fun x hx => h x (List.mem_cons_of_mem _ hx)

end Sys2Proof.Machine
end

