-- ==== Sys2Proof/Laws/Ops.lean ====
section
/-!
SUPPORT. What each shared operation can do, said once: association lists, sorting, the wrappers that let a command through, and the
operations of the directory and of the event log.
-/

namespace Sys2Proof.Machine

open Sys2Proof

/-! ### Association lists -/

@[simp] theorem mfind_mset {α : Type} (m : List (Nat × α)) (k j : Nat) (v : α) :
    mfind (mset m k v) j = if j = k then some v else mfind m j := by
  induction m with
  | nil => by_cases h : k = j <;> simp [mset, mfind, h, eq_comm]
  | cons c m ih =>
    obtain ⟨a, w⟩ := c
    simp only [mset]
    split
    · by_cases h : k = j <;> simp [mfind, h, eq_comm]
    · split
      · rename_i h1 h2
        subst h2
        by_cases h : k = j <;> simp [mfind, h, eq_comm]
      · rename_i h1 h2
        simp only [mfind, ih]
        by_cases h : j = k
        · subst h; simp [Ne.symm h2]
        · simp [h]

@[simp] theorem mget_mset {α : Type} (d : α) (m : List (Nat × α)) (k j : Nat) (v : α) :
    mget d (mset m k v) j = if j = k then v else mget d m j := by
  induction m with
  | nil => by_cases h : k = j <;> simp [mset, mget, h, eq_comm]
  | cons c m ih =>
    obtain ⟨a, w⟩ := c
    simp only [mset]
    split
    · by_cases h : k = j <;> simp [mget, h, eq_comm]
    · split
      · rename_i h1 h2
        subst h2
        by_cases h : k = j <;> simp [mget, h, eq_comm]
      · rename_i h1 h2
        simp only [mget, ih]
        by_cases h : j = k
        · subst h; simp [Ne.symm h2]
        · simp [h]

@[simp] theorem mfind_mdel {α : Type} (m : List (Nat × α)) (k j : Nat) :
    mfind (mdel m k) j = if j = k then none else mfind m j := by
  induction m with
  | nil => simp [mdel, mfind]
  | cons c m ih =>
    obtain ⟨a, w⟩ := c
    simp only [mdel]
    split
    · rename_i h1
      subst h1
      rw [ih]
      by_cases h : j = a
      · simp [h]
      · simp [h, mfind, Ne.symm h]
    · rename_i h1
      simp only [mfind, ih]
      by_cases h : j = k
      · subst h; simp [h1]
      · simp [h]

/-- A key that is written is in the list, and every other member was there before. -/
theorem mem_mset {α : Type} (m : List (Nat × α)) (k : Nat) (v : α) (x : Nat × α) (h : x ∈ mset m k v) :
    x = (k, v) ∨ x ∈ m := by
  induction m with
  | nil => simpa [mset] using h
  | cons c m ih =>
    obtain ⟨a, w⟩ := c
    simp only [mset] at h
    split at h
    · simpa using h
    · split at h
      · rcases List.mem_cons.mp h with h | h
        · exact .inl h
        · exact .inr (List.mem_cons_of_mem _ h)
      · rcases List.mem_cons.mp h with h | h
        · exact .inr (by simp [h])
        · rcases ih h with h | h
          · exact .inl h
          · exact .inr (List.mem_cons_of_mem _ h)

/-- A sort keeps the members of a list. -/
theorem mem_sortBy {α : Type} (le : α → α → Bool) (l : List α) (x : α) : x ∈ sortBy le l ↔ x ∈ l := by
  have ins : ∀ (a : α) (l : List α), x ∈ insertBy le a l ↔ x = a ∨ x ∈ l := by
    intro a l
    induction l with
    | nil => simp [insertBy]
    | cons b l ih =>
      simp only [insertBy]
      split
      · simp
      · simp only [List.mem_cons, ih]
        tauto
  induction l with
  | nil => simp [sortBy]
  | cons a l ih =>
    have : sortBy le (a :: l) = insertBy le a (sortBy le l) := rfl
    rw [this, ins, List.mem_cons]
    exact or_congr_right ih

/-! ### What lets a command through -/

/-- A node that serves is powered, locked and not stopped. -/
theorem serving_powered {s : State} (h : serving s = true) :
    s.boot.powered = true ∧ s.boot.locked = true ∧ s.health.stopped = false := by
  simp only [serving, Bool.and_eq_true, Bool.not_eq_true'] at h
  simp [h]

theorem serving_of_unpowered {s : State} (h : s.boot.powered = false) : serving s = false := by
  simp [serving, h]

/-- A management command of an allowed role has its own effect. -/
theorem mgmtCmd_allowed {c : MgmtCmd} {s t : State} {a : Bool} (h : manages s c) (ha : a = true) :
    mgmtCmd c a s t = .next (after s t) := by
  obtain ⟨h1, _, h3⟩ := serving_powered h.1
  simp [mgmtCmd, h1, h3, h.1, h.2.1, h.2.2, ha, done_eq_after]

/-- A management command of another role is answered NOT_PERMITTED. -/
theorem mgmtCmd_refused {c : MgmtCmd} {s t : State} (h : manages s c) :
    mgmtCmd c false s t = .next (after s (mgmtAnswer c stNotPermitted 0 [] s)) := by
  obtain ⟨h1, _, h3⟩ := serving_powered h.1
  simp [mgmtCmd, h1, h3, h.1, h.2.1, h.2.2, done_eq_after]

/-- A management command that goes on leaves the state, its refusal or its own effect. -/
theorem mgmtCmd_cases {c : MgmtCmd} {a : Bool} {s t u : State} (h : mgmtCmd c a s t = .next u) :
    u = s ∨ u = after s (mgmtAnswer c stNotPermitted 0 [] s) ∨ u = after s t := by
  unfold mgmtCmd at h
  split at h
  · exact .inl (by cases h; rfl)
  · split at h
    · exact .inr (.inl (by cases h; rfl))
    · exact .inr (.inr (by cases h; rfl))

/-- A cocoon command that is served has its own effect on its parameters. -/
theorem cocoonCmd_turn {c : CocoonCmd} {s : State} {a : Bool} {k : Nat} {b : List Byte} {f : List Byte → State → State}
    (h : cocoonTurn s c k b) (ha : a = true) : cocoonCmd c a k s f = .next (after s (f b s)) := by
  obtain ⟨h1, h2, h3, h4, h5⟩ := h
  simp [cocoonCmd, h1, h2, h3, h4, h5, ha, done_eq_after]

/-- A cocoon command that goes on leaves the state, a refusal or its own effect. -/
theorem cocoonCmd_cases {c : CocoonCmd} {a : Bool} {k : Nat} {s u : State} {f : List Byte → State → State}
    (h : cocoonCmd c a k s f = .next u) :
    u = s ∨ (∃ st, u = after s (cocoonAnswer c st [] s)) ∨ ∃ b, cocoonParams c k = some b ∧ u = after s (f b s) := by
  unfold cocoonCmd at h
  split at h
  · exact .inl (by cases h; rfl)
  · split at h
    · exact .inr (.inl ⟨stNotPermitted, by cases h; rfl⟩)
    · split at h
      · exact .inr (.inl ⟨stFormat, by cases h; rfl⟩)
      · rename_i b hb
        exact .inr (.inr ⟨b, hb, by cases h; rfl⟩)

/-- A ring command whose turn it is has its own effect. -/
theorem ringCmd_turn {s : State} {code n r idx : Nat} {x : Fetched} {f : Fetched → State → State}
    (h : ringTurn s code n r idx x) : ringCmd code n r idx s f = f x s := by
  obtain ⟨h1, h2, h3, h4⟩ := h
  simp [ringCmd, h1, h2, h3, h4]

/-- A ring command leaves the state, or has its own effect in its turn. -/
theorem ringCmd_cases (s : State) (code n r idx : Nat) (f : Fetched → State → State) :
    ringCmd code n r idx s f = s ∨ ∃ x, ringTurn s code n r idx x ∧ ringCmd code n r idx s f = f x s := by
  by_cases h1 : serving s = true
  · cases h2 : fetched? s n r idx with
    | none => exact .inl (by simp [ringCmd, h1, h2])
    | some x =>
      by_cases h3 : x.code = code ∧ x.started = false
      · exact .inr ⟨x, ⟨h1, h2, h3.1, h3.2⟩, by simp [ringCmd, h1, h2, h3]⟩
      · have h4 : ¬ (x.code = code ∧ (!x.started) = true) := by simpa using h3
        exact .inl (by simp only [ringCmd, h1, h2, h4]; simp)
  · exact .inl (by simp [ringCmd, h1])

/-- A request that is admitted runs in the state its intake leaves. -/
theorem requestRow_admitted {s t : State} {n op : Nat} {r : Req} {names : List Nat} (h : admitted s n op r names t)
    (remote : List Byte) :
    requestRow op r remote s = runRequest op r remote t ∧ reqPart t r = some n ∧ gate t n r op names = none := by
  obtain ⟨⟨h1, h2, h3⟩, h4, h5, h6⟩ := h
  refine ⟨?_, h5, h6⟩
  unfold atRun at h4
  cases hi : intake n op r s with
  | mk ok s1 =>
    rw [hi] at h3 h4
    simp only at h3 h4
    subst h3 h4
    simp [requestRow, h1, h2, hi]

/-! ### The directory and the event log -/

/-- An insert that succeeds found no entry of the key, and writes one word at the lowest free address. -/
theorem dirInsert_some {s t : State} {n pri data a : Nat} {key : BitVec 96} (h : dirInsert n key pri data s = some (a, t)) :
    dirSearch s n key = none ∧ lowestFreeAddr s n = some a ∧ t = dirPut a (dirWord key pri data) s := by
  unfold dirInsert at h
  split at h
  · cases h
  · rename_i h1
    split at h
    · cases h
    · rename_i b h2
      cases h
      exact ⟨h1, h2, rfl⟩

/-- An event touches the event log alone. -/
theorem logEvent_eq (code src : Nat) (p : Option Nat) (u : Nat) (args : List Nat) (s : State) :
    logEvent code src p u args s = { s with ev := evWrite code (evSev code) src p u args s.tb.now s.ev } := rfl

end Sys2Proof.Machine
end

