-- ==== Sys2Proof/Laws/PerInstr.lean ====
section
/-!
SUPPORT. Laws over the commands as syntax, one lemma per constructor.
-/

namespace Sys2Proof.Laws.NoWord

open Sys2Proof

/-- No word spells the command: the rows of the table give no bits. -/
def Statement (i : Instr) : Prop := ∀ n w : Nat, decodeTableWord n w ≠ some i

theorem powerOn : ∀ railsGood, Statement (.powerOn railsGood) := by intros; intro n w h; cases h
theorem coldStartPhase : ∀ inp, Statement (.coldStartPhase inp) := by intros; intro n w h; cases h
theorem powerFail : Statement (.powerFail) := by intro n w h; cases h
theorem tamperEvent : Statement (.tamperEvent) := by intro n w h; cases h
theorem cocoonSelfTestFail : Statement (.cocoonSelfTestFail) := by intro n w h; cases h
theorem watchdogExpire : Statement (.watchdogExpire) := by intro n w h; cases h
theorem timebaseTick : Statement (.timebaseTick) := by intro n w h; cases h
theorem timebaseMarkerSend : ∀ port, Statement (.timebaseMarkerSend port) := by intros; intro n w h; cases h
theorem timebaseMarkerReceive : ∀ port peerSend peerLastRx at_, Statement (.timebaseMarkerReceive port peerSend peerLastRx at_) := by intros; intro n w h; cases h
theorem holdoverExpire : Statement (.holdoverExpire) := by intro n w h; cases h
theorem linkUp : ∀ port peerVersions lanes second, Statement (.linkUp port peerVersions lanes second) := by intros; intro n w h; cases h
theorem linkDown : ∀ port goodLanes, Statement (.linkDown port goodLanes) := by intros; intro n w h; cases h
theorem packetReceive : ∀ port at_ pkt, Statement (.packetReceive port at_ pkt) := by intros; intro n w h; cases h
theorem connRecordFetch : ∀ die good, Statement (.connRecordFetch die good) := by intros; intro n w h; cases h
theorem windowBaseAdvance : ∀ conn, Statement (.windowBaseAdvance conn) := by intros; intro n w h; cases h
theorem connOpen : ∀ port at_ pkt, Statement (.connOpen port at_ pkt) := by intros; intro n w h; cases h
theorem connAccept : ∀ port at_ pkt, Statement (.connAccept port at_ pkt) := by intros; intro n w h; cases h
theorem connClose : ∀ port at_ pkt, Statement (.connClose port at_ pkt) := by intros; intro n w h; cases h
theorem connClosed : ∀ port at_ pkt, Statement (.connClosed port at_ pkt) := by intros; intro n w h; cases h
theorem quarantineEnd : ∀ conn, Statement (.quarantineEnd conn) := by intros; intro n w h; cases h
theorem attDecode : ∀ r, Statement (.attDecode r) := by intros; intro n w h; cases h
theorem attPrefill : ∀ r, Statement (.attPrefill r) := by intros; intro n w h; cases h
theorem attBackward : ∀ r, Statement (.attBackward r) := by intros; intro n w h; cases h
theorem backwardHoldTimeout : ∀ mdb layer index, Statement (.backwardHoldTimeout mdb layer index) := by intros; intro n w h; cases h
theorem kvAppend : ∀ r, Statement (.kvAppend r) := by intros; intro n w h; cases h
theorem kvAppendSpec : ∀ r, Statement (.kvAppendSpec r) := by intros; intro n w h; cases h
theorem heldAppendResume : Statement (.heldAppendResume) := by intro n w h; cases h
theorem specCommit : ∀ r, Statement (.specCommit r) := by intros; intro n w h; cases h
theorem specAbort : ∀ r, Statement (.specAbort r) := by intros; intro n w h; cases h
theorem tailDeadlineDrop : ∀ mdb, Statement (.tailDeadlineDrop mdb) := by intros; intro n w h; cases h
theorem seqOpen : ∀ r, Statement (.seqOpen r) := by intros; intro n w h; cases h
theorem seqClose : ∀ r, Statement (.seqClose r) := by intros; intro n w h; cases h
theorem seqClone : ∀ r, Statement (.seqClone r) := by intros; intro n w h; cases h
theorem prefixLookup : ∀ r, Statement (.prefixLookup r) := by intros; intro n w h; cases h
theorem swapOut : ∀ r, Statement (.swapOut r) := by intros; intro n w h; cases h
theorem swapIn : ∀ r, Statement (.swapIn r) := by intros; intro n w h; cases h
theorem demandSwapInDone : ∀ mdb, Statement (.demandSwapInDone mdb) := by intros; intro n w h; cases h
theorem stallTimeout : ∀ conn mseq, Statement (.stallTimeout conn mseq) := by intros; intro n w h; cases h
theorem checkpoint : ∀ r, Statement (.checkpoint r) := by intros; intro n w h; cases h
theorem restore : ∀ r remote, Statement (.restore r remote) := by intros; intro n w h; cases h
theorem merge : ∀ r, Statement (.merge r) := by intros; intro n w h; cases h
theorem rmaWrite : ∀ port at_ pkt, Statement (.rmaWrite port at_ pkt) := by intros; intro n w h; cases h
theorem rmaWriteFinal : ∀ port at_ pkt, Statement (.rmaWriteFinal port at_ pkt) := by intros; intro n w h; cases h
theorem rmaRead : ∀ r index gen, Statement (.rmaRead r index gen) := by intros; intro n w h; cases h
theorem responseReceive : ∀ pkt, Statement (.responseReceive pkt) := by intros; intro n w h; cases h
theorem retransmitTimeout : ∀ conn mseq, Statement (.retransmitTimeout conn mseq) := by intros; intro n w h; cases h
theorem messageAbandon : ∀ conn mseq, Statement (.messageAbandon conn mseq) := by intros; intro n w h; cases h
theorem newerEpochHoldExpire : ∀ conn mseq, Statement (.newerEpochHoldExpire conn mseq) := by intros; intro n w h; cases h
theorem epochAdopt : Statement (.epochAdopt) := by intro n w h; cases h
theorem graceEnd : Statement (.graceEnd) := by intro n w h; cases h
theorem frondSwitch : Statement (.frondSwitch) := by intro n w h; cases h
theorem directoryQuotaWindow : Statement (.directoryQuotaWindow) := by intro n w h; cases h
theorem directoryOperation : ∀ die arrive, Statement (.directoryOperation die arrive) := by intros; intro n w h; cases h
theorem directoryScrub : ∀ die found, Statement (.directoryScrub die found) := by intros; intro n w h; cases h
theorem sensorSample : ∀ raw, Statement (.sensorSample raw) := by intros; intro n w h; cases h
theorem powerMeasure : ∀ watts, Statement (.powerMeasure watts) := by intros; intro n w h; cases h
theorem powerFrameEnd : Statement (.powerFrameEnd) := by intro n w h; cases h
theorem fastEvent : ∀ ocw, Statement (.fastEvent ocw) := by intros; intro n w h; cases h
theorem throttleLatch : Statement (.throttleLatch) := by intro n w h; cases h
theorem healthDecay : Statement (.healthDecay) := by intro n w h; cases h
theorem refreshDue : ∀ pc bg, Statement (.refreshDue pc bg) := by intros; intro n w h; cases h
theorem slotGrant : ∀ e, Statement (.slotGrant e) := by intros; intro n w h; cases h
theorem mossBodyEnd : ∀ e, Statement (.mossBodyEnd e) := by intros; intro n w h; cases h
theorem mossTaskDone : ∀ pc, Statement (.mossTaskDone pc) := by intros; intro n w h; cases h
theorem rowCheckDone : ∀ e found, Statement (.rowCheckDone e found) := by intros; intro n w h; cases h
theorem rowOperationEnd : ∀ e, Statement (.rowOperationEnd e) := by intros; intro n w h; cases h
theorem hbmScrub : ∀ pc found, Statement (.hbmScrub pc found) := by intros; intro n w h; cases h
theorem memoryError : ∀ pc bank row unit first rereads, Statement (.memoryError pc bank row unit first rereads) := by intros; intro n w h; cases h
theorem pageRepair : ∀ pc bank row, Statement (.pageRepair pc bank row) := by intros; intro n w h; cases h
theorem pcRetire : ∀ pc, Statement (.pcRetire pc) := by intros; intro n w h; cases h
theorem laneErrorWindow : ∀ lane replays retrained, Statement (.laneErrorWindow lane replays retrained) := by intros; intro n w h; cases h
theorem dieLost : ∀ die, Statement (.dieLost die) := by intros; intro n w h; cases h
theorem engineIssue : ∀ core, Statement (.engineIssue core) := by intros; intro n w h; cases h
theorem corruptBlockReread : ∀ core page block good deterministic stall, Statement (.corruptBlockReread core page block good deterministic stall) := by intros; intro n w h; cases h
theorem workItem : ∀ core skipper, Statement (.workItem core skipper) := by intros; intro n w h; cases h
theorem contextSwitch : ∀ core skipper part ns, Statement (.contextSwitch core skipper part ns) := by intros; intro n w h; cases h
theorem jobPlace : ∀ group, Statement (.jobPlace group) := by intros; intro n w h; cases h
theorem pageTaskCreate : ∀ part, Statement (.pageTaskCreate part) := by intros; intro n w h; cases h
theorem pageTaskDone : ∀ task, Statement (.pageTaskDone task) := by intros; intro n w h; cases h
theorem pageFree : ∀ page, Statement (.pageFree page) := by intros; intro n w h; cases h
theorem preemptionPass : ∀ part, Statement (.preemptionPass part) := by intros; intro n w h; cases h
theorem preemptRetry : ∀ part, Statement (.preemptRetry part) := by intros; intro n w h; cases h
theorem eviction : ∀ part, Statement (.eviction part) := by intros; intro n w h; cases h
theorem stagePage : ∀ mdb stream index, Statement (.stagePage mdb stream index) := by intros; intro n w h; cases h
theorem stageTtlExpire : ∀ page, Statement (.stageTtlExpire page) := by intros; intro n w h; cases h
theorem replicaApply : ∀ conn mseq, Statement (.replicaApply conn mseq) := by intros; intro n w h; cases h
theorem pageFetchReply : ∀ conn mseq, Statement (.pageFetchReply conn mseq) := by intros; intro n w h; cases h
theorem pageFetchTimeout : ∀ mdb rseq, Statement (.pageFetchTimeout mdb rseq) := by intros; intro n w h; cases h
theorem rebuildStart : Statement (.rebuildStart) := by intro n w h; cases h
theorem rebuildPage : ∀ mdb, Statement (.rebuildPage mdb) := by intros; intro n w h; cases h
theorem placementRead : ∀ mdb answer, Statement (.placementRead mdb answer) := by intros; intro n w h; cases h
theorem reencryptWalk : ∀ part, Statement (.reencryptWalk part) := by intros; intro n w h; cases h
theorem keySlotSwitch : ∀ part, Statement (.keySlotSwitch part) := by intros; intro n w h; cases h
theorem policerRefill : Statement (.policerRefill) := by intro n w h; cases h
theorem shaperRefill : Statement (.shaperRefill) := by intro n w h; cases h
theorem tcChangeApply : Statement (.tcChangeApply) := by intro n w h; cases h
theorem portTransmit : ∀ port, Statement (.portTransmit port) := by intros; intro n w h; cases h
theorem queueSample : Statement (.queueSample) := by intro n w h; cases h
theorem registerWrite : ∀ agent offset width value, Statement (.registerWrite agent offset width value) := by intros; intro n w h; cases h
theorem dvsecSelect : ∀ value, Statement (.dvsecSelect value) := by intros; intro n w h; cases h
theorem sqDoorbell : ∀ part ring tail, Statement (.sqDoorbell part ring tail) := by intros; intro n w h; cases h
theorem cqDoorbell : ∀ part ring head, Statement (.cqDoorbell part ring head) := by intros; intro n w h; cases h
theorem ringDrainDone : ∀ part ring, Statement (.ringDrainDone part ring) := by intros; intro n w h; cases h
theorem commandFetch : ∀ part ring input, Statement (.commandFetch part ring input) := by intros; intro n w h; cases h
theorem nop : ∀ part ring idx, Statement (.nop part ring idx) := by intros; intro n w h; cases h
theorem request : ∀ part ring idx remote, Statement (.request part ring idx remote) := by intros; intro n w h; cases h
theorem excLoad : ∀ part ring idx, Statement (.excLoad part ring idx) := by intros; intro n w h; cases h
theorem excLoadEffect : ∀ part slot, Statement (.excLoadEffect part slot) := by intros; intro n w h; cases h
theorem progLoad : ∀ part ring idx, Statement (.progLoad part ring idx) := by intros; intro n w h; cases h
theorem progUnload : ∀ part ring idx, Statement (.progUnload part ring idx) := by intros; intro n w h; cases h
theorem wsetLoad : ∀ part ring idx, Statement (.wsetLoad part ring idx) := by intros; intro n w h; cases h
theorem wsetUnload : ∀ part ring idx, Statement (.wsetUnload part ring idx) := by intros; intro n w h; cases h
theorem bufReg : ∀ part ring idx, Statement (.bufReg part ring idx) := by intros; intro n w h; cases h
theorem bufRegEffect : ∀ index, Statement (.bufRegEffect index) := by intros; intro n w h; cases h
theorem bufRel : ∀ part ring idx, Statement (.bufRel part ring idx) := by intros; intro n w h; cases h
theorem swapAreaSet : ∀ part ring idx, Statement (.swapAreaSet part ring idx) := by intros; intro n w h; cases h
theorem evictAreaSet : ∀ part ring idx, Statement (.evictAreaSet part ring idx) := by intros; intro n w h; cases h
theorem spillAreaSet : ∀ c addr, Statement (.spillAreaSet c addr) := by intros; intro n w h; cases h
theorem tcSet : ∀ c, Statement (.tcSet c) := by intros; intro n w h; cases h
theorem frondLoad : ∀ c, Statement (.frondLoad c) := by intros; intro n w h; cases h
theorem mapCommit : ∀ c, Statement (.mapCommit c) := by intros; intro n w h; cases h
theorem placeSet : ∀ c, Statement (.placeSet c) := by intros; intro n w h; cases h
theorem release : ∀ c, Statement (.release c) := by intros; intro n w h; cases h
theorem moveAnnounce : ∀ c, Statement (.moveAnnounce c) := by intros; intro n w h; cases h
theorem hdmAccess : ∀ write addr len bytes bad, Statement (.hdmAccess write addr len bytes bad) := by intros; intro n w h; cases h
theorem cxlLinkReset : Statement (.cxlLinkReset) := by intro n w h; cases h
theorem mailboxGo : ∀ agent value, Statement (.mailboxGo agent value) := by intros; intro n w h; cases h
theorem spdmMessage : ∀ inst m, Statement (.spdmMessage inst m) := by intros; intro n w h; cases h
theorem partCreate : ∀ c, Statement (.partCreate c) := by intros; intro n w h; cases h
theorem partTeardown : ∀ c, Statement (.partTeardown c) := by intros; intro n w h; cases h
theorem keyInstall : ∀ c, Statement (.keyInstall c) := by intros; intro n w h; cases h
theorem keyRotate : ∀ c, Statement (.keyRotate c) := by intros; intro n w h; cases h
theorem sakInstall : ∀ c, Statement (.sakInstall c) := by intros; intro n w h; cases h
theorem attestReport : ∀ c, Statement (.attestReport c) := by intros; intro n w h; cases h
theorem regRead : ∀ c, Statement (.regRead c) := by intros; intro n w h; cases h
theorem mgmtMessage : ∀ m, Statement (.mgmtMessage m) := by intros; intro n w h; cases h
theorem fwUpdate : ∀ c sig, Statement (.fwUpdate c sig) := by intros; intro n w h; cases h
theorem recoveryLoad : ∀ c sig, Statement (.recoveryLoad c sig) := by intros; intro n w h; cases h
theorem enterRecovery : ∀ c, Statement (.enterRecovery c) := by intros; intro n w h; cases h
theorem cfgWrite : ∀ c, Statement (.cfgWrite c) := by intros; intro n w h; cases h
theorem cfgRead : ∀ c, Statement (.cfgRead c) := by intros; intro n w h; cases h
theorem calRead : ∀ c, Statement (.calRead c) := by intros; intro n w h; cases h
theorem calWrite : ∀ c, Statement (.calWrite c) := by intros; intro n w h; cases h
theorem recal : ∀ c, Statement (.recal c) := by intros; intro n w h; cases h
theorem lcTransition : ∀ c sig, Statement (.lcTransition c sig) := by intros; intro n w h; cases h
theorem coldReset : ∀ c, Statement (.coldReset c) := by intros; intro n w h; cases h
theorem regReadM : ∀ c, Statement (.regReadM c) := by intros; intro n w h; cases h
theorem regWriteM : ∀ c, Statement (.regWriteM c) := by intros; intro n w h; cases h
theorem pwrCap : ∀ c, Statement (.pwrCap c) := by intros; intro n w h; cases h
theorem bistRun : ∀ c, Statement (.bistRun c) := by intros; intro n w h; cases h
theorem bistTestEnd : ∀ testId e, Statement (.bistTestEnd testId e) := by intros; intro n w h; cases h
theorem bistCompatOpen : ∀ c, Statement (.bistCompatOpen c) := by intros; intro n w h; cases h
theorem bistInService : ∀ testId cap retest checkGood, Statement (.bistInService testId cap retest checkGood) := by intros; intro n w h; cases h
theorem cxlLinkTrain : ∀ partner, Statement (.cxlLinkTrain partner) := by intros; intro n w h; cases h
theorem ptpTimebaseLoad : ∀ time, Statement (.ptpTimebaseLoad time) := by intros; intro n w h; cases h
theorem hostQueueUncorrectableError : Statement (.hostQueueUncorrectableError) := by intro n w h; cases h
theorem neighborDiscovery : ∀ port second mac, Statement (.neighborDiscovery port second mac) := by intros; intro n w h; cases h
theorem jtagInstruction : ∀ ins, Statement (.jtagInstruction ins) := by intros; intro n w h; cases h
theorem doeMailboxMessage : ∀ m, Statement (.doeMailboxMessage m) := by intros; intro n w h; cases h

end Sys2Proof.Laws.NoWord
end

