-- ==== Sys2Proof/Machine/Package.lean ====
section
/-!
DEFINITION. The land grid, the pad groups and the rails of the package (R483 to R488). They are fixed: no command changes them, and
what lies on a land is State's (ports, pins of R493, the xSPI device).
-/

namespace Sys2Proof.Machine

open Sys2Proof

/-- The signal groups (Table 18.1). -/
inductive PadGroup where
  | vgTx | vgRx | cxTx | cxRx | cxSb | refclk | mge | xspi | smb | jtag | ctl | sense | power | gnd
  deriving DecidableEq, Repr

/-- The last pad index of each group, in the order of Table 18.1. -/
def padGroups : List (PadGroup × Nat) :=
  [(.vgTx, 128), (.vgRx, 256), (.cxTx, 288), (.cxRx, 320), (.cxSb, 324), (.refclk, 334), (.mge, 342), (.xspi, 354), (.smb, 359),
    (.jtag, 364), (.ctl, 373), (.sense, 395), (.power, 4207), (.gnd, 8448)]

/-- The group of a pad index (R484). -/
def padGroup (i : Nat) : Option PadGroup :=
  if i = 0 then none else (padGroups.find? fun g => decide (i ≤ g.2)).map (·.1)

/-- A rail (Table 18.3): its nominal voltage in mV, its recommended range on either side in per cent, its absolute maximum in mV, its
lands and its group in the power-up sequence. VDD_AD is given at the lowest setpoint. -/
structure Rail where
  name : String
  nominal : Nat
  percent : Nat
  maximum : Nat
  amps : Nat
  lands : Nat
  group : Nat
  deriving DecidableEq, Repr

/-- The rails in the order of Table 18.3, which is that of their power pads. -/
def rails : List Rail :=
  [⟨"VDD_AON", 750, 3, 900, 35, 64, 1⟩, ⟨"VDDIO", 1800, 5, 2000, 2, 8, 1⟩, ⟨"VDD_SOC", 750, 3, 900, 230, 400, 2⟩,
    ⟨"VDD_NI", 750, 3, 900, 140, 240, 2⟩, ⟨"VDD_MB", 750, 3, 900, 200, 360, 2⟩, ⟨"VDDA", 750, 2, 900, 60, 110, 3⟩,
    ⟨"VDDA_H", 1200, 2, 1350, 20, 40, 3⟩, ⟨"VPP", 1800, 5, 2000, 20, 40, 4⟩, ⟨"VDD_DRAM", 1050, 3, 1200, 300, 520, 5⟩,
    ⟨"VDDQ", 400, 3, 500, 190, 330, 6⟩, ⟨"VDD_AD", 650, 3, 950, 1000, 1700, 7⟩]

/-- The rail of the power pad at a place among the power pads. -/
def railAt : List Rail → Nat → Option Rail
  | [], _ => none
  | r :: rs, k => if k < r.lands then some r else railAt rs (k - r.lands)

/-- The rail of a power pad. -/
def padRail (i : Nat) : Option Rail := if padGroup i = some .power then railAt rails (i - 396) else none

/-- The VDD_AD setpoint of a fused code, in mV (R487). -/
def setpointMv (code : Nat) : Nat := 650 + 5 * code

/-- The grid positions that carry a land, in row-major order (R483). -/
def landHere (r c : Nat) : Bool :=
  decide (1 ≤ r ∧ r ≤ 96 ∧ 1 ≤ c ∧ c ≤ 96) && !decide (37 ≤ r ∧ r ≤ 60 ∧ 33 ≤ c ∧ c ≤ 64)

def rowMajor : List (Nat × Nat) := (List.range 96).flatMap fun r => (List.range 96).map fun c => (r + 1, c + 1)

/-- A power position (R485). -/
def powerPosition (r c : Nat) : Bool :=
  decide (9 ≤ r ∧ r ≤ 88 ∧ 7 ≤ c ∧ c ≤ 90) && landHere r c && decide ((r + c) % 3 ≠ 0)

/-- The position of a signal pad, 0001 to 0395 (R485). -/
def signalPosition (i : Nat) : Nat × Nat :=
  let fabric : Nat → Nat → Nat → Nat × Nat := fun k north south =>
    let l := k / 2
    (if l / 8 < 4 then north else south, 24 * (l / 8 % 4) + 3 * (l % 8) + 1 + k % 2)
  let cxl : Nat → Nat → Nat × Nat := fun k col => (25 + 3 * (k / 2) + k % 2, col)
  if i ≤ 128 then fabric (i - 1) 2 95
  else if i ≤ 256 then fabric (i - 129) 5 92
  else if i ≤ 288 then cxl (i - 257) 2
  else if i ≤ 320 then cxl (i - 289) 5
  else if i ≤ 368 then (25 + (i - 321), 93)
  else (25 + (i - 369), 95)

def powerPositions : List (Nat × Nat) := rowMajor.filter fun x => powerPosition x.1 x.2

/-- The positions that signals and power pads leave over take the ground pads. -/
def groundPositions : List (Nat × Nat) :=
  let taken := (List.range 395).map (fun i => signalPosition (i + 1)) ++ powerPositions.take 3812
  rowMajor.filter fun x => landHere x.1 x.2 && !taken.contains x

/-- The land position of a pad: row and column (R485). -/
def padPosition (i : Nat) : Option (Nat × Nat) :=
  match padGroup i with
  | none => none
  | some .power => powerPositions[i - 396]?
  | some .gnd => groundPositions[i - 4208]?
  | some _ => some (signalPosition i)

end Sys2Proof.Machine
end

