-- ==== Sys2Proof/Tests/Slice0.lean ====
section
/-!
SUPPORT. The package's own tests: the well-formedness checks each refuse an ill-formed term; arithmetic, encodings and register
values from the spec; and, for the statements that have hypotheses, a state and operands that meet them.
-/

set_option Elab.async false

namespace Sys2Proof.Tests

open Sys2Proof Sys2Proof.Machine

/-! ### Small states -/

/-- Sessions of the operator and the board on management, of the tenant of partition 0 over BAR0. -/
def sessions1 : List (Nat × Role) := [(1, .operator), (2, .board)]

/-- A node that serves: configuration lock set, the timebase loaded. -/
def on : State :=
  { State.reset with
    cocoon := { State.reset.cocoon with
      mb0 := { State.reset.cocoon.mb0 with sessions := (3, .tenant 0) :: sessions1 }
      mb1 := { State.reset.cocoon.mb1 with sessions := sessions1 } }
    boot := { State.reset.boot with locked := true, stage := 8 }
    tb := { State.reset.tb with loaded := true, locked := true, now := 5000000 } }

def opRole : MgmtCmd := ⟨.operator, 0, 1, 1, 1, 0, 0, 0, 0, []⟩
def boardRole : MgmtCmd := { opRole with role := .board, session := 2 }

/-- A header of a native packet from node 1 to node 0, its CRC good. -/
def hdr0 : NativeHdr :=
  ⟨2, 2, 0x10, 0, true, false, false, 0, 7, 1, 1, 0, 0, 0, 0, 0, 0, 0⟩

def sealHdr (h : NativeHdr) : NativeHdr := { h with hcrc := hcrcOf h }

/-! ### The well-formedness checks refuse what is ill formed -/

def badReq : Req := ⟨.fabric 16777216 0 0, 0, 0, false, false, 0, []⟩
def eth0 : EthFrame := ⟨false, 0, false, true, 0, true⟩
def badPkt : Packet := ⟨{ hdr0 with typ := 256 }, [], [], true, none⟩
def badMgmt : MgmtCmd := { opRole with port := 2 }
def badCocoon : CocoonCmd := ⟨2, .operator, []⟩

theorem test_wf_refuses_header : ([{ hdr0 with verMajor := 16 }, { hdr0 with verMinor := 16 }, { hdr0 with typ := 256 },
    { hdr0 with length := 2048 }, { hdr0 with route := 4 }, { hdr0 with tenant := 65536 }, { hdr0 with epoch := 65536 },
    { hdr0 with src := 4096 }, { hdr0 with dst := 4096 }, { hdr0 with hcrc := 256 }, { hdr0 with ingressTs := 2 ^ 32 },
    { hdr0 with mseq := 2 ^ 32 }, { hdr0 with word := 2 ^ 32 }, { hdr0 with offset := 2 ^ 40 },
    { hdr0 with conn := 2 ^ 24 }].all fun h => !h.wf) = true := by decide +kernel

theorem test_wf_refuses_packet : ([⟨hdr0, [], [0#8], true, none⟩, ⟨hdr0, [], [], true, some { eth0 with dstMac := 2 ^ 48 }⟩,
    ⟨hdr0, [], [], true, some { eth0 with udpPort := 65536 }⟩, badPkt].all fun (p : Packet) => !p.wf) = true := by decide +kernel

theorem test_wf_refuses_long_packet : ∀ bs : List Byte, bs.length = 65536 → (⟨hdr0, bs, [], true, none⟩ : Packet).wf = false := by
  intro bs h; simp [Packet.wf, h]

theorem test_wf_refuses_request : ([badReq, { badReq with origin := .fabric 0 (2 ^ 32) 0 }, { badReq with origin := .fabric 0 0 8 },
    { badReq with origin := .ring 64 0 0 }, { badReq with origin := .ring 0 8 0 }, { badReq with origin := .ring 0 0 (2 ^ 64) },
    { badReq with origin := .fabric 0 0 0, tenant := 65536 }, { badReq with origin := .fabric 0 0 0, epoch := 65536 },
    { badReq with origin := .fabric 0 0 0, arrival := 2 ^ 64 }].all fun r => !r.wf) = true := by decide +kernel

theorem test_wf_refuses_management : ([badMgmt, { opRole with role := .tenant 64 }, { opRole with session := 2 ^ 32 },
    { opRole with mseq := 2 ^ 32 }, { opRole with cmdId := 2 ^ 32 }, { opRole with arg0 := 2 ^ 32 }, { opRole with arg1 := 2 ^ 32 },
    { opRole with arg2 := 2 ^ 32 }, { opRole with arg3 := 2 ^ 32 }].all fun c => !c.wf) = true := by decide +kernel

theorem test_wf_refuses_cocoon : ([badCocoon, ⟨0, .tenant 64, []⟩].all fun (c : CocoonCmd) => !c.wf) = true := by
  decide +kernel

theorem test_wf_refuses_long_cocoon : ∀ bs : List Byte, bs.length = 65537 → (⟨0, .operator, bs⟩ : CocoonCmd).wf = false := by
  intro bs h; simp [CocoonCmd.wf, h]

theorem test_wf_refuses_links : ([.timebaseMarkerSend 8, .timebaseMarkerReceive 8 0 0 0, .timebaseMarkerReceive 0 (2 ^ 64) 0 0,
    .timebaseMarkerReceive 0 0 (2 ^ 64) 0, .timebaseMarkerReceive 0 0 0 (2 ^ 64), .linkUp 8 0 0 false, .linkUp 0 (2 ^ 256) 0 false,
    .linkUp 0 0 256 false, .linkDown 8 0, .linkDown 0 256, .ptpTimebaseLoad (2 ^ 64), .neighborDiscovery 8 false 0,
    .neighborDiscovery 0 false (2 ^ 48), .cxlLinkTrain ⟨true, false, false, 256, 0, false⟩, .portTransmit 8].all
    fun (c : Instr) => !c.wf) = true := by decide +kernel

theorem test_wf_refuses_packets : ([.packetReceive 8 0 ⟨hdr0, [], [], true, none⟩, .packetReceive 0 (2 ^ 64) ⟨hdr0, [], [], true, none⟩,
    .packetReceive 0 0 badPkt, .connOpen 0 0 badPkt, .connAccept 0 0 badPkt, .connClose 0 0 badPkt, .connClosed 0 0 badPkt,
    .rmaWrite 0 0 badPkt, .rmaWriteFinal 0 0 badPkt, .responseReceive badPkt, .connRecordFetch 4 true,
    .windowBaseAdvance 16777216, .quarantineEnd 16777216, .stallTimeout 16777216 0, .retransmitTimeout 0 (2 ^ 32),
    .messageAbandon 16777216 0, .newerEpochHoldExpire 0 (2 ^ 32), .replicaApply 16777216 0, .pageFetchReply 0 (2 ^ 32)].all
    fun (c : Instr) => !c.wf) = true := by decide +kernel

theorem test_wf_refuses_requests : ([.attDecode badReq, .attPrefill badReq, .attBackward badReq, .kvAppend badReq, .kvAppendSpec badReq,
    .specCommit badReq, .specAbort badReq, .seqOpen badReq, .seqClose badReq, .seqClone badReq, .prefixLookup badReq, .swapOut badReq,
    .swapIn badReq, .checkpoint badReq, .merge badReq, .restore badReq [], .rmaRead badReq 0 0,
    .rmaRead { badReq with origin := .fabric 0 0 0 } 1048576 0, .rmaRead { badReq with origin := .fabric 0 0 0 } 0 256].all
    fun (c : Instr) => !c.wf) = true := by decide +kernel

theorem test_wf_refuses_cache : ([.backwardHoldTimeout 12582912 0 0, .backwardHoldTimeout 0 256 0, .backwardHoldTimeout 0 0 (2 ^ 32),
    .tailDeadlineDrop 12582912, .demandSwapInDone 12582912, .rebuildPage 12582912, .placementRead 12582912 none,
    .pageFetchTimeout 12582912 0, .pageFetchTimeout 0 (2 ^ 32), .pageFree 13762560, .stageTtlExpire 13762560,
    .stagePage 12582912 0 0, .stagePage 0 (2 ^ 20) 0, .stagePage 0 0 (2 ^ 20), .directoryOperation 2 none,
    .directoryOperation 0 (some { part := 64, lc := false, op := .search 0 }),
    .directoryOperation 0 (some { part := 0, lc := false, op := .insert 0 16 0 }),
    .directoryOperation 0 (some { part := 0, lc := false, op := .insert 0 0 (2 ^ 28) }),
    .directoryOperation 0 (some { part := 0, lc := false, op := .delete 4194304 }), .directoryScrub 2 .clean, .pageTaskDone (2 ^ 64)].all
    fun (c : Instr) => !c.wf) = true := by decide +kernel

/-- Errors of a symbol that is none of the 72, of no symbol change, and twice of one symbol. -/
def badErrors : SymErrors := [(72, 1)]
def badArrivals : List PcArrival := [.ordinary 4 0]

theorem test_wf_refuses_errors : ([badErrors, [(0, 0)], [(3, 1), (3, 2)]].all fun e => !okErrors e) = true := by decide +kernel

theorem test_wf_refuses_arrivals : ([.ordinary 4 0, .fwRead 32 4480, .fwRead 0 4484, .fwRead 0 4479, .fwWrite 0 4480 128 (zeroBytes 64),
    .fwWrite 0 4480 0 [], .fwRow .zero 4 0 0 0 0 1, .fwRow .zero 0 4608 0 0 0 1, .fwRow .zero 0 0 4608 0 0 1, .fwRow .zero 0 0 0 4 0 1,
    .fwRow .zero 0 0 0 0 4608 1, .fwRow .zero 0 0 0 0 0 256].all fun (a : PcArrival) => !a.wf) = true := by decide +kernel

theorem test_wf_refuses_units : ([.sensorSample (List.replicate 129 none), .powerMeasure 65536, .fastEvent 4, .refreshDue 768 0,
    .refreshDue 0 4, .slotGrant ⟨768, []⟩, .slotGrant ⟨0, badArrivals⟩, .mossBodyEnd ⟨768, []⟩, .mossTaskDone 768, .rowCheckDone ⟨768, []⟩ [],
    .rowCheckDone ⟨0, []⟩ [(1024, [])], .rowCheckDone ⟨0, []⟩ [(0, badErrors)], .rowOperationEnd ⟨768, []⟩, .hbmScrub 768 [],
    .hbmScrub 0 badErrors, .memoryError 768 0 0 0 [] [], .memoryError 0 32 0 0 [] [], .memoryError 0 0 4608 0 [] [],
    .memoryError 0 0 0 128 [] [], .memoryError 0 0 0 0 badErrors [], .memoryError 0 0 0 0 [] [badErrors], .pageRepair 768 0 0, .pageRepair 0 32 0, .pageRepair 0 0 4608, .pcRetire 768,
    .laneErrorWindow 416 0 false, .laneErrorWindow 0 (2 ^ 32) false, .dieLost 64, .engineIssue 64,
    .corruptBlockReread 64 0 0 true true 0, .corruptBlockReread 0 13762560 0 true true 0, .corruptBlockReread 0 0 65536 true true 0,
    .corruptBlockReread 0 0 0 true true (2 ^ 32), .workItem 64 0, .workItem 0 8, .contextSwitch 64 none 0 0,
    .contextSwitch 0 (some 8) 0 0, .contextSwitch 0 none 64 0, .contextSwitch 0 none 0 (2 ^ 32), .jobPlace 4].all
    fun (c : Instr) => !c.wf) = true := by decide +kernel

theorem test_wf_refuses_partitions : ([.pageTaskCreate 64, .preemptionPass 64, .preemptRetry 64, .eviction 64, .reencryptWalk 64,
    .keySlotSwitch 64, .sqDoorbell 64 0 0, .sqDoorbell 0 8 0, .sqDoorbell 0 0 65536, .cqDoorbell 64 0 0, .ringDrainDone 0 8,
    .commandFetch 64 0 none, .nop 64 0 0, .request 0 8 0 [], .excLoad 0 0 (2 ^ 64), .progLoad 64 0 0, .progUnload 64 0 0,
    .wsetLoad 64 0 0, .wsetUnload 64 0 0, .bufReg 64 0 0, .bufRel 64 0 0, .swapAreaSet 64 0 0, .evictAreaSet 64 0 0,
    .excLoadEffect 64 0, .excLoadEffect 0 16, .bufRegEffect 1048576].all fun (c : Instr) => !c.wf) = true := by decide +kernel

theorem test_wf_refuses_commands : ([.spillAreaSet badMgmt 0, .spillAreaSet opRole (2 ^ 64), .tcSet badMgmt, .frondLoad badMgmt,
    .mapCommit badMgmt, .placeSet badMgmt, .release badMgmt, .moveAnnounce badMgmt, .fwUpdate badMgmt ⟨true, true⟩,
    .recoveryLoad badMgmt ⟨true, true⟩, .enterRecovery badMgmt, .cfgWrite badMgmt, .cfgRead badMgmt, .calRead badMgmt, .calWrite badMgmt,
    .recal badMgmt, .lcTransition badMgmt ⟨true, true⟩, .coldReset badMgmt, .regReadM badMgmt, .regWriteM badMgmt, .pwrCap badMgmt,
    .bistRun badMgmt, .bistCompatOpen badMgmt, .partCreate badCocoon, .partTeardown badCocoon, .keyInstall badCocoon,
    .keyRotate badCocoon, .sakInstall badCocoon, .attestReport badCocoon, .regRead badCocoon, .spdmMessage 2 (.other []),
    .mailboxGo (.mgmt (.tenant 64)) 0, .mailboxGo .bar0 (2 ^ 64)].all fun (c : Instr) => !c.wf) = true := by decide +kernel

theorem test_wf_refuses_registers : ([.registerWrite .bar0 (2 ^ 26) 64 (some 0), .registerWrite .bar0 0 24 none, .registerWrite .bar0 0 64 (some (2 ^ 64)),
    .registerWrite (.mgmt (.tenant 64)) 0 64 none, .dvsecSelect (2 ^ 32), .hdmAccess true (2 ^ 64) 1 [] false, .hdmAccess true 0 0 [] false,
    .hdmAccess true 32 33 [] false, .bistTestEnd 65536 ⟨⟨[], 0, 0⟩, true⟩, .bistInService 65536 ⟨[], 0, 0⟩ none true,
    .jtagInstruction (.bist 65536 0),
    .mgmtMessage { port := 2, mver := 1, mtype := 1, secured := false, session := 0, mseq := 0, payload := [] }].all
    fun (c : Instr) => !c.wf) = true := by decide +kernel


/-! ### Witnesses: states and operands that meet the hypotheses of each statement, clause by clause -/

/-- The state that a command leaves, where it leaves one. -/
def got (o : Host.Outcome State Fault Refusal) : State :=
  match o with
  | .next t => t
  | _ => State.reset

def isNext (o : Host.Outcome State Fault Refusal) : Bool :=
  match o with
  | .next _ => true
  | _ => false

theorem next_of_isNext {o : Host.Outcome State Fault Refusal} (h : isNext o = true) : ∃ t, o = .next t := by
  cases o <;> simp_all [isNext]

def setR (o v : Nat) (s : State) : State := { s with regs := mset s.regs o v }

def off : State := { State.reset with boot := { State.reset.boot with powered := false } }
def testing : State := { on with nv := { on.nv with lifecycle := .manufacture } }
def waiting1 : State := { on with pending := [.powerFrameEnd, .healthDecay] }

theorem test_met_machine : (waiting1.pending = .powerFrameEnd :: [.healthDecay] ∧ waitingWf waiting1 = true) ∧
    on.pending = [] ∧ (∀ c, c = Instr.powerFrameEnd → c ≠ .powerOn false ∧ c ≠ .jtagInstruction .internalScan) ∧
    off.boot.powered = false ∧ (testing.boot.powered = true ∧ testState testing = true) ∧
    (Instr.powerFrameEnd ≠ .powerFail ∧ ∀ good, Instr.powerFrameEnd ≠ .powerOn good) ∧
    (serving State.reset = false ∧ needsService (.connAccept 0 0 badPkt) = true) ∧ storesNothing .healthDecay = true := by
  refine ⟨⟨rfl, by decide +kernel⟩, rfl, ?_, rfl, ⟨rfl, rfl⟩, ⟨by decide, by intro g; simp⟩, ⟨by decide +kernel, rfl⟩, rfl⟩
  rintro c rfl; exact ⟨by decide, by decide⟩

theorem test_step_next : ∃ t, step waiting1 = .next t ∧ t.pending = [.healthDecay] := ⟨got (step waiting1), by rfl, by decide +kernel⟩

theorem test_memory_frame_next : ∃ t, exec .healthDecay on = .next t := ⟨_, rfl⟩

/-- Start-up: phase 1 of a cold start ends; phase 4 does not with an erased configuration memory. -/
def phase4Due : State := { State.reset with boot := { State.reset.boot with stage := 3 } }
theorem test_met_start_up :
    (off.boot.powered = false) ∧
    (State.reset.boot.powered = true ∧ State.reset.boot.recovery = false ∧ State.reset.boot.thermTrip = false ∧
      State.reset.health.stopped = false ∧ (nextPhase ⟨true, ⟨true, true⟩⟩ State.reset).2 = true) ∧
    (phase4Due.boot.powered = true ∧ phase4Due.boot.recovery = false ∧ phase4Due.boot.thermTrip = false ∧
      phase4Due.health.stopped = false ∧ (nextPhase ⟨true, ⟨true, true⟩⟩ phase4Due).2 = false) := by decide +kernel

theorem test_met_timebase_tick : on.boot.powered = true ∧ on.tb.loaded = true := by decide

/-- A port 2 that is up in native mode, and a node that follows it. -/
def native2 : State := updPort 2 (fun x => { x with upA := true, lanes := 0xFF }) (setR 0x01100000 0 on)
def follower : State :=
  { native2 with tb := { native2.tb with parent := some 2, lastMarker := 0, now := 900000000, good := 7 } }
def root : State :=
  { State.reset with
    boot := { State.reset.boot with locked := true, stage := 8 }
    regs := [(0x01809008, 0x03E80A03)] }

theorem test_met_markers :
    (native2.boot.powered = true ∧ native2.health.stopped = false ∧ nativeUp native2 2 = true ∧ (markerPort native2 2).sent = false) ∧
    (native2.tb.parent ≠ some 2 ∧ native2.tb.alternate ≠ some 2 ∧ native2.tb.loaded = true) ∧
    (follower.boot.powered = true ∧ follower.tb.locked = true ∧ isRoot follower = false ∧
      follower.tb.lastMarker + holdoverNs follower ≤ follower.tb.now) ∧
    (root.boot.powered = true ∧ root.boot.locked = true ∧ isRoot root = true ∧ ptpEn root = true ∧ root.tb.loaded = false) := by
  decide +kernel

theorem test_met_marker_sent : nativeUp (setMarkerPort 2 { lastSent := 1000, sent := true } native2) 2 = true ∧
    (markerPort (setMarkerPort 2 { lastSent := 1000, sent := true } native2) 2).lastSent + markerNs native2 ≤ native2.tb.now := by
  decide +kernel

def unlocked : State := { follower with tb := { follower.tb with locked := false } }
theorem test_met_marker_offset : follower.tb.loaded = true ∧ follower.tb.locked = true ∧ (20 : Int).natAbs ≤ 20 ∧
    20 < (-21 : Int).natAbs ∧ unlocked.tb.locked = false ∧ (-15 : Int).natAbs ≤ 15 ∧ 7 ≤ unlocked.tb.good := by decide

theorem test_offset_20_stays_locked : (takeOffset 2 20 follower).tb.locked = true ∧ (takeOffset 2 (-21) follower).tb.locked = false ∧
    (takeOffset 2 (-21) follower).tb.unlocks = 1 ∧ (takeOffset 2 (-15) unlocked).tb.locked = true ∧
    (takeOffset 2 16 unlocked).tb.locked = false := by decide +kernel

/-- Ports: port 3 in Ethernet mode 0b01 with a router record. -/
def ether3 : State :=
  let s := setR 0x01100100 1 native2
  updPort 3 (fun x => { x with upA := true, lanes := 0xFF }) { s with boot := { s.boot with routers := [(3, 0, 1)] } }

/-- Port 2 in mode 0b10, both its Ethernet ports up, with a router record for each; and port 4 in the mode of no link. -/
def twin2 : State :=
  let s := setR 0x01100000 2 on
  updPort 2 (fun x => { x with upA := true, upB := true, lanes := 0xFF })
    { s with boot := { s.boot with routers := [(2, 0, 1), (2, 1, 2)] } }
def shut4 : State := setR 0x01200000 3 on

theorem test_met_link_up :
    (portsTrain native2 = true ∧ dieLost native2 (0x28 + 2 / 2) = false ∧ portMode native2 2 = 0 ∧
      runLanes (0xF7 &&& goodLanesOf native2 2) = 0xF0 ∧ runLanes (0xEE &&& goodLanesOf native2 2) = 0 ∧
      linkVersion (2 ^ 32) = some 0x20 ∧ linkVersion (2 ^ 31) = none) ∧
    (portsTrain ether3 = true ∧ dieLost ether3 (0x28 + 3 / 2) = false ∧ portMode ether3 3 = 1 ∧
      (0xFF &&& goodLanesOf ether3 3) % 256 = 255 ∧ (0xFE &&& goodLanesOf ether3 3) % 256 ≠ 255) ∧
    (portsTrain twin2 = true ∧ dieLost twin2 (0x28 + 2 / 2) = false ∧ portMode twin2 2 = 2 ∧
      (0x0F &&& goodLanesOf twin2 2) % 16 = 15 ∧ (0xF0 &&& goodLanesOf twin2 2) / 16 % 16 = 15) ∧
    (portsTrain shut4 = true ∧ dieLost shut4 (0x28 + 4 / 2) = false ∧ portMode shut4 4 = 3) := by decide +kernel

theorem test_met_link_down :
    (native2.boot.powered = true ∧ portMode native2 2 = 0 ∧ (portOf native2 2).upA = true ∧
      runLanes (0xEE % 256 &&& goodLanesOf native2 2 &&& (portOf native2 2).lanes) = 0 ∧
      runLanes (0xF7 % 256 &&& goodLanesOf native2 2 &&& (portOf native2 2).lanes) ≠ 0) ∧
    (ether3.boot.powered = true ∧ portMode ether3 3 = 1 ∧ (0xFE % 256 &&& goodLanesOf ether3 3) % 256 ≠ 255) := by decide +kernel

theorem test_met_neighbor :
    ((portOf ether3 3).upA = true ∧ (ether3.boot.routers.any fun r => r.1 == 3 && r.2.1 == 0) = true) ∧
    ((portOf twin2 2).upA = true ∧ (portOf twin2 2).upB = true ∧ (twin2.boot.routers.any fun r => r.1 == 2 && r.2.1 == 0) = true ∧
      (twin2.boot.routers.any fun r => r.1 == 2 && r.2.1 == 1) = true) := by decide +kernel

/-- R262, R263, R276: each of the three commands runs and leaves the port as the rules say. -/
theorem test_links_run : (portOf (got (exec (.linkUp 2 (2 ^ 32) 0xF7 false) native2)) 2).lanes = 0xF0 ∧
    (portOf (got (exec (.linkUp 2 0 0xFF true) twin2)) 2).upB = true ∧ (portOf (got (exec (.linkDown 2 0xEF) native2)) 2).lanes = 0x0F ∧
    (portOf (got (exec (.neighborDiscovery 2 true 77) twin2)) 2).nextHopB = some 77 := by decide +kernel

/-- R263: a lane lost in one half leaves the other half; a lane lost in both leaves the link down. -/
theorem test_native_lanes : (portOf (settlePort 2 0xF7 native2) 2).lanes = 0xF0 ∧ (portOf (settlePort 2 0xEF native2) 2).lanes = 0x0F ∧
    (portOf (settlePort 2 0xEE native2) 2).lanes = 0 ∧ (portOf (settlePort 2 0xEE native2) 2).upA = false := by decide +kernel

/-! ### Power and thermal -/

def cool : List (Option Int) := List.replicate 116 (some (50 * 16))
def hot : List (Option Int) := List.replicate 115 (some (50 * 16)) ++ [some (105 * 16)]
def warm : List (Option Int) := List.replicate 115 (some (50 * 16)) ++ [some (105 * 16 - 1)]
def cap600 : MgmtCmd := { opRole with arg0 := 600 }

theorem test_met_power :
    (on.boot.powered = true ∧ on.boot.thermTrip = false ∧ tripSensor (sampled cool on) = none) ∧ governed on = true ∧ 3 < 4 ∧
    serving on = true ∧ (on.mgmt.portsUp = true ∧ inSession on cap600 = true ∧ cap600.role = .operator ∧ 600 ≤ cap600.arg0 ∧ cap600.arg0 ≤ 1800 ∧
      cap600.arg1 = 0 ∧ cap600.arg2 = 0 ∧ cap600.arg3 = 0 ∧ cap600.input = []) := by decide +kernel

theorem test_met_thermal_trip : tripSensor (sampled hot on) = some 115 ∧ tripSensor (sampled warm on) = none ∧
    ∃ t, exec (.sensorSample hot) on = .next t := ⟨by decide +kernel, by decide +kernel, next_of_isNext (by decide +kernel)⟩

theorem test_trip_asserts : (got (exec (.sensorSample hot) on)).boot.thermTrip = true := by decide +kernel

def core (t : Int) : List (Option Int) := some t :: List.replicate 115 (some (50 * 16))
def atStep (k : Nat) : State := { on with power := { on.power with thermNext := k } }
/-- R474 at its thresholds: 100 °C from step 0 is step 2 at once; 94 and 15/16 °C from step 2 is step 1; 95 °C keeps step 2; 50 °C
keeps step 0. -/
theorem test_met_thermal_step :
    (tripSensor (sampled (core 1600) (atStep 0)) = none ∧ (got (exec (.sensorSample (core 1600)) (atStep 0))).power.thermNext = 2) ∧
    (tripSensor (sampled (core 1519) (atStep 2)) = none ∧ (got (exec (.sensorSample (core 1519)) (atStep 2))).power.thermNext = 1 ∧
      (got (exec (.sensorSample (core 1519)) (atStep 2))).power.thermStep = 2) ∧
    (got (exec (.sensorSample (core 1520)) (atStep 2))).power.thermNext = 2 ∧
    (got (exec (.sensorSample (core 800)) (atStep 0))).power.thermNext = 0 := by decide +kernel

def busyFrame : Power := { frameSum := 6010, frameCount := 10, lowFrames := 9, pwrStep := 2 }
def lowFrame : Power := { busyFrame with frameSum := 5699 }
theorem test_met_power_step : 0 < busyFrame.frameCount ∧ 600 * busyFrame.frameCount < busyFrame.frameSum ∧
    0 < lowFrame.frameCount ∧ lowFrame.frameSum ≤ 600 * lowFrame.frameCount ∧
    powerStep busyFrame 600 = (3, 0) ∧ powerStep lowFrame 600 = (1, 0) ∧ powerStep { lowFrame with frameSum := 5700 } 600 = (2, 0) ∧
    powerStep { lowFrame with lowFrames := 8 } 600 = (2, 9) := by decide +kernel

/-! ### Wear and self-test -/

def scrubbed : State :=
  { on with mem := { on.mem with pcs := [(5, { scrubErr := some (31, 4607) })] }
            health := { on.health with pcs := [(5, { score := 17, faults := [(3, 4480)], candidate := some 2 })]
                                       lanes := [(130, { score := 1 })], dies := [(7, { score := 16 })] } }

/-- One symbol of a codeword in error. -/
def oneError : SymErrors := [(71, 0xA5#8)]

theorem test_met_wear :
    (serving scrubbed = true ∧ pcInService scrubbed 5 = true ∧ (pcCtl scrubbed 5).scrubErr = some (31, 4607) ∧
      readOutcome oneError = .correctable ∧ classify .correctable ([[]].map readOutcome) = (true, false) ∧
      isStale scrubbed 5 31 4607 = false ∧
      ((pcHealth scrubbed 5).transients.countP fun x => x.1 == 31 && x.2.1 == 4607 && decide (scrubbed.tb.now ≤ x.2.2 + dayNs)) < 3) ∧
    ((pcHealth scrubbed 5).faults.contains (3, 4480) = true ∧ hasSpare scrubbed 5 3 = true) ∧
    ((pcHealth scrubbed 5).candidate ≠ none ∧ ∀ x ∈ scrubbed.health.pcs, x.2.state ≠ .degradedKept) ∧
    (laneExists 130 = true ∧ laneIn scrubbed 130 = true ∧ laneErr scrubbed < 4000000000 ∧
      ((laneHealth scrubbed 130).retrainTimes.filter fun t => decide (scrubbed.tb.now ≤ t + dayNs)).length < 3) ∧
    (scrubbed.boot.powered = true ∧ scrubbed.health.stopped = false ∧ scrubbed.boot.thermTrip = false ∧ dieExists 7 = true ∧
      dieLost scrubbed 7 = false) := by decide +kernel

theorem test_decay_rounds_up : (pcHealth (got (exec .healthDecay scrubbed)) 5).score = 15 ∧
    (laneHealth (got (exec .healthDecay scrubbed)) 130).score = 0 ∧ (dieHealth (got (exec .healthDecay scrubbed)) 7).score = 15 ∧
    (pcHealth (got (exec .healthDecay scrubbed)) 6).score = 0 := by decide +kernel

def bist0 : MgmtCmd := { opRole with arg0 := 0x2005 }
def run0 : BistRunning := { testId := 0x2005, reference := 0#64, external := false, cmd := some bist0 }
def running0 : State := { testing with bist := { testing.bist with running := [run0] } }
theorem test_met_self_test :
    (serving testing = true ∧ testing.mgmt.portsUp = true ∧ inSession testing bist0 = true ∧ bist0.role = .operator ∧ testState testing = true ∧ runArgs bist0 = true ∧
      testClass (bist0.arg0 % 65536) < 5) ∧
    (running0.boot.powered = true ∧ running0.bist.running.find? (fun r => r.testId == 0x2005) = some run0 ∧ run0.cmd = some bist0 ∧
      testClass 0x2005 < 5) ∧
    (serving on = true ∧ on.mgmt.portsUp = true ∧ inSession on opRole = true ∧ opRole.role = .operator ∧ on.nv.lifecycle = .deployed ∧ on.parts = [] ∧ opRole.arg0 = 0 ∧ opRole.arg1 = 0 ∧
      opRole.arg2 = 0 ∧ opRole.arg3 = 0 ∧ opRole.input = []) ∧
    (testing.boot.powered = true ∧ jtagOpen testing = true ∧ testExists 0x2005 = true) := by decide +kernel

/-- Whatever the reference of a pseudo-channel's test is, one captured word passes it; the in-service run of a unit in service. -/
theorem test_met_in_service : serving on = true ∧ on.nv.lifecycle ≠ .decommissioned ∧ testExists 0x2000 = true ∧
    testClass 0x2000 < 5 ∧ testedInService on 0x2000 = true ∧ testRunsNow on 0x2000 = true ∧
    inServiceTurn on 0x2000 = true ∧ engineFree on 0x2000 = true ∧
    verdictOf (Config.misrReference 0x2000) ⟨[Config.misrReference 0x2000], 0, 0⟩ = 1 := by
  refine ⟨by decide +kernel, by decide +kernel, by decide +kernel, by decide +kernel, by decide +kernel, by decide +kernel,
    by decide +kernel, by decide +kernel, ?_⟩
  simp [verdictOf, misr, misrStep]

/-! ### Packets and connections -/

def part0 : Part := { tenant := 7, pcs := [0], wayMap := 15, quota0 := 1000, quota1 := 1000, taskQuota := 1, charge := { stop := 0 } }
def conn5 : Conn := { peer := 1, tenant := 7, part := 0, peerConn := 9, port := 2, base := 4294967295 }

/-- Partition 0 of tenant 7, epoch 3 in force, port 2 up, connection 5 from node 1 open; its window begins at MSEQ 2^32 − 1. -/
def fab0 : State :=
  { native2 with
    parts := [(0, part0)]
    epochs := { native2.epochs with mapped := true, current := 3, previous := 3 }
    fab := { native2.fab with conns := [(5, conn5)] } }

/-- A packet from node 1 to node 0 that was sent 1 µs ago. -/
def pkt (typ mseq conn : Nat) (final : Bool) (offset : Nat) (payload : List Byte) : Packet :=
  ⟨sealHdr { hdr0 with typ := typ, mseq := mseq, conn := conn, final := final, offset := offset, ingressTs := 4999000,
                       epoch := 3, length := payload.length - 1 }, payload, [], true, none⟩

def six (p : Packet) (s : State) : State := (frontChecks 2 5000000 p s).2

theorem six_reaches (p : Packet) (s : State) (h : (serving s && portOn s 2 && (frontChecks 2 5000000 p s).1) = true) :
    reachesSix 2 5000000 p s (six p s) := by
  simp only [Bool.and_eq_true] at h
  exact ⟨h.1.1, h.1.2, Prod.ext h.2 rfl⟩

def isPass : ConnCheck → Bool
  | .pass _ _ => true
  | .stop _ => false
def passBody : ConnCheck → List Byte
  | .pass b _ => b
  | .stop _ => []
def passState : ConnCheck → State
  | .pass _ s => s
  | .stop s => s
theorem pass_eta {x : ConnCheck} (h : isPass x = true) : x = .pass (passBody x) (passState x) := by
  cases x <;> simp_all [isPass, passBody, passState]

def seven (p : Packet) (s : State) : State := passState (connChecks 2 5000000 p (six p s))

/-- A packet of TYPE below 0xE0, and each control packet, passes checks 1 to 7. -/
theorem seven_passes (p : Packet) (s : State)
    (h : (serving s && portOn s 2 && (frontChecks 2 5000000 p s).1 && isPass (connChecks 2 5000000 p (six p s))) = true) :
    reachesSix 2 5000000 p s (six p s) ∧
      connChecks 2 5000000 p (six p s) = .pass (passBody (connChecks 2 5000000 p (six p s))) (seven p s) := by
  have h2 := (Bool.and_eq_true _ _).mp h
  exact ⟨six_reaches p s h2.1, pass_eta h2.2⟩

def openBody : List Byte := leBytes 8 (2 ^ 34 + 2 ^ 33) ++ leBytes 4 77 ++ leBytes 4 1000 ++ leBytes 8 1
def openPkt : Packet := pkt 0xE0 0 0 true 24 openBody

def okIs {α : Type} [DecidableEq α] (v : α) : Except Nat α → Bool
  | .ok x => decide (x = v)
  | .error _ => false
theorem ok_of_okIs {α : Type} [DecidableEq α] {v : α} {x : Except Nat α} (h : okIs v x = true) : x = .ok v := by
  cases x <;> simp_all [okIs]

theorem test_met_conn_open : reachesSix 2 5000000 openPkt fab0 (six openPkt fab0) ∧ openPkt.hdr.typ = 0xE0 ∧
    ((six openPkt fab0).fab.conns.find? fun x => !x.2.own && x.2.peer == openPkt.hdr.src && x.2.peerConn == fieldAt openBody 8 3 &&
      x.2.openerStart == fieldAt openBody 0xC 4) = none ∧
    openOutcome (six openPkt fab0) 2 openPkt.hdr openBody = .ok (0, 2, 2) ∧
    placeConn (six openPkt fab0) 0 (bitOf (fieldAt openBody 0x10 1) 1) = some (0, 1) := by
  refine ⟨six_reaches _ _ (by decide +kernel), rfl, by decide +kernel, ok_of_okIs (by decide +kernel),
    by decide +kernel⟩

def opening5 : State := { fab0 with fab := { fab0.fab with conns := [(5, { conn5 with opening := true })] } }
def closing5 : State := { fab0 with fab := { fab0.fab with conns := [(5, { conn5 with closing := true })] } }
def acceptPkt : Packet := pkt 0xE1 0 5 true 16 (leBytes 4 0x2200 ++ leBytes 4 12 ++ leBytes 8 500)
def closePkt : Packet := pkt 0xE2 0 5 true 8 (leBytes 8 0)
def closedPkt : Packet := pkt 0xE3 0 5 true 8 (leBytes 8 0)
def writePkt : Packet := pkt 0x40 4294967295 5 false 0 (List.replicate 2048 1#8)
def lastPkt : Packet := pkt 0x42 4294967295 5 true 2049 [1#8]
def requestPkt : Packet := pkt 1 4294967295 5 true 16 (leBytes 16 0)

theorem test_met_control :
    (reachesSix 2 5000000 requestPkt fab0 (six requestPkt fab0) ∧ requestPkt.hdr.typ < 0xE0 ∧
      ∃ b, connChecks 2 5000000 requestPkt (six requestPkt fab0) = .pass b (seven requestPkt fab0)) ∧
    (reachesSix 2 5000000 acceptPkt opening5 (six acceptPkt opening5) ∧ acceptPkt.hdr.typ = 0xE1 ∧
      connChecks 2 5000000 acceptPkt (six acceptPkt opening5) =
        .pass (passBody (connChecks 2 5000000 acceptPkt (six acceptPkt opening5))) (seven acceptPkt opening5) ∧
      (∃ c, conn? (seven acceptPkt opening5) acceptPkt.hdr.conn = some c ∧ c.opening = true) ∧
      (passBody (connChecks 2 5000000 acceptPkt (six acceptPkt opening5))).length = 16 ∧
      fieldAt (passBody (connChecks 2 5000000 acceptPkt (six acceptPkt opening5))) 0 1 = stOk) ∧
    (reachesSix 2 5000000 closePkt fab0 (six closePkt fab0) ∧ closePkt.hdr.typ = 0xE2 ∧
      quarantined (six closePkt fab0) closePkt.hdr = none ∧
      (∃ b, connChecks 2 5000000 closePkt (six closePkt fab0) = .pass b (seven closePkt fab0)) ∧
      ∃ c, conn? (seven closePkt fab0) closePkt.hdr.conn = some c) ∧
    (reachesSix 2 5000000 closedPkt closing5 (six closedPkt closing5) ∧ closedPkt.hdr.typ = 0xE3 ∧
      (∃ b, connChecks 2 5000000 closedPkt (six closedPkt closing5) = .pass b (seven closedPkt closing5)) ∧
      ∃ c, conn? (seven closedPkt closing5) closedPkt.hdr.conn = some c ∧ c.closing = true) := by
  have h1 := seven_passes requestPkt fab0 (by decide +kernel)
  have h2 := seven_passes acceptPkt opening5 (by decide +kernel)
  have h3 := seven_passes closePkt fab0 (by decide +kernel)
  have h4 := seven_passes closedPkt closing5 (by decide +kernel)
  refine ⟨⟨h1.1, by decide, _, h1.2⟩, ⟨h2.1, rfl, h2.2, ?_, by decide +kernel, by decide +kernel⟩,
    ⟨h3.1, rfl, by decide +kernel, ⟨_, h3.2⟩, ?_⟩, ⟨h4.1, rfl, ⟨_, h4.2⟩, ?_⟩⟩
  · exact ⟨{ conn5 with opening := true, used := 5000000 }, by decide +kernel, rfl⟩
  · exact ⟨{ conn5 with used := 5000000 }, by decide +kernel⟩
  · exact ⟨{ conn5 with closing := true, used := 5000000 }, by decide +kernel, rfl⟩

/-- A buffer of partition 0, and a slot of connection 5 in which a write is open. -/
def slotW : Slot := { first := { writePkt.hdr with typ := 0x40 }, arrival := 4999500, port := 2 }
def writing5 : State :=
  { fab0 with fab := { fab0.fab with
    conns := [(5, { conn5 with slots := [(4294967295, slotW)] })]
    bufs := [(0, { state := .valid, write := true, read := true, hbm := true, part := 0, gen := some 0, length := 4096 })] } }

theorem test_met_rma_write : ∀ p ∈ [writePkt, lastPkt], ∃ b c, reachesSix 2 5000000 p writing5 (six p writing5) ∧
    connChecks 2 5000000 p (six p writing5) = .pass b (seven p writing5) ∧ conn? (seven p writing5) p.hdr.conn = some c ∧
    preCheck (seven p writing5) c p.hdr = none ∧ (p.hdr.mseq + 2 ^ 32 - c.base) % 2 ^ 32 < 256 ∧
    mfind c.slots p.hdr.mseq = some slotW ∧ slotW.done = false ∧ sameHeader slotW.first p.hdr = true ∧
    (p.hdr.typ = 0x40 ∨ p.hdr.typ = 0x42) := by
  intro p hp
  have h := seven_passes p writing5 (by
    rcases List.mem_pair.mp hp with rfl | rfl <;> decide +kernel)
  refine ⟨_, { conn5 with slots := [(4294967295, slotW)], used := 5000000 }, h.1, h.2, ?_⟩
  rcases List.mem_pair.mp hp with rfl | rfl <;> decide +kernel

/-- A response to a message that this node sent, and a packet that waits for its record. -/
def tx3 : TxMsg := { mseq := 3, typ := 0x41, ingressTs := 4000000, lastTx := 4000000, word := 0, body := [0#8], why := .pageReply 0, sent := true }
def sent3 : State := { fab0 with fab := { fab0.fab with conns := [(5, { conn5 with tx := [tx3] })] } }
def answerPkt : Packet := pkt 0xC1 3 5 true 8 (leBytes 8 0)
def missing5 : State :=
  { fab0 with fab := { fab0.fab with
    conns := [(5, { conn5 with tier := .backing })]
    dies := [(0, { missQueue := [(2, 5000000, requestPkt)] })] } }

theorem test_met_response : (serving sent3 = true ∧ 128 ≤ answerPkt.hdr.typ ∧ answerPkt.hdr.typ < 0xE0 ∧
    (∃ c, conn? sent3 answerPkt.hdr.conn = some c ∧ answerPkt.hdr.verMajor = c.verMajor ∧ answerPkt.hdr.verMinor = c.verMinor ∧
      c.tx.find? (fun m => m.mseq == answerPkt.hdr.mseq && responseType m.typ == answerPkt.hdr.typ && m.sent) = some tx3) ∧
    answerPkt.hdr.final = true ∧ answerPkt.hdr.offset = answerPkt.payload.length) ∧
    (serving missing5 = true ∧ ∃ s1,
      firstSome (tryFetch true missing5) (((netDie missing5 0).missQueue.map fun x => x.2.2.hdr.conn).dedup) = some (5, s1)) := by
  refine ⟨⟨by decide +kernel, by decide, by decide, ⟨{ conn5 with tx := [tx3] }, by decide +kernel⟩, by decide, by decide⟩,
    by decide +kernel, ?_⟩
  have h : ((netDie missing5 0).missQueue.map fun x => x.2.2.hdr.conn).dedup = [5] := by decide +kernel
  have h2 : ((tryFetch true missing5 5).map (·.1)) = some 5 := by decide +kernel
  rw [h]
  cases h3 : tryFetch true missing5 5 with
  | none => simp [h3] at h2
  | some x => exact ⟨x.2, by simp [firstSome, h3] at h2 ⊢; exact Prod.ext h2 rfl⟩

/-- An unanswered message 1 ms after its transmission, and the same message when the packet lifetime has passed. -/
def late3 : State := { sent3 with tb := { sent3.tb with now := 4000000 + pltNs sent3 } }
def heldSlot : Slot := { slotW with waiting := true, arrival := 0 }
def held5 : State := { fab0 with fab := { fab0.fab with conns := [(5, { conn5 with slots := [(4294967295, heldSlot)] })] } }
def behind : Slot := { slotW with first := { writePkt.hdr with ingressTs := 0 } }
def baseDue : State :=
  { fab0 with
    tb := { fab0.tb with now := pltNs fab0 + skewNs fab0 }
    fab := { fab0.fab with conns := [(5, { conn5 with slots := [(0, behind)] })] } }

theorem test_met_connection_timers :
    (serving baseDue = true ∧ ∃ c, conn? baseDue 5 = some c ∧ baseMoves baseDue c = true ∧ mfind c.slots c.base = none) ∧
    (serving sent3 = true ∧ (∃ c, conn? sent3 5 = some c ∧ c.tx.find? (fun x => x.mseq == 3) = some tx3) ∧ tx3.sent = true ∧
      notYetSent sent3 5 3 = false ∧ retxNs sent3 ≤ sent3.tb.now - tx3.lastTx ∧
      (sent3.tb.now + 2 ^ 32 - tx3.ingressTs) % 2 ^ 32 < pltNs sent3) ∧
    (serving late3 = true ∧ (∃ c, conn? late3 5 = some c ∧ c.tx.find? (fun x => x.mseq == 3) = some tx3) ∧
      notYetSent late3 5 3 = false ∧ pltNs late3 ≤ (late3.tb.now + 2 ^ 32 - tx3.ingressTs) % 2 ^ 32 ∧ tx3.why ≠ .opening ∧
      tx3.why ≠ .closing) ∧
    (serving held5 = true ∧ (∃ c, conn? held5 5 = some c ∧ mfind c.slots 4294967295 = some heldSlot) ∧ heldSlot.waiting = true ∧
      heldSlot.done = false ∧ heldSlot.arrival + holdNs held5 ≤ held5.tb.now) := by
  refine ⟨⟨by decide +kernel, { conn5 with slots := [(0, behind)] }, by decide +kernel⟩,
    ⟨by decide +kernel, ⟨{ conn5 with tx := [tx3] }, by decide +kernel⟩, by decide +kernel⟩,
    ⟨by decide +kernel, ⟨{ conn5 with tx := [tx3] }, by decide +kernel⟩, by decide +kernel⟩,
    ⟨by decide +kernel, ⟨{ conn5 with slots := [(4294967295, heldSlot)] }, by decide +kernel⟩, by decide +kernel⟩⟩

def badHcrc : Packet := { requestPkt with hdr := { requestPkt.hdr with hcrc := (requestPkt.hdr.hcrc + 1) % 256 } }
theorem test_met_hcrc : serving fab0 = true ∧ portOn fab0 2 = true ∧
    linkCheck (updPort 2 (fun x => { x with rxPkts := sat64 (x.rxPkts + 1) }) (touch 5000000 fab0)) 2 badHcrc = true ∧
    badHcrc.hdr.hcrc ≠ hcrcOf badHcrc.hdr := by decide +kernel

/-- R267: the edges of the lifetime check: an age of PLT + SKEW fails, one less passes; SKEW ahead passes, one more fails. -/
def aged (t : Nat) : NativeHdr := { hdr0 with ingressTs := t }
theorem test_lifetime_edges : let l := pltNs fab0 + skewNs fab0
    alive fab0 l (aged 0) = false ∧ alive fab0 (l - 1) (aged 0) = true ∧ alive fab0 0 (aged (skewNs fab0)) = true ∧
    alive fab0 0 (aged (skewNs fab0 + 1)) = false ∧ (aged 0).ingressTs < 2 ^ 32 := by decide +kernel

/-- The window of connection 5 begins at 2^32 − 1: MSEQ 254 is its last slot, 255 lies ahead of it, and 2^32 − 2 behind. -/
def ahead : NativeHdr := { requestPkt.hdr with mseq := 255 }
def late : NativeHdr := { requestPkt.hdr with mseq := 4294967294 }
def done5 : State :=
  { fab0 with fab := { fab0.fab with conns := [(5, { conn5 with slots := [(4294967295, { slotW with done := true, status := 0 })] })] } }
theorem test_met_window :
    conn? fab0 5 = some conn5 ∧ preCheck fab0 conn5 ahead = none ∧ preCheck fab0 conn5 late = none ∧
    256 ≤ (ahead.mseq + 2 ^ 32 - conn5.base) % 2 ^ 32 ∧ (ahead.mseq + 2 ^ 32 - conn5.base) % 2 ^ 32 < 2 ^ 31 ∧
    2 ^ 31 ≤ (late.mseq + 2 ^ 32 - conn5.base) % 2 ^ 32 ∧
    (254 + 2 ^ 32 - conn5.base) % 2 ^ 32 < 256 ∧
    (∃ c sl, conn? done5 5 = some c ∧ preCheck done5 c requestPkt.hdr = none ∧
      (requestPkt.hdr.mseq + 2 ^ 32 - c.base) % 2 ^ 32 < 256 ∧ mfind c.slots requestPkt.hdr.mseq = some sl ∧ sl.done = true) := by
  refine ⟨by decide +kernel, by decide +kernel, by decide +kernel, by decide +kernel, by decide +kernel, by decide +kernel,
    by decide +kernel, { conn5 with slots := [(4294967295, { slotW with done := true, status := 0 })] }, { slotW with done := true, status := 0 }, ?_⟩
  decide +kernel

theorem test_met_new_connection : newId fab0 0 0 true = some 0 ∧ 1 < 4 ∧ homeFor fab0 0 = 1 := by decide +kernel


/-! ### Requests -/

theorem some_getD {α : Type} {x : Option α} (d : α) (h : x.isSome = true) : x = some (x.getD d) := by
  cases x <;> simp_all
def isOk {α ε : Type} : Except ε α → Bool
  | .ok _ => true
  | .error _ => false
def okD {α ε : Type} (d : α) : Except ε α → α
  | .ok x => x
  | .error _ => d
theorem ok_eta {α ε : Type} {x : Except ε α} (d : α) (h : isOk x = true) : x = .ok (okD d x) := by
  cases x <;> simp_all [isOk, okD]
def isFound (m : Nat) : Named → Bool
  | .found k lc _ => k == m && !lc
  | .ended _ => false
def foundState : Named → State
  | .found _ _ s => s
  | .ended s => s
theorem found_eta {m : Nat} {x : Named} (h : isFound m x = true) : x = .found m false (foundState x) := by
  cases x <;> simp_all [isFound, foundState]

/-- A request of opcode `op` that the intake takes, and that no gate turns away. -/
def admits (s : State) (n op : Nat) (r : Req) (names : List Nat) : Bool :=
  serving s && reqPart s r == some n && (intake n op r s).1 && reqPart (atRun s n op r) r == some n &&
    (gate (atRun s n op r) n r op names).isNone
theorem admits_admitted {s : State} {n op : Nat} {r : Req} {names : List Nat} (h : admits s n op r names = true) :
    admitted s n op r names (atRun s n op r) := by
  simp only [admits, Bool.and_eq_true, beq_iff_eq, Option.isNone_iff_eq_none] at h
  exact ⟨⟨h.1.1.1.1, h.1.1.1.2, h.1.1.2⟩, rfl, h.1.2, h.2⟩

/-- Request `body` of connection 5, complete 500 ns ago. -/
def req (mseq : Nat) (body : List Byte) : Req := ⟨.fabric 5 mseq 2, 7, 3, false, false, 4999500, body⟩
/-- `fab0` with directory segment 0 in partition 0 and both directory dies ready. -/
def segs : State :=
  { fab0 with dir := { fab0.dir with segOwn := [(0, 0)], dd0 := { ready := true }, dd1 := { ready := true } } }
/-- SEQ_OPEN of sequence 1: one group of one layer with one KV head of 64 BF16 elements. -/
def openB : List Byte := leBytes 8 1 ++ leBytes 8 1 ++ ([0, 1, 0, 0, 1, 0].map (BitVec.ofNat 8)) ++ leBytes 2 64 ++ zeroBytes 24
def openR : Req := req 4294967295 openB
def seq1 : State := got (exec (.seqOpen openR) segs)
/-- `n` elements of 1.0 in BF16. -/
def ones (n : Nat) : List Byte := (List.replicate n [0x80#8, 0x3F#8]).flatten
/-- KV_APPEND of one token of ones at position 0, and KV_APPEND_SPEC of the same at position 0 under tag 9. -/
def appendB (tag : Nat) : List Byte :=
  leBytes 8 1 ++ leBytes 2 0 ++ leBytes 2 1 ++ leBytes 4 0 ++ zeroBytes 16 ++ leBytes 8 tag ++ zeroBytes 8 ++ ones 128
def appendR : Req := req 0 (appendB 0)
def specR : Req := { req 0 (appendB 9) with spec := true }
def token1 : State := got (exec (.kvAppend appendR) seq1)
def tail1 : State := got (exec (.kvAppendSpec specR) seq1)
/-- An attention request for one query row of ones that reads position 0, and the gradient block of a backward one. -/
def attB : List Byte :=
  leBytes 8 1 ++ leBytes 2 0 ++ leBytes 2 0 ++ leBytes 2 1 ++ leBytes 2 1 ++ leBytes 2 1 ++ leBytes 1 0 ++ leBytes 1 2 ++
    leBytes 4 1 ++ leBytes 4 0x3F800000 ++ leBytes 4 0 ++ zeroBytes 12 ++ leBytes 2 0xFFFF ++ leBytes 1 1 ++ leBytes 1 0 ++
    zeroBytes 16
def attR : Req := req 1 (attB ++ ones 64)
def bwdR : Req := req 1 (attB ++ leBytes 8 0 ++ leBytes 8 0 ++ ones 128 ++ zeroBytes 16)

/-- The states and values that an attention request of opcode `op` passes through. -/
def attT (op : Nat) (r : Req) : State := atRun token1 0 op r
def attS (op : Nat) (r : Req) : State := foundState (nameSeq r op 0 1 0 (attT op r))
def desc0 : Desc := { tenant := 0, layerGroup := 0, part := 0, seqId := 0 }
def attD (op : Nat) (r : Req) : Desc := (desc? (attS op r) 0).getD desc0
def noReading : Reading := ⟨⟨false, 0, 0, 0, 0, 0⟩, none, none, []⟩
def attX (op : Nat) (r : Req) : Reading := (readingOf false (attS op r) 0 (attBlock r.body) none (attD op r)).getD noReading
def attHi (op : Nat) (r : Req) : Nat := snapshot (attD op r) (attX op r) + tailSeen (attD op r) op (attBlock r.body) r.arrival
def attRanges (op : Nat) (r : Req) := readRanges (attD op r) (attBlock r.body) (attX op r) (attHi op r)
def attReady (op : Nat) (r : Req) :=
  pagesReady r op 0 (attRanges op r) (touchedEntries (attD op r) (attX op r) (positions (attRanges op r)))
    ⟨snapshot (attD op r) (attX op r), tailSeen (attD op r) op (attBlock r.body) r.arrival,
      attViews (attD op r) (attBlock r.body) (attX op r) (attHi op r)⟩ (attS op r)
def attS2 (op : Nat) (r : Req) : State := okD State.reset (attReady op r)
def attD2 (op : Nat) (r : Req) : Desc := (desc? (attS2 op r) 0).getD desc0
def attHeads (op : Nat) (r : Req) := readHeads (attS2 op r) (attD2 op r) (attBlock r.body) (attX op r) (attHi op r) (attX op r).heads

/-- The conditions that both kinds of attention request share, for one request of each opcode. -/
def attMeets (op : Nat) (r : Req) : Bool :=
  admits token1 0 op r [1] && decide (hookOf (attT op r) 0 op (attBlock r.body) = some none) && attBytesOk op r &&
  isFound 0 (nameSeq r op 0 1 0 (attT op r)) && (desc? (attS op r) 0).isSome &&
  (readingOf false (attS op r) 0 (attBlock r.body) none (attD op r)).isSome &&
  decide (pathOf (attS op r) op (attBlock r.body) (attD op r) (attX op r) = some false) &&
  headsOk (attBlock r.body) (attX op r).geo && attThetaOk (attD op r) (attBlock r.body) (attX op r) &&
  decide (r.body.length = attLength op (attBlock r.body) (attX op r).geo) &&
  decide ((attBlock r.body).qpos + (attBlock r.body).rows - 1 ≤ 0xFFFFFFFE) &&
  ringPosOk (attBlock r.body) (snapshot (attD op r) (attX op r)) (attD op r) (attX op r) && isOk (attReady op r) &&
  (desc? (attS2 op r) 0).isSome && isOk (attHeads op r) && !r.lc && (attBlock r.body).seq == 1 && (attBlock r.body).lg == 0

theorem test_met_attention_decode : attMeets 1 attR = true ∧ (keptTagAnswer attR 1 0 (attBlock attR.body).tag (attS 1 attR)).isNone = true ∧
    (forwardAll (attBlock attR.body) (attX 1 attR) (okD [] (attHeads 1 attR)) (attArrays 1 (attBlock attR.body) (attX 1 attR).geo
      attR.body)).isSome = true := by decide +kernel

theorem test_met_attention_prefill : attMeets 2 attR = true ∧
    (forwardAll (attBlock attR.body) (attX 2 attR) (okD [] (attHeads 2 attR)) (attArrays 2 (attBlock attR.body) (attX 2 attR).geo
      attR.body)).isSome = true := by decide +kernel

theorem test_met_backward : attMeets 3 bwdR = true ∧ bwdHead bwdR.body = ⟨0, false, 0, 0⟩ ∧
    bwdTurn (attS 3 bwdR) 0 (attBlock bwdR.body).layer (bwdHead bwdR.body).index = .apply ∧
    accFits (attS2 3 bwdR) (backwardNeeds (attS2 3 bwdR) (attD2 3 bwdR) 0 (attBlock bwdR.body) (attX 3 bwdR)
      (okD [] (attHeads 3 bwdR)) bwdR.body) = true ∧
    (backwardRows (attBlock bwdR.body) (attX 3 bwdR) (okD [] (attHeads 3 bwdR)) bwdR.body).isSome = true := by decide +kernel

/-- What `attMeets` says, in the words of the statements. -/
theorem attMeets_spec {op : Nat} {r : Req} (h : attMeets op r = true) :
    admitted token1 0 op r [(attBlock r.body).seq] (attT op r) ∧ hookOf (attT op r) 0 op (attBlock r.body) = some none ∧
    attBytesOk op r = true ∧
    nameSeq r op 0 (attBlock r.body).seq (attBlock r.body).lg (attT op r) = .found 0 false (attS op r) ∧
    desc? (attS op r) 0 = some (attD op r) ∧
    readingOf false (attS op r) 0 (attBlock r.body) none (attD op r) = some (attX op r) ∧
    pathOf (attS op r) op (attBlock r.body) (attD op r) (attX op r) = some false ∧
    headsOk (attBlock r.body) (attX op r).geo = true ∧ attThetaOk (attD op r) (attBlock r.body) (attX op r) = true ∧
    r.body.length = attLength op (attBlock r.body) (attX op r).geo ∧
    (attBlock r.body).qpos + (attBlock r.body).rows - 1 ≤ 0xFFFFFFFE ∧
    ringPosOk (attBlock r.body) (snapshot (attD op r) (attX op r)) (attD op r) (attX op r) = true ∧
    attReady op r = .ok (attS2 op r) ∧ desc? (attS2 op r) 0 = some (attD2 op r) ∧
    attHeads op r = .ok (okD [] (attHeads op r)) ∧ r.lc = false := by
  simp only [attMeets, Bool.and_eq_true, decide_eq_true_eq, beq_iff_eq, Bool.not_eq_true'] at h
  obtain ⟨⟨⟨⟨⟨⟨⟨⟨⟨⟨⟨⟨⟨⟨⟨⟨⟨h1, h2⟩, h3⟩, h4⟩, h5⟩, h6⟩, h7⟩, h8⟩, h9⟩, h10⟩, h11⟩, h12⟩, h13⟩, h14⟩, h15⟩, h16⟩, h17⟩, h18⟩ := h
  rw [h17, h18]
  exact ⟨admits_admitted h1, h2, h3, found_eta h4, some_getD _ h5, some_getD _ h6, h7, h8, h9, h10, h11, h12, ok_eta _ h13,
    some_getD _ h14, ok_eta _ h15, h16⟩

/-- One key alone (R113, R118): m is the score 64 x log2(e), l is 1 and o the value row, 64 elements of 1.0. -/
theorem test_one_key : ((got (exec (.attDecode attR) token1)).sched.runs.map fun x => x.2.body.drop 32) =
    [[0x3B#8, 0xAA#8, 0xB8#8, 0x42#8] ++ (List.replicate 65 [0#8, 0#8, 0x80#8, 0x3F#8]).flatten] := by decide +kernel

/-! ### Appends and tails -/

def appT (op : Nat) (r : Req) : State := atRun seq1 0 op r
def appS (op : Nat) (r : Req) : State := foundState (nameSeq r op 0 1 0 (appT op r))
def appD (op : Nat) (r : Req) : Desc := (desc? (appS op r) 0).getD desc0
def appPlans (op : Nat) (r : Req) := plansOf (appS op r) (appendHead r.body) (appD op r) r.body
def appSpace (op : Nat) (r : Req) :=
  appendSpace r op 0 (appPlans op r) (writtenEntries (appD op r) (appPlans op r)) false (appS op r)

theorem test_met_appends : ∀ x ∈ [(4, appendR), (5, specR)],
    (desc? (appS x.1 x.2) 0 = some (appD x.1 x.2) ∧ earlierHeld (appS x.1 x.2) x.2 = false ∧
      changePending (appS x.1 x.2) 0 = false ∧
      appendGeometry (appendHead x.2.body) (appD x.1 x.2) x.2.body.length = true ∧
      wrongClass (appS x.1 x.2) (appD x.1 x.2) (appPlans x.1 x.2) = false ∧
      (appendHead x.2.body).first + (appendHead x.2.body).count ≤ 0xFFFFFFFF ∧
      viewHolds (appS x.1 x.2) 0 (appendHead x.2.body).layer (appendHead x.2.body).first
        ((appendHead x.2.body).first + (appendHead x.2.body).count) = false) ∧
    admitted seq1 0 x.1 x.2 [(appendHead x.2.body).seq] (appT x.1 x.2) ∧
    nameSeq x.2 x.1 0 (appendHead x.2.body).seq (appendHead x.2.body).lg (appT x.1 x.2) = .found 0 false (appS x.1 x.2) ∧
    appSpace x.1 x.2 = .ok (okD State.reset (appSpace x.1 x.2)) := by
  intro x hx
  have h : (admits seq1 0 x.1 x.2 [(appendHead x.2.body).seq] &&
      isFound 0 (nameSeq x.2 x.1 0 (appendHead x.2.body).seq (appendHead x.2.body).lg (appT x.1 x.2)) &&
      decide ((appendHead x.2.body).seq = 1 ∧ (appendHead x.2.body).lg = 0) && isOk (appSpace x.1 x.2)) = true ∧
      ((desc? (appS x.1 x.2) 0).isSome = true ∧ earlierHeld (appS x.1 x.2) x.2 = false ∧
      changePending (appS x.1 x.2) 0 = false ∧
      appendGeometry (appendHead x.2.body) (appD x.1 x.2) x.2.body.length = true ∧
      wrongClass (appS x.1 x.2) (appD x.1 x.2) (appPlans x.1 x.2) = false ∧
      (appendHead x.2.body).first + (appendHead x.2.body).count ≤ 0xFFFFFFFF ∧
      viewHolds (appS x.1 x.2) 0 (appendHead x.2.body).layer (appendHead x.2.body).first
        ((appendHead x.2.body).first + (appendHead x.2.body).count) = false) := by
    rcases List.mem_pair.mp hx with rfl | rfl <;> decide +kernel
  obtain ⟨h, h5, h6⟩ := h
  simp only [Bool.and_eq_true, decide_eq_true_eq] at h
  obtain ⟨⟨⟨h1, h2⟩, h3, h4⟩, h7⟩ := h
  refine ⟨⟨some_getD _ h5, h6⟩, admits_admitted h1, ?_, ok_eta _ h7⟩
  have h8 := found_eta h2
  rw [h3, h4] at h8 ⊢
  exact h8

theorem test_met_append_forms :
    (appendBytesOk false appendR.body = true ∧ (appD 4 appendR).chrysalis = none ∧
      ∀ st ∈ (layerStreams (appD 4 appendR) 0).filterMap ((appD 4 appendR).streams[·]?), st.tokens = 0) ∧
    (appendBytesOk true specR.body = true ∧ (keptTagAnswer specR 5 0 9 (appS 5 specR)).isNone = true ∧
      specPosOk (appD 5 specR) (appendHead specR.body) = true ∧
      decide (16 < tailCount (appD 5 specR) (appendHead specR.body).layer + (appendHead specR.body).count) = false) := by
  decide +kernel

/-- R46, R214: a token appended stands in both streams; a token of the tail is not one of TOKENS. -/
theorem test_append_grows : ((desc? token1 0).map fun d => d.streams.map (·.tokens)) = some [1, 1] ∧
    ((desc? tail1 0).map fun d => d.streams.map (·.tokens)) = some [0, 0] ∧
    ((desc? tail1 0).bind (·.chrysalis)) = some ⟨0, [1]⟩ := by decide +kernel

/-- SPEC_COMMIT of one token and SPEC_ABORT, of tag 9. -/
def commitR : Req := { req 1 (leBytes 8 1 ++ leBytes 2 0 ++ leBytes 6 1 ++ leBytes 8 9) with spec := true }
def abortR : Req := { req 1 (leBytes 16 1 ++ leBytes 8 9) with spec := true }
def tailT (op : Nat) (r : Req) : State := atRun tail1 0 op r
def tailS (op : Nat) (r : Req) : State := foundState (nameSeq r op 0 1 0 (tailT op r))

theorem test_met_tail : ∀ x ∈ [(6, commitR, 16), (7, abortR, 0)],
    (admits tail1 0 x.1 x.2.1 [fieldAt x.2.1.body 0 5] = true ∧ fieldAt x.2.1.body 0 5 = 1 ∧ fieldAt x.2.1.body 8 1 = 0 ∧
      specBytesOk x.2.1.body x.2.2 = true ∧ isFound 0 (nameSeq x.2.1 x.1 0 1 0 (tailT x.1 x.2.1)) = true) ∧
    ((desc? (tailS x.1 x.2.1) 0).bind (·.chrysalis)) = some ⟨0, [1]⟩ ∧
    ((desc? (tailS x.1 x.2.1) 0).map (·.specTag)) = some (fieldAt x.2.1.body 0x10 8) ∧ earlierHeld (tailS x.1 x.2.1) x.2.1 = false ∧
    changePending (tailS x.1 x.2.1) 0 = false ∧
    (x.1 = 6 → (keptTagAnswer x.2.1 6 0 9 (tailS x.1 x.2.1)).isNone = true ∧ fieldAt x.2.1.body 0xA 2 ≤ 1) := by decide +kernel

/-- R217: a commit of the whole tail leaves one token and no tail; an abort leaves none. -/
theorem test_commit_abort : ((desc? (got (exec (.specCommit commitR) tail1)) 0).map fun d => (d.streams.map (·.tokens), d.chrysalis)) =
      some ([1, 1], none) ∧
    ((desc? (got (exec (.specAbort abortR) tail1)) 0).map fun d => (d.streams.map (·.tokens), d.chrysalis)) =
      some ([0, 0], none) := by decide +kernel

/-! ### Sequences -/

def closeR : Req := req 0 (leBytes 8 1 ++ leBytes 8 1 ++ leBytes 8 0)
def cloneR : Req := req 1 (leBytes 8 1 ++ leBytes 8 2 ++ leBytes 4 1 ++ leBytes 4 1 ++ leBytes 8 0)
def lookupR : Req := req 1 (leBytes 8 1 ++ leBytes 2 0 ++ leBytes 2 0 ++ leBytes 4 1 ++ leBytes 4 1 ++ leBytes 4 0 ++ leBytes 8 77)

theorem test_met_open : admits segs 0 0x10 openR [1] = true ∧ openBytesOk (atRun segs 0 0x10 openR) 0 openB = true ∧
    (∀ g ∈ sortBy (fun a b => decide (a.group ≤ b.group)) (groupRecs openB),
      keyExists (atRun segs 0 0x10 openR) 0 (seqKey 7 1 g.group) = false) ∧
    fieldAt openB 8 1 ≤ dirFree (atRun segs 0 0x10 openR) 0 ∧
    (openAll 0 (bitOf (fieldAt openB 9 1) 0) ((sortBy (fun a b => decide (a.group ≤ b.group)) (groupRecs openB)).map
      (newDesc (atRun segs 0 0x10 openR) 0 7 1 4999500)) (atRun segs 0 0x10 openR)).isSome = true := by decide +kernel

def closeX := closeTargets 0 7 1 [0] (atRun seq1 0 0x11 closeR)
theorem test_met_close : admits seq1 0 0x11 closeR [1] = true ∧ closeGroups closeR.body = some [0] ∧
    isOk closeX.1 = true ∧ closeX.2.fab.clones = [] := by decide +kernel

def cloneT : State := atRun token1 0 0x12 cloneR
def cloneX := cloneSources cloneR 0 1 [0] cloneT
def cloneS1 : State := (okD ([], State.reset) cloneX).2
theorem test_met_clone : admits token1 0 0x12 cloneR [1, 2] = true ∧ cloneGroups cloneR.body = some [0] ∧ isOk cloneX = true ∧
    (okD ([], State.reset) cloneX).1 = [0] ∧ ((desc? cloneS1 0).any fun d => cloneable d 1) = true ∧
    keyExists cloneS1 0 (seqKey 7 2 0) = false ∧ cloningKey cloneS1 0 (seqKey 7 2 0) = false ∧ 1 ≤ dirFree cloneS1 0 ∧
    cloneFetching 1 [0] cloneS1 = none ∧ cloneMissing 1 [0] (confirmClone 3 1 [0] cloneS1) = none ∧
    (cloneAll 1 2 4999500 [0] (confirmClone 3 1 [0] cloneS1)).isSome = true := by decide +kernel

def lookT : State := atRun token1 0 0x13 lookupR
def lookS : State := foundState (nameSeq lookupR 0x13 0 1 0 lookT)
theorem test_met_lookup : admits token1 0 0x13 lookupR [1] = true ∧ lookupBytesOk lookupR.body = true ∧
    isFound 0 (nameSeq lookupR 0x13 0 1 0 lookT) = true ∧
    ((desc? lookS 0).any fun d => (d.streams[0]?).any fun st =>
      isOk (lookupHashes 3 0 0 0 7 (lookupList lookupR.body) (lookupAttaches lookupR.body d st) lookS)) = true := by decide +kernel

/-- R92, R76: the key of a closed sequence is gone; that of a cloned one is there beside it once the copy of its last page, a ROWCOPY
that the clone has queued, is made. -/
def cloning : State := got (exec (.seqClone cloneR) token1)
theorem test_close_clone : keyExists (got (exec (.seqClose closeR) seq1)) 0 (seqKey 7 1 0) = false ∧
    keyExists cloning 0 (seqKey 7 2 0) = false ∧ cloning.fab.clones.length = 1 ∧
    (cloning.mem.pcs.map fun x => x.2.rowQ.map fun c => (c.op, c.issuer)) = [[(.copyOther, .clone), (.copyOther, .clone)]] ∧
    keyExists (cloning.fab.copies.foldl (fun s c => copyMade c s) cloning) 0 (seqKey 7 1 0) = true ∧
    keyExists (cloning.fab.copies.foldl (fun s c => copyMade c s) cloning) 0 (seqKey 7 2 0) = true := by decide +kernel

/-- A clone that has nothing to copy is there at once. -/
def cloneR0 : Req := req 1 (leBytes 8 1 ++ leBytes 8 2 ++ leBytes 4 0 ++ leBytes 4 1 ++ leBytes 8 0)
theorem test_clone_empty : keyExists (got (exec (.seqClone cloneR0) seq1)) 0 (seqKey 7 2 0) = true ∧
    (got (exec (.seqClone cloneR0) seq1)).fab.clones = [] := by decide +kernel

/-! ### Swap, merge and images -/

/-- `token1` with the host link up, a swap area of four slots, and buffer 0. -/
def swapper : State :=
  { token1 with
    parts := [(0, { part0 with swapArea := some { base := 65536, slots := 4 } })]
    host := { token1.host with up := true, cxl := true }
    fab := { token1.fab with bufs := writing5.fab.bufs } }
def swapBytes (flags : Nat) : List Byte := leBytes 8 1 ++ leBytes 1 0 ++ leBytes 1 flags ++ leBytes 2 0xFFFF ++ leBytes 4 0 ++ leBytes 8 0xFFFFFFFF
def outR : Req := req 1 (swapBytes 0)
def inR (hint : Nat) : Req := req 1 (swapBytes hint)
def swT (op : Nat) (r : Req) : State := atRun swapper 0 op r
def swS (op : Nat) (r : Req) : State := foundState (nameSeq r op 0 1 0 (swT op r))

theorem test_met_swap_out : admits swapper 0 0x20 outR [1] = true ∧ swapBodyOk outR.body true = true ∧
    isFound 0 (nameSeq outR 0x20 0 1 0 (swT 0x20 outR)) = true ∧
    ((desc? (finishDemands 0 (swS 0x20 outR)) 0).any fun d =>
      d.chrysalis.isNone && !anyFetching d (swapOutPages (finishDemands 0 (swS 0x20 outR)) outR.body d) &&
      decide ((swapOutPages (finishDemands 0 (swS 0x20 outR)) outR.body d).length ≤
        (swapSlotsFor (finishDemands 0 (swS 0x20 outR)) 0 (swapOutPages (finishDemands 0 (swS 0x20 outR)) outR.body d).length).length)) =
      true := by decide +kernel

theorem test_met_swap_in : ∀ h ∈ [0, 1], admits swapper 0 0x21 (inR h) [1] = true ∧ swapBodyOk (inR h).body false = true ∧
    isFound 0 (nameSeq (inR h) 0x21 0 1 0 (swT 0x21 (inR h))) = true ∧ swapHint (inR h).body = decide (h = 1) ∧
    (desc? (swS 0x21 (inR h)) 0).isSome = true ∧
    ((desc? (finishDemands 0 (swS 0x21 (inR h))) 0).any fun d =>
      (allocForSwap 0 (swapInPages (finishDemands 0 (swS 0x21 (inR h))) (inR h).body d)
        (finishDemands 0 (swS 0x21 (inR h)))).any fun x => !(swapInAll 0 x.1 x.2).1.2) = true := by decide +kernel

/-- MERGE of two tuples of one row and head, D = 64: (m, l, o) = (1, 1, zeros) twice. -/
def mergeB : List Byte :=
  leBytes 2 2 ++ leBytes 2 1 ++ leBytes 2 1 ++ leBytes 2 64 ++ leBytes 8 0 ++
    (List.replicate 2 (leBytes 4 0x3F800000 ++ leBytes 4 0x3F800000 ++ zeroBytes 256)).flatten
def mergeR : Req := req 0 mergeB
theorem test_met_merge : admits fab0 0 0x30 mergeR [] = true ∧ mergeOk mergeR.body = true ∧ mergeR.lc = false := by decide +kernel

/-- R131: equal m merge to the same m and the sum of the l, 2.0. -/
theorem test_merge_adds : (sliceBytes (mergeAnswer mergeB) 32 8) = leBytes 4 0x3F800000 ++ leBytes 4 0x40000000 := by decide +kernel

/-- CHECKPOINT of the empty sequence 1, into buffer 0 of this node or into one of node 1. -/
def ckptB (node : Nat) : List Byte := leBytes 2 node ++ leBytes 2 1 ++ leBytes 12 0 ++ leBytes 16 1
def ckptR (node : Nat) : Req := req 0 (ckptB node)
def ckptS : State := { seq1 with fab := { seq1.fab with bufs := writing5.fab.bufs } }
def ckT (node : Nat) : State := atRun ckptS 0 0x22 (ckptR node)
def ckX (node : Nat) := ckptSources (ckptR node) 0 (ckptKeys (ckptB node)) (ckT node)
def ckImage (node : Nat) := buildImage 0 7 ((part? (ckT node) 0).bind (·.ckptSecret)) [0] (okD ([], State.reset) (ckX node)).2

theorem test_met_checkpoint : ∀ node ∈ [0, 1], admits ckptS 0 0x22 (ckptR node) ((ckptKeys (ckptB node)).map (·.1)) = true ∧
    ckptOk (ckptB node) = true ∧ isConf (ckT node) 0 = false ∧ isOk (ckX node) = true ∧
    (okD ([], State.reset) (ckX node)).1 = [0] ∧ fetchingPage (okD ([], State.reset) (ckX node)).2 0 = false ∧
    (ckImage node).1.1.length ≤ 2 ^ 36 ∧
    (node = 0 → fieldAt (ckptB node) 0 2 % 4096 = nodeId (ckT node) ∧
      bufferCheck (ckImage node).2 0 0x42 (fieldAt (ckptB node) 4 3) (fieldAt (ckptB node) 7 1) (ckImage node).1.1.length = none) ∧
    (node = 1 → fieldAt (ckptB node) 0 2 % 4096 ≠ nodeId (ckT node) ∧
      (connOrOpen 0 (fieldAt (ckptB node) 0 2 % 4096) (ckImage node).2).isSome = true) := by decide +kernel

/-- RESTORE of that image from node 1 into a partition that does not have the sequence. -/
def image : List Byte := (ckImage 0).1.1
def restoreR : Req := req 4294967295 (leBytes 8 1 ++ leBytes 8 image.length)
def rsT : State := atRun segs 0 0x23 restoreR
def rsX := readSections false (fieldAt image 4 2) ((imageBody rsT 0 image.length image).drop (64 * fieldAt image 6 2))

set_option maxRecDepth 20000 in
theorem test_met_restore : admits segs 0 0x23 restoreR [] = true ∧ restoreR.body.length = 16 ∧
    fieldAt restoreR.body 0 2 % 4096 ≠ nodeId rsT ∧ fieldAt restoreR.body 8 5 = image.length ∧
    sliceBytes image 0 image.length = image ∧ imageHeadOk image image.length = true ∧ bitOf (fieldAt image 1 1) 0 = isConf rsT 0 ∧
    imageSealed rsT 0 image.length image = true ∧ fieldAt image 2 2 = 7 ∧
    64 * fieldAt image 6 2 ≤ (imageBody rsT 0 image.length image).length ∧
    tablesOk rsT 0 (fieldAt image 6 2) (imageBody rsT 0 image.length image) = true ∧
    (rsX.any fun xs => xs.length == 1 && (xs.all fun x => x.desc.tenant == 7 && !keyExists rsT 0 (seqKey 7 x.desc.seqId x.desc.layerGroup) &&
        x.good && x.pages.all (·.good)) &&
      decide (xs.length ≤ dirFree rsT 0) && (restoreAll 0 4999500 xs rsT).isSome) = true := by decide +kernel

/-- RESTORE of that image from buffer 0 of this node, which lies in page 9. -/
def localS : State := hbmWrite (pageAddr 9) image { segs with fab := { segs.fab with bufs :=
  [(0, { state := .valid, write := true, read := true, hbm := true, part := 0, gen := some 0, length := 4096, pages := [9] })] } }
def localR : Req := req 4294967295 (leBytes 8 0 ++ leBytes 8 image.length)
def lcT : State := atRun localS 0 0x23 localR
def lcU : State := (bufferRead 0 0 image.length lcT).2
def lcX := readSections false (fieldAt image 4 2) ((imageBody lcU 0 image.length image).drop (64 * fieldAt image 6 2))
set_option maxRecDepth 20000 in
theorem test_met_restore_local : admits localS 0 0x23 localR [] = true ∧ localR.body.length = 16 ∧
    fieldAt localR.body 0 2 % 4096 = nodeId lcT ∧ fieldAt localR.body 8 5 = image.length ∧
    bufferCheck lcT 0 0x41 (fieldAt localR.body 4 3) (fieldAt localR.body 7 1) image.length = none ∧
    (bufferRead 0 0 image.length lcT).1 = image ∧ bitOf (fieldAt image 1 1) 0 = isConf lcU 0 ∧
    imageSealed lcU 0 image.length image = true ∧
    64 * fieldAt image 6 2 ≤ (imageBody lcU 0 image.length image).length ∧
    tablesOk lcU 0 (fieldAt image 6 2) (imageBody lcU 0 image.length image) = true ∧
    (lcX.any fun xs => xs.length == 1 && (xs.all fun x => x.desc.tenant == 7 && !keyExists lcU 0 (seqKey 7 x.desc.seqId x.desc.layerGroup) &&
        x.good && x.pages.all (·.good)) &&
      decide (xs.length ≤ dirFree lcU 0) && (restoreAll 0 4999500 xs lcU).isSome) = true := by decide +kernel

def readR : Req := req 1 (leBytes 8 0 ++ leBytes 8 4096)
def readT : State := takeRequest readR swapper
theorem test_met_rma_read : serving swapper = true ∧ reqPart readT readR = some 0 ∧ (gate readT 0 readR 0x41 []).isNone = true ∧
    readR.body.length = 16 ∧ 1 ≤ fieldAt readR.body 8 4 ∧ fieldAt readR.body 8 4 ≤ 1073741824 ∧
    bufferCheck readT 0 0x41 0 0 (fieldAt readR.body 0 5 + fieldAt readR.body 8 4) = none := by decide +kernel

/-! ### Requests that wait -/

def heldB : HeldBwd := ⟨5, { bwdR with arrival := 0 }, 1, []⟩
def set0 : AccSet := { mdb := 0, layer := 0, next := 4, held := [heldB] }
def waiting2 : State :=
  { token1 with
    tb := { token1.tb with now := 10000000 }
    accSets := [set0]
    staging := [(9, { mdb := 0, stream := 0, serial := 0, refIdx := none, slot := 0, epoch := 3, at_ := 0, part := 0 })]
    fab := { token1.fab with
      heldAppends := [⟨appendR, 4⟩], demand := [⟨0, []⟩], ahead := [(0, 0, 0)], stalled := [⟨attR, 1, 0, 1, none⟩] } }
theorem test_met_waiting : serving waiting2 = true ∧ accSet? waiting2 0 0 = some set0 ∧
    set0.held.find? (fun h => h.index == 5 && decide (h.req.arrival + 10000000 ≤ waiting2.tb.now)) = some heldB ∧
    (pickHeld waiting2 [] waiting2.fab.heldAppends) = some (⟨appendR, 4⟩, []) ∧ (∃ x ∈ waiting2.fab.demand, x.mdb = 0) ∧
    (0, 0, 0) ∈ waiting2.fab.ahead ∧
    ((mfind waiting2.staging 9).any fun x => decide (x.at_ + stageTtlNs waiting2 x.part ≤ waiting2.tb.now)) = true ∧
    ((waiting2.fab.stalled.find? fun x => match x.req.origin with | .fabric c q _ => c == 5 && q == 1 | _ => false).any fun x =>
      decide (x.req.arrival + 50000 ≤ waiting2.tb.now)) = true := by decide +kernel


/-! ### The pool, epochs and the directory -/

/-- Partition 0 below its low watermark, with no candidate to take, and one page that awaits ROWZERO. -/
def lowPart : Part := { part0 with passDue := true, lowWm := 18432, highWm := 18432 }
def poor : State :=
  { fab0 with parts := [(0, lowPart)], pages := [(0, { use := .zeroing, part := 0 })], host := { fab0.host with up := true, cxl := true } }
def starving : State := { poor with parts := [(0, { lowPart with starved := true })] }
def evicting : State :=
  { swapper with regs := (0x00403000, 2 ^ 63 + 0x7FFFFF * 2 ^ 32 + 0x7FFFFF) :: swapper.regs, parts := [(0, { part0 with evictArea := some { base := 0, buckets := 1024 } })] }

theorem test_met_pool :
    (serving poor = true ∧ part? poor 0 = some lowPart ∧ lowPart.passDue = true ∧ lowPart.lowWm ≠ 0 ∧ lowPart.starved = false ∧
      partFree poor 0 < lowWm lowPart) ∧
    ((part? starving 0).map (·.starved) = some true ∧ partFree starving 0 < lowWm lowPart ∧ lowWm lowPart ≤ highWm lowPart) ∧
    (serving evicting = true ∧ bitOf (regWord evicting 0x00403000) 63 = true ∧ (part? evicting 0).isSome = true ∧
      hostUsable evicting = true ∧ dirFree evicting 0 < bitsOf (regWord evicting 0x00403000) 22 0) ∧
    (mfind poor.pages 0 = some { use := .zeroing, part := 0 } ∧ zeroQueued poor 0 = false) := by decide +kernel

/-- A MAP_COMMIT input: epoch 4, one shard record; its CRC. -/
def commitHead : List Byte := leBytes 1 1 ++ leBytes 1 0 ++ leBytes 2 4 ++ leBytes 2 0 ++ leBytes 2 1 ++ leBytes 52 0
def commitTail : List Byte := leBytes 16 0
def commitB : List Byte := commitHead ++ leBytes 4 (crc32cAt (commitHead ++ leBytes 4 0 ++ commitTail) 0x3C) ++ commitTail
def commitC : MgmtCmd := { opRole with input := commitB }
def announceB : List Byte := leBytes 2 4 ++ leBytes 2 0 ++ leBytes 4 1 ++ leBytes 8 0 ++ leBytes 2 7 ++ leBytes 2 0 ++ leBytes 4 1 ++ leBytes 8 1
def announceC : MgmtCmd := { opRole with input := announceB }
def placeB : List Byte := leBytes 8 0 ++ leBytes 2 0 ++ leBytes 62 0
def placeC : MgmtCmd := { opRole with input := placeB }
/-- A frond table image: a period of 20 slots, one admission entry of partition 0, its start 100 µs ahead. -/
def frondHead : List Byte :=
  leBytes 2 1 ++ leBytes 2 20 ++ leBytes 2 1 ++ leBytes 2 (chunkMax on 0) ++ leBytes 4 9 ++ leBytes 4 0 ++ leBytes 8 5100000 ++ leBytes 36 0
def frondTail : List Byte := leBytes 16 (20 * 1024 + 2 * 2 ^ 20)
def frondB : List Byte := frondHead ++ leBytes 4 (crc32cAt (frondHead ++ leBytes 4 0 ++ frondTail) 0x3C) ++ frondTail
def frondC : MgmtCmd := { opRole with input := frondB }

def due3 : Commit := ⟨0, 3, true, none, none, [], [], []⟩
def steward : State :=
  { fab0 with
    parts := [(0, { part0 with steward := true, placement := List.range 64 }), (1, { part0 with tenant := 8, drain := 2 })]
    epochs := { fab0.epochs with pending := [due3], graceEnd := some 5000000 }
    fronds := { fab0.fronds with shadowValid := true, bank1 := some (frondImage frondB) }
    tb := { fab0.tb with now := 5100000 } }

theorem test_met_epochs :
    (serving steward = true ∧ steward.epochs.pending = [due3] ∧ steward.epochs.graceEnd = some 5000000 ∧ 5000000 ≤ steward.tb.now ∧
      shadowTable steward = some (frondImage frondB) ∧ steward.tb.loaded = true ∧ (frondImage frondB).start ≤ steward.tb.now) ∧
    (steward.mgmt.portsUp = true ∧ inSession steward commitC = true ∧ inSession steward placeC = true ∧ commitC.role = .operator ∧ commitOk steward commitC.input = true ∧
      firstCommit steward = false ∧ newerEpoch (fieldAt commitC.input 2 2) (lastEpoch steward) = true) ∧
    (announceOk announceC.input = true ∧
      (descsOfSeq token1 7 1 false) = [0] ∧ hasSet token1 0 = false ∧ (serving token1 = true ∧ token1.mgmt.portsUp = true ∧ inSession token1 announceC = true)) ∧
    (placeOk placeC.input = true ∧ (part? steward (fieldAt placeC.input 0 1)).any (fun p => p.steward && decide (64 ≤ p.placement.length)) = true) ∧
    ((part? steward 1).map (·.drain) = some 2) ∧
    (on.mgmt.portsUp = true ∧ serving on = true ∧ inSession on frondC = true ∧ frondC.role = .operator ∧ frondRefusal on frondC.input = none) := by decide +kernel

/-- R309: a table that starts sooner than 100 µs ahead is refused, NOT_PERMITTED, and kept out of the shadow bank. -/
theorem test_late_table : frondRefusal { on with tb := { on.tb with now := 5000001 } } frondB = some (5, stNotPermitted) := by
  decide +kernel

/-- A search at the head of DD0's queue; and the same of a partition that has a segment on DD1 too, whose search goes on there. -/
def dirWork : State := { segs with dir := { segs.dir with dd0 := { segs.dir.dd0 with queue := [{ req := ⟨0, false, .search 0#96⟩ }] } } }
def dirBoth : State := { dirWork with dir := { dirWork.dir with segOwn := [(0, 0), (128, 0)] } }
def dirSettled (s : State) : State :=
  let settle := fun (d : Nat) (s : State) =>
    updDirDie d (fun y => { y with stopped := y.stopped.filter fun n => decide (4096 ≤ y.wait.countP fun w => w.part == n) })
      (admitAll d (dirDie s d).wait.length s)
  settle 1 (settle 0 s)
theorem test_met_directory : (∀ s ∈ [dirWork, dirBoth], serving s = true ∧ (dirDie s 0).ready = true ∧
      (dirDie (dirSettled s) 0).queue = [{ req := ⟨0, false, .search 0#96⟩ }] ∧ insertPassing (dirSettled s) = false) ∧
    cascaded (dirSettled dirWork) ⟨0, false, .search 0#96⟩ = false ∧ cascaded (dirSettled dirBoth) ⟨0, false, .search 0#96⟩ = true ∧
    regWord dirWork (0x00400000 + 0 % 2 * 0x200000) % 2 = 1 ∧ regWord dirWork (0x00400000 + 1 % 2 * 0x200000) % 2 = 1 := by
  decide +kernel

/-- R83 to R90: of equal keys the higher priority wins, and of equal priorities the lower address; an insert of a key that is there
writes nothing. -/
def twoKeys : State :=
  { segs with dir := { segs.dir with entries := [(3, dirWord 1#96 8 30), (5, dirWord 1#96 9 50), (6, dirWord 1#96 9 60), (40000, dirWord 1#96 15 70)] } }
theorem test_search : (dirSearch twoKeys 0 1#96).map (fun x => (x.1, x.2.pri, x.2.data)) = some (5, 9#4, 50#28) ∧ (dirSearch twoKeys 0 2#96).isNone = true ∧
    (dirInsert 0 1#96 8 1 twoKeys).isNone = true ∧ ((dirInsert 0 2#96 8 1 twoKeys).map (·.1)) = some 0 := by decide +kernel

theorem test_met_insert : ((dirInsert 0 2#96 8 1 twoKeys).any fun x =>
    (mfind twoKeys.dir.entries x.1).isNone && mget 64 twoKeys.dir.segOwn (x.1 / segSize) == 0) = true := by decide +kernel

/-! ### DRAM and the cores -/

/-- A Moss task of 40 steps: one query row of 64 elements against the 40 key rows of page 0, in bank group 0. -/
def task0 : PageTask := ⟨0, 0, 0, 0, 0, [(0, 40)], true, false, 1, 64, 40, [], []⟩
def rowZero : RowCmd := { op := .zero, issuer := .pageFree, dstRow := 3, mask := 255 }
def rowCopy : RowCmd := { op := .copySame, issuer := .clone, dstRow := 3, mask := 255 }
def dram (c : PcCtl) : State :=
  { on with mem := { on.mem with pcs := [(0, c)] }, sched := { on.sched with tasks := [(1, task0)] }
            parts := [(0, { part0 with pcs := [0] })] }
def mossWaits : State := dram { mossQ := [(1, 40)] }

theorem test_met_dram_refresh : mossWaits.boot.powered = true ∧ 3 ≤ mossWaits.boot.stage ∧
    bgBusy mossWaits (pcCtl mossWaits 0) 0 = true ∧ dueOf (pcCtl mossWaits 0) 0 < 4 ∧ bgBusy mossWaits (pcCtl mossWaits 0) 1 = false ∧
    4 ≤ dueOf (pcCtl (dram { due := [(0, 4)] }) 0) 0 := by decide +kernel

theorem test_met_dram_grant :
    ((pcCtl (dram { ordinary := [(0, 1)] }) 0).body = .idle ∧ (pcCtl (dram { ordinary := [(0, 1)] }) 0).ordinary ≠ []) ∧
    ((pcCtl (dram { due := [(2, 4)] }) 0).ordinary = [] ∧
      (pcCtl (dram { due := [(2, 4)] }) 0).due.find? (fun x => decide (4 ≤ x.2)) = some (2, 4)) ∧
    ((pcCtl mossWaits 0).body = .idle ∧ (pcCtl mossWaits 0).ordinary = [] ∧ (∀ y ∈ (pcCtl mossWaits 0).due, y.2 < 4) ∧
      nextSlot mossWaits (pcCtl mossWaits 0) = some (.moss 1 40)) := by decide +kernel

theorem test_met_dram_ends :
    ((pcCtl (dram { body := .moss 1 16 0, mossCur := some (1, 16) }) 0).body = .moss 1 16 0 ∧
      task? (dram { body := .moss 1 16 0, mossCur := some (1, 16) }) 1 = some task0) ∧
    ((pcCtl (dram { mossCur := some (1, 0) }) 0).mossCur = some (1, 0) ∧ task? (dram { mossCur := some (1, 0) }) 1 = some task0) ∧
    ((pcCtl (dram { body := .row rowCopy }) 0).body = .row rowCopy ∧ rowCopy.passed < (rowSources rowCopy).length) ∧
    ((pcCtl (dram { body := .row rowZero }) 0).body = .row rowZero ∧ (rowSources rowZero).length ≤ rowZero.passed) ∧
    (serving (dram {}) = true ∧ pcInService (dram {}) 0 = true ∧ pcQuiet (pcCtl (dram {}) 0) = true ∧
      isStale (dram {}) 0 0 0 = false) := by decide +kernel

/-- R204: the code corrects any three symbols of the 72, data or check, and finds four. -/
def fourErrors : SymErrors := [(0, 1#8), (7, 0x80#8), (64, 0xFF#8), (71, 3#8)]
theorem test_code : readOutcome (fourErrors.take 3) = .correctable ∧ readOutcome fourErrors = .uncorrectable ∧
    readOutcome [] = .clean := by decide +kernel

/-- R204: three corrected symbols leave the data that was written. -/
theorem test_code_corrects :
    decodedData ((List.range 64).map fun i => BitVec.ofNat 8 i) (fourErrors.take 3) = (List.range 64).map fun i => BitVec.ofNat 8 i := by
  decide +kernel

/-- R207: firmware's read of a code-stale row is refused and counted; a read of another row is queued. -/
def staleRow : State := { dram {} with mem := { (dram {}).mem with stale := [(0, 3, 4481)] } }
theorem test_stale_read : (mfind (got (exec (.slotGrant ⟨0, [.fwRead 3 4481, .fwRead 3 4480]⟩) staleRow)).mem.dies 0).map (·.staleReads) = some 1 ∧
    (pcCtl (got (exec (.slotGrant ⟨0, [.fwRead 3 4481, .fwRead 3 4480]⟩) staleRow)) 0).ordinary = [(0, 1)] := by decide +kernel

/-- A job of partition 0 on core 1 with an engine command, a page to create a task for, and an item; and one that waits. -/
def plan0 : TaskPlan := { page := 0, mdb := 0, stream := 0, views := [(0, 64)], moss := false, keyElems := 64, rows := 1, pageRows := 64 }
def job1 : Job := { run := 0, part := 0, lc := false, group := 0, engine := true, rows := 1, elems := 64, frames := [0],
                    plan := [plan0], queue := [(none, .stat)], items := [.intake], core := some 1, placed := 1 }
def job2 : Job := { job1 with core := none, frames := [] }
def atlas : PageTask := ⟨0, 7, 1, 0, 0, [(0, 64)], false, false, 1, 64, 64, [], []⟩
def coreState : State :=
  { on with
    parts := [(0, part0)]
    sched := { on.sched with jobs := [(1, job1), (2, job2)], cores := [(1, { jobs := [1] })], tasks := [(4, atlas), (5, { atlas with page := 8, cmds := [(.mma .bf16 64, 1)] })] } }

theorem test_met_cores :
    (serving coreState = true ∧ issueCycle (noteOverruns coreState) 1 = some 12500000 ∧
      chooseCmd (noteOverruns coreState) 1 12500000 = some (1, job1, .stat)) ∧
    ((placeable coreState 0).isSome = true) ∧
    ((nextTaskJob coreState 0) = some (1, job1) ∧ part? coreState 0 = some part0 ∧ job1.plan ≠ [] ∧
      tasksInUse coreState 0 < part0.taskQuota * 4096) ∧
    (task? coreState 4 = some atlas ∧ atlas.moss = false ∧ taskIssued coreState 4 atlas = true) ∧
    (7 < 8 ∧ coreState.tb.now % 1000 < 250 * (4 - coreState.power.clockStep) ∧
      chooseItem (noteOverruns coreState) 1 = some (1, job1)) ∧
    ((part? coreState 0).isSome = true) ∧
    (coreState.sched.tasks.find? (taskReads coreState 1 7) = some (4, atlas)) := by decide +kernel

/-- R236: a STAT of 64 cycles keeps the engine of its core until it ends; a tag of another partition counts a miss (R232). -/
theorem test_engine : (coreOf (got (exec (.engineIssue 1) coreState)) 1).busyUntil = 12500064 ∧
    (coreOf (got (exec (.engineIssue 1) coreState)) 1).beCmds = 1 ∧
    ((mfind (got (exec (.engineIssue 1) coreState)).sched.attDies 0).map (·.tagMiss)) = some 1 := by decide +kernel


/-! ### Replication and keys -/

/-- A REBUILD_END of sequence 1 that lies in an inbox, and a PAGE_FETCH reply; the primary's record of a replica on node 1. -/
def inboxed (bytes : List Byte) : State :=
  hbmWrite (pageAddr 40) bytes { seq1 with fab :=
    { seq1.fab with
      bufs := [(4096, { state := .valid, write := true, hbm := true, part := 0, length := 65536, pages := [40], firmware := true })]
      inboxDue := [(5, 3, 4096, bytes.length)] } }
def replBytes (flags : Nat) : List Byte := leBytes 1 3 ++ leBytes 1 flags ++ leBytes 2 7 ++ leBytes 4 0 ++ leBytes 8 1 ++ zeroBytes 48
def synced : State :=
  updDesc 0 (fun d => { d with repl := { d.repl with
    node := some 1, state := .rebuild, unread := true, fetches := [(2, 0, 0, 0)] } }) { seq1 with tb := { seq1.tb with now := 2 ^ 31 } }
def queued0 : State :=
  updDesc 0 (fun d => { d with repl := { d.repl with node := some 1, state := .absent, queued := true } }) seq1

theorem test_met_replication :
    (∀ f ∈ [0, 4], serving (inboxed (replBytes f)) = true ∧ inboxFind (inboxed (replBytes f)) 5 3 = some (5, 3, 4096, 64) ∧
      isReply (bufferRead 4096 0 64 (inboxed (replBytes f))).1 = decide (f = 4)) ∧
    (serving synced = true ∧ ((desc? synced 0).any fun d => decide (d.repl.fetches.find? (fun f => f.1 == 2) = some (2, 0, 0, 0)) &&
        decide (d.repl.state = .rebuild) && d.repl.unread) = true ∧ 0 + pltNs synced + skewNs synced ≤ synced.tb.now ∧ fetchUnsent synced 0 2 = false) ∧
    (serving queued0 = true ∧ rebuilding queued0 < rebuildPar queued0 ∧ rebuildHead queued0 = some (0, false) ∧
      (desc? queued0 0).isSome = true) := by decide +kernel

/-- A confidential partition whose walk has a page to re-encrypt, and one whose rotation becomes active at the next tick. -/
def keyPart : Part :=
  { part0 with
    conf := true, walking := true
    slots := [{ state := .retiring, key := some 1 }, { state := .active, key := some 2 }, {}, {}]
    rotateTo := some (2, 4999999, badCocoon) }
def walker : State := { token1 with parts := [(0, keyPart)], cocoon := { token1.cocoon with approved := true } }
def tenant0 (payload : List Byte) : CocoonCmd := ⟨0, .tenant 0, payload⟩
def coc (code : Nat) (params : List Byte) : List Byte := leBytes 2 code ++ leBytes 2 0 ++ leBytes 4 params.length ++ params
def keyB : List Byte := leBytes 8 1 ++ leBytes 32 5
def rotB : List Byte := leBytes 8 0
def sakB : List Byte := leBytes 1 7 ++ leBytes 1 1 ++ leBytes 1 3 ++ leBytes 1 1 ++ leBytes 60 0

theorem test_met_keys :
    (serving walker = true ∧ part? walker 0 = some keyPart ∧ keyPart.walking = true ∧
      (if keyPart.walkWindow = walker.tb.now / 1000000 then keyPart.walkTaken else 0) < walkPages walker 0 ∧
      nextRef walker keyPart (activeSlot keyPart) = none ∧ (nextOwn walker 0 (activeSlot keyPart)).isSome = true) ∧
    (keyPart.rotateTo = some (2, 4999999, badCocoon)) ∧
    (walker.boot.powered = true ∧ walker.health.stopped = false ∧ cocoonServes walker = true ∧ roleHeld walker (tenant0 (coc 0x8000 keyB)) = true ∧
      roleHeld walker ⟨0, .operator, coc 0x8000 sakB⟩ = true ∧
      cocoonParams (tenant0 (coc 0x8000 keyB)) 40 = some keyB ∧ (fieldAt keyB 0 1 = 1 ∨ fieldAt keyB 0 1 = 2) ∧
      allZero (sliceBytes keyB 1 7) = true ∧ (part? walker 0).isSome = true ∧ walker.cocoon.erased = false) ∧
    (cocoonParams (tenant0 (coc 0x8000 rotB)) 8 = some rotB ∧ fieldAt rotB 0 1 = 0 ∧ fieldAt (coc 0x8000 rotB) 8 1 = 0 ∧
      allZero (rotB.drop 1) = true ∧ keyPart.rotateTo.isSome = true ∧ { keyPart with rotateTo := none }.rotateTo = none) ∧
    (cocoonParams ⟨0, .operator, coc 0x8000 sakB⟩ 64 = some sakB ∧ fieldAt sakB 0 1 < 8 ∧ fieldAt sakB 1 1 < 2 ∧ fieldAt sakB 2 1 < 4 ∧
      fieldAt sakB 3 1 < 2 ∧ fieldAt sakB 20 4 = 0 ∧ fieldAt sakB 3 1 ≠ 0) := by decide +kernel

/-! ### Traffic and registers -/

def tcC (flags sel : Nat) : MgmtCmd := { opRole with arg0 := flags, arg1 := sel, arg2 := 262143, arg3 := 16777215 }
/-- A port with one packet to send, its response to `openR`. -/
theorem test_met_traffic :
    (serving fab0 = true ∧ fab0.mgmt.portsUp = true ∧ inSession fab0 (tcC 7 448) = true ∧ (tcC 7 448).role = .operator ∧ (tcC 7 448).arg0 < 8 ∧ (tcC 7 448).arg2 < 262144 ∧
      (tcC 7 448).arg3 < 16777216 ∧ bitOf (tcC 7 448).arg0 0 = true ∧ (tcC 7 448).arg1 < 512 ∧
      (part? fab0 ((tcC 7 448).arg1 % 64)).isSome = true) ∧
    (bitOf (tcC 2 1031).arg0 0 = false ∧ bitOf (tcC 2 1031).arg0 2 = false ∧ (tcC 2 1031).arg1 < 1032 ∧
      (policerPart 1031).all (fun n => (part? fab0 n).isSome) = true) ∧
    (serving seq1 = true ∧ portMode seq1 2 ≠ 3 ∧
      ((choosePacket seq1 2).any fun x => ((egressOf seq1 (egressKey 2 x.1))[x.2]?).isSome) = true) := by decide +kernel

def linked : State := { fab0 with host := { fab0.host with up := true, cxl := true } }
def wr (off : Nat) (v : Nat) : MgmtCmd := { opRole with arg1 := off, input := leBytes 8 v }
def rd (off words : Nat) : MgmtCmd := { opRole with arg1 := off, arg2 := words }
def regB : List Byte := leBytes 4 0x18 ++ leBytes 2 1 ++ leBytes 2 0
def approved : State := { fab0 with cocoon := { fab0.cocoon with approved := true } }

theorem test_met_registers :
    (mayAccess linked .bar0 = true ∧ 0x3FFFFFC < 0x4000000 ∧ wellPlaced 0x3FFFFFC 32 = true ∧ wellPlaced 0x3FFFFFC 64 = false) ∧
    (linked.boot.powered = true ∧ linked.boot.recovery = false ∧ linked.host.up = true) ∧
    (mgmtReach fab0 = true ∧ inSession fab0 (wr 0x3FFFFF8 0) = true ∧ inSession fab0 (rd 0x3FFFC00 128) = true ∧ mgmtAllowed fab0 .operator 0x7B 0 0x3FFFFF8 0 = true ∧ (wr 0x3FFFFF8 0).input.length = 8 ∧
      (wr 0x3FFFFF8 0).arg1 + 8 ≤ 0x4000000 ∧ (wr 0x3FFFFF8 0).arg1 % 8 = 0) ∧
    (mgmtAllowed fab0 .operator 0x7A 0 0x3FFFC00 128 = true ∧ (rd 0x3FFFC00 128).arg1 + 8 * 128 ≤ 0x4000000) ∧
    (approved.boot.powered = true ∧ approved.health.stopped = false ∧ cocoonServes approved = true ∧ roleHeld approved (tenant0 (coc 0x8000 regB)) = true ∧
      cocoonParams (tenant0 (coc 0x8000 regB)) 8 = some regB ∧ (part? approved 0).isSome = true ∧ fieldAt regB 0 4 % 8 = 0 ∧
      1 ≤ fieldAt regB 4 2 ∧ fieldAt regB 4 2 ≤ 512 ∧ fieldAt regB 6 2 = 0 ∧ fieldAt regB 0 4 + 8 * fieldAt regB 4 2 ≤ 0x4000000) := by
  decide +kernel

/-- The clauses of the register rule: a read-only word, a locked register after lock, and one written before lock. -/
def early : State := { on with boot := { on.boot with locked := false } }
theorem test_met_register_rule : mayAccess on (.mgmt .board) = true ∧ mayAccess early (.mgmt .board) = true ∧
    wellPlaced 0x01809004 64 = false ∧ wellPlaced 0x01809008 64 = true ∧ instOf 0x01809008 0x00100000 0x40 1024 = none ∧
    0x00400000 ≤ 0x01809008 ∧ ((rwlReg (canonOffset 0x01809008)).any fun r => r.2 &&& (writtenBits 0x01809008 64 1).1 != 0) = true ∧
    instOf 0x00 0x00100000 0x40 1024 = none ∧ rwlReg (canonOffset 0x00) = none ∧ on.boot.locked = true ∧ early.boot.locked = false ∧
    ((rwlReg (canonOffset 0x01809008)).any fun r => r.2 &&& (writtenBits 0x0180900C 32 1).1 == 0) = true := by decide +kernel

/-! ### Rings -/

def fetched (code arg0 : Nat) (input : Option (List Byte)) : Fetched :=
  { idx := 0, code := code, fence := false, intr := false, cmdId := 1, addr := 65536, len := 64, arg0 := arg0, outAddr := 0, outLen := 0,
    args := [0, 0, 0, 0, 0], input := input, fetchTs := 4999000 }
/-- Partition 0 with ring 7 enabled, one command fetched, and its control page 50. -/
def ringPart : Part :=
  { part0 with
    progQuota := 64
    progs := [{ number := 3, image := [] }]
    wsets := [{ id := 2, layers := 1, heads := 1, qn := 64, l := 1, image := [] }] }
def ringed (x : Fetched) : State :=
  { linked with
    parts := [(0, ringPart)]
    dir := segs.dir
    host :=
      { linked.host with
        select := select20
        ctlPages := [(0, 50)]
        rings := [(7, { enabled := true, tail := 2, sqPages := [51], cqPages := [52], fetched := [x] })] } }
def noped : State := ringed (fetched 1 0 none)
/-- Its ring descriptor enables the pair. -/
def enabling : State := hbmWrite (pageAddr 50 + 64 * 7) [1#8] noped
/-- The same pair not yet enabled; and one that drains, with nothing fetched. -/
def fresh : State := { enabling with host := { enabling.host with rings := [] } }
def drained : State := { noped with host := { noped.host with rings := [(7, { enabled := true, draining := true })] } }
/-- A NOP entry waits in slot 0 of the ring. -/
def nopEntry : State :=
  hbmWrite (pageAddr 51) (leBytes 64 1)
    { noped with host := { noped.host with rings := [(7, { enabled := true, tail := 1, sqPages := [51], cqPages := [52] })] } }

/-- A REQUEST entry of PREFIX_LOOKUP waits there. -/
def requestEntry : State :=
  hbmWrite (pageAddr 51) (leBytes 2 0x10 ++ leBytes 2 0 ++ leBytes 4 9 ++ leBytes 8 65536 ++ leBytes 4 1 ++ leBytes 4 (0x13 + 3 * 65536) ++ zeroBytes 40)
    { noped with host := { noped.host with rings := [(7, { enabled := true, tail := 1, sqPages := [51], cqPages := [52] })] } }

theorem test_met_rings :
    (serving enabling = true ∧ enabling.host.viral = false ∧ (descAddr enabling 0 7).isSome = true ∧
      ((descAddr enabling 0 7).any fun a => bitOf (fieldAt (hbmRead enabling a 64) 0 1) 0) = true ∧ (ring enabling 0 7).draining = false ∧
      (ring enabling 0 7).enabled = true) ∧
    (((descAddr fresh 0 7).any fun a => bitOf (fieldAt (hbmRead fresh a 64) 0 1) 0) = true ∧ (ring fresh 0 7).enabled = false ∧
      fresh.host.select ≠ 0 ∧ (ring fresh 0 7).draining = false) ∧
    (((descAddr noped 0 7).any fun a => bitOf (fieldAt (hbmRead noped a 64) 0 1) 0) = false ∧ (ring noped 0 7).enabled = true) ∧
    (63 < 2 ^ (ring noped 0 7).cqLog) ∧
    (serving drained = true ∧ (ring drained 0 7).draining = true ∧ (ring drained 0 7).fetched = []) ∧
    (∀ s ∈ [nopEntry, requestEntry], serving s = true ∧ tearingDown s 0 = false ∧ mayFetch (ring s 0 7) = true ∧ part? s 0 = some ringPart ∧
      ((backedAddr (ring s 0 7).sqPages (64 * (ring s 0 7).sqHead)).any fun a =>
        let f0 := entryFields (ring s 0 7).nextIdx s.tb.now (hbmRead s a 64) none
        let f := { f0 with input := inputOf s f0 (some [0#8]) }
        !f.fence && (entryStatus s f).isNone && decide (f.code ≠ codeRequest ∨ ringPart.running < 256) &&
          decide (epochRule s (f.arg0 / 65536) f.fetchTs = .accepted ∨ f.code ≠ codeRequest)) = true) := by decide +kernel

/-- R351: a NOP that completes posts one entry, status OK, and leaves the ring. -/
theorem test_nop_completes : (ring (got (exec (.nop 0 7 0) noped)) 0 7).fetched = [] ∧ (ring (got (exec (.nop 0 7 0) noped)) 0 7).cqTail = 1 ∧
    hbmRead (got (exec (.nop 0 7 0) noped)) (pageAddr 52) 8 = leBytes 1 0 ++ leBytes 1 1 ++ leBytes 2 0 ++ leBytes 4 1 := by decide +kernel

/-- A REQUEST of a read, of 16 bytes; its epoch 3 is in force. -/
def requestX : Fetched := { fetched 0x10 (0x13 + 3 * 65536) (some (leBytes 16 0)) with len := 16 }
theorem test_met_ring_turn : ∀ x ∈ [fetched 0x01 0 none, requestX],
    ringTurn (ringed x) x.code 0 7 0 x ∧ part? (ringed x) 0 = some ringPart ∧ ringPart.conf = false ∧
    (x.code = codeRequest → epochRule (ringed x) (ringReq 0 7 ringPart x).epoch x.fetchTs = .accepted ∧ x.outLen = 0 ∧
      (ringed x).dir.waitReqs = [] ∧ (intake 0 (x.arg0 % 256) (ringReq 0 7 ringPart x) (ringed x)).1 = true) := by
  intro x hx
  simp only [ringTurn]
  rcases List.mem_pair.mp hx with rfl | rfl <;> decide +kernel

/-- The inputs of the load commands: a record of two codes of one bit, a program of one defined word, a weight set. -/
def excB : List Byte := leBytes 4 1 ++ zeroBytes 16 ++ leBytes 8 (1 + 16 ^ 15) ++ zeroBytes 4
def progB : List Byte :=
  leBytes 2 0x0101 ++ leBytes 2 9 ++ leBytes 4 1 ++ leBytes 4 4 ++ leBytes 4 0 ++ leBytes 4 0 ++ leBytes 4 0xFFFFFFFF ++ zeroBytes 40 ++
    leBytes 4 (0x02 * 2 ^ 26)
def wsetB : List Byte := leBytes 2 1 ++ leBytes 2 1 ++ leBytes 2 1 ++ leBytes 2 64 ++ leBytes 2 1 ++ zeroBytes 54 ++ zeroBytes 128
def wsetOf (x : Fetched) : WSet :=
  { id := x.arg0, layers := 1, heads := 1, qn := 64, l := 1, image := wsetB, loadTs := linked.tb.now }
def excX : Fetched := fetched 0x20 15 (some excB)
def progX : Fetched := fetched 0x21 0 (some progB)
def wsetX : Fetched := fetched 0x23 4095 (some wsetB)
def olderTable : State := updPart 0 (fun p => { p with tables := [(15, { pending := some excB })] }) (ringed excX)

/-- A slot whose older table still has a page, for the pending load. -/
def heldTable : State :=
  { updPart 0 (fun p => { p with tables := [(15, { newest := some (1, excB), older := some (0, excB) })] }) (ringed excX) with
    pages := [(3, { use := .inUse, part := 0, exc := some (15, 0) })] }

theorem test_met_loads : (∀ x ∈ [excX, progX, wsetX], ringTurn (ringed x) x.code 0 7 0 x) ∧
    (recordOk excB = true ∧ isConf (ringed excX) 0 = false ∧ (tableSlot (ringed excX) 0 15).pending = none ∧
      olderHeld (ringed excX) 0 15 = false) ∧
    (ringTurn heldTable 0x20 0 7 0 excX ∧ olderHeld heldTable 0 15 = true ∧ (tableSlot heldTable 0 15).pending = none) ∧
    (serving olderTable = true ∧ (tableSlot olderTable 0 15).pending = some excB ∧ olderHeld olderTable 0 15 = false) ∧
    (part? (ringed progX) 0 = some ringPart ∧ progOk progB = true ∧ (∀ y ∈ ringPart.progs, y.number ≠ fieldAt progB 2 2) ∧
      (ringPart.progs.map fun y => progKib y.image).sum + progKib progB ≤ ringPart.progQuota ∧
      (ringPart.progs.map fun y => y.image.length).sum + progB.length ≤ progShare ringPart ∧ progKib progB ≤ 4 * (storeFree (ringed progX)).length) ∧
    (wsetOk wsetB = true ∧ (∀ y ∈ ringPart.wsets, y.id ≠ 4095) ∧
      (ringPart.wsets.map fun y => y.image.length).sum + wsetB.length ≤ wsetCap ∧
      (∀ g ∈ ringPart.pcs, flexUsed (ringed wsetX) g + wsetShare ringPart (wsetOf wsetX) ≤ flexBytes)) ∧
    (ringTurn (ringed (fetched codeProgUnload 3 none)) codeProgUnload 0 7 0 (fetched codeProgUnload 3 none) ∧
      ∃ y ∈ ringPart.progs, y.number = 3 ∧ y.unloading = false) ∧
    (ringTurn (ringed (fetched codeWsetUnload 2 none)) codeWsetUnload 0 7 0 (fetched codeWsetUnload 2 none) ∧
      ∃ y ∈ ringPart.wsets, y.id = 2 ∧ y.unloading = false) := by
  simp only [ringTurn]
  decide +kernel

/-- Buffers and areas: a registration of the last index, of the longest length; a release; and areas of the smallest size. -/
def regX : Fetched := { fetched 0x30 (1048575 + 3 * 2 ^ 24) none with len := 2 ^ 32 - 1, args := [255, 0, 0, 0, 0] }
def relX : Fetched := { fetched 0x31 70 none with addr := 0, len := 0 }
def swapX (n : Nat) : Fetched := { fetched 0x40 n none with len := 0 }
def evictX : Fetched := { fetched 0x41 1024 none with len := 0 }
def spillC : MgmtCmd := { opRole with arg0 := 16777216 }
def buffered (x : Fetched) (st : BufState) : State :=
  { ringed x with fab := { (ringed x).fab with bufs := [(70, { state := st, part := 0, length := 64 })] } }
def areaPart : Part := { ringPart with swapArea := some { base := 65536, slots := 10, used := [3] } }

theorem test_met_buffers : (∀ x ∈ [regX, relX, swapX 1, evictX], ringTurn (ringed x) x.code 0 7 0 x) ∧
    (regX.arg0 % 16777216 < 1048576 ∧ 0 < regX.len + regX.args.getD 0 0 * 4294967296 ∧
      regX.len + regX.args.getD 0 0 * 4294967296 < 1099511627776 ∧ bitOf regX.arg0 26 = false ∧ firmwareIndex (regX.arg0 % 16777216) = false ∧
      (bufOf (ringed regX) 1048575).state = .free ∧ isConf (ringed regX) 0 = false) ∧
    (serving (buffered relX .pending) = true ∧ (bufOf (buffered relX .pending) 70).state = .pending ∧
      lacking (bufOf (buffered relX .pending) 70) = false ∧
      (bufOf (buffered relX .pending) 70).effectAt ≤ (buffered relX .pending).tb.now) ∧
    (ringTurn (buffered relX .valid) 0x31 0 7 0 relX ∧ relX.arg0 < 1048576 ∧ (bufOf (buffered relX .valid) 70).state ≠ .free ∧
      (bufOf (buffered relX .valid) 70).part = 0 ∧ (bufOf (buffered relX .valid) 70).firmware = false ∧
      (bufOf (buffered relX .valid) 70).cmd = none) ∧
    (part? (ringed (swapX 1)) 0 = some ringPart ∧ ringPart.swapArea = none ∧ (swapX 1).addr % 65536 = 0 ∧ 1 ≤ (swapX 1).arg0 ∧
      (swapX 16777215).arg0 ≤ 16777215 ∧
      (∀ n ∈ [4, 11], ∀ a, areaPart.swapArea = some a → (swapX n).addr = a.base ∧
        (a.slots < (swapX n).arg0 ∨ ((swapX n).arg0 < a.slots ∧ ∀ i ∈ a.used, i < (swapX n).arg0)))) ∧
    (1024 ≤ evictX.arg0 ∧ evictX.arg0 ≤ 4194304 ∧ 2 ^ Nat.log2 evictX.arg0 = evictX.arg0 ∧ ringPart.evictArea = none) ∧
    (serving fab0 = true ∧ fab0.mgmt.portsUp = true ∧ inSession fab0 spillC = true ∧ spillC.role = .operator ∧ 0 % 256 = 0 ∧ 1 ≤ spillC.arg0 ∧ spillC.arg0 ≤ 16777216 ∧ spillC.arg1 = 0 ∧
      spillC.arg2 = 0 ∧ spillC.arg3 = 0 ∧ spillC.input = [] ∧ tierCount fab0 .host = 0) := by
  simp only [ringTurn]
  refine ⟨by decide +kernel, by decide +kernel, by decide +kernel, by decide +kernel, ⟨by decide +kernel, by decide +kernel,
    by decide +kernel, by decide +kernel, by decide +kernel, ?_⟩, by decide +kernel, by decide +kernel⟩
  rintro n hn a ⟨⟩
  rcases List.mem_pair.mp hn with rfl | rfl <;> decide +kernel

/-! ### The host link, the cocoon and management -/

def hostLink : State := noped
def viral : State := { noped with host := { noped.host with viral := true } }
def training : State := { on with host := { on.host with up := false } }

theorem test_met_host_link : (serving hostLink = true ∧ hostLink.host.up = true ∧ hostLink.host.cxl = true ∧ hostLink.host.viral = false ∧
      65535 < 0x1000000000 ∧ (hdmAddr hostLink 65535).isSome = true ∧ (hdmAddr hostLink (8 * 0x1000000)).isSome = true ∧
      (hdmAddr hostLink 65536).isNone = true) ∧
    (viral.boot.powered = true ∧ viral.host.viral = true) ∧
    (cxlTrains training = true ∧ training.host.up = false ∧ training.boot.recovery = false) ∧
    (hostLink.boot.powered = true ∧ hostLink.boot.recovery = false) := by decide +kernel

/-- R341: the width that trains is 16 or 8 lanes, and the speed at most 64 GT/s in 256-byte flits. -/
theorem test_cxl_width : (got (exec (.cxlLinkTrain ⟨true, true, false, 8, 6, false⟩) training)).host.width = 8 ∧
    (got (exec (.cxlLinkTrain ⟨true, false, false, 16, 6, false⟩) training)).host.speed = 5 := by decide +kernel

/-- A cocoon that serves, with an alias seed; and a partition record of number 2, tenant 9, one of each unit. -/
def sealed : State := { approved with cocoon := { approved.cocoon with aliasSeed := some 7 } }
def recordB : List Byte :=
  leBytes 1 1 ++ leBytes 1 2 ++ leBytes 2 9 ++ zeroBytes 12 ++ leBytes 8 16 ++ leBytes 32 2 ++ leBytes 96 32 ++ zeroBytes 104
def createC : CocoonCmd := ⟨1, .operator, coc 0x8001 recordB⟩
def downC : CocoonCmd := ⟨1, .operator, coc 0x8001 (leBytes 8 0)⟩
def attestC : CocoonCmd := ⟨1, .none, coc 0x8001 (zeroBytes 32 ++ leBytes 8 0xFF)⟩

theorem test_met_cocoon :
    (on.boot.powered = true ∧ on.cocoon.errorState = false) ∧
    (mayAccess linked .bar0 = true ∧ (mailbox linked (agentInst .bar0)).busy = false ∧ bitOf (1 + 65536 * 2 ^ 32) 0 = true ∧
      1 ≤ bitsOf (1 + 65536 * 2 ^ 32) 48 32 ∧ bitsOf (1 + 65536 * 2 ^ 32) 48 32 ≤ 65536) ∧
    (spdmServes sealed 1 = true ∧ (mailbox sealed 1).sessions.length < 8 ∧ roleExists sealed (.tenant 0) = true ∧
      sealed.cocoon.aliasSeed.isSome = true ∧ sealed.cocoon.errorState = false) ∧
    (sealed.boot.powered = true ∧ sealed.health.stopped = false ∧ cocoonServes sealed = true ∧ roleHeld sealed createC = true ∧ roleHeld sealed downC = true ∧ roleHeld sealed attestC = true ∧
      cocoonParams createC 256 = some recordB ∧
      createC.role = .operator ∧ createRefusal sealed recordB = none) ∧
    (cocoonParams downC 8 = some (leBytes 8 0) ∧ (part? sealed (fieldAt (leBytes 8 0) 0 1)).isSome = true) ∧
    (cocoonParams attestC 40 = some (zeroBytes 32 ++ leBytes 8 0xFF) ∧ sealed.nv.lifecycle ≠ .decommissioned ∧
      allZero (sliceBytes (zeroBytes 32 ++ leBytes 8 0xFF) 33 7) = true ∧ fieldAt (zeroBytes 32 ++ leBytes 8 0xFF) 32 1 = 0xFF) := by
  decide +kernel

/-- R374: a record of a tenant that has a partition, of a way already given, or of a reserved byte is refused. -/
def recordOf (tenant ways last : Nat) : List Byte :=
  leBytes 1 1 ++ leBytes 1 2 ++ leBytes 2 tenant ++ zeroBytes 12 ++ leBytes 8 ways ++ leBytes 32 2 ++ leBytes 96 32 ++ zeroBytes 103 ++
    leBytes 1 last
theorem test_part_create_refused : createRefusal sealed (recordOf 7 16 0) = some stNotPermitted ∧
    createRefusal sealed (recordOf 9 8 0) = some stNotPermitted ∧ createRefusal sealed (recordOf 9 16 1) = some stFormat := by
  decide +kernel

/-- A configuration block without records, and a firmware image of two pages, its five sections empty. -/
def blockHead : List Byte := leBytes 4 0x46434E44 ++ leBytes 4 1 ++ leBytes 4 64 ++ zeroBytes 48
def blockB : List Byte := blockHead ++ leBytes 4 (crc32cAt (blockHead ++ zeroBytes 4) 0x3C)
def secB (k : Nat) : List Byte := leBytes 2 k ++ leBytes 4 4096 ++ zeroBytes 10
def fwB : List Byte :=
  leBytes 4 0x57464E44 ++ leBytes 4 1 ++ leBytes 4 8192 ++ leBytes 2 5 ++ leBytes 2 0 ++ zeroBytes 16 ++ secB 1 ++ secB 2 ++ secB 3 ++
    secB 4 ++ secB 5 ++ zeroBytes 8080
def calB : List Byte := calRecord 5 1 0 0 0 (zeroBytes 256)
def calibrated : State := calProgram [calB] on
def made : State := { on with nv := { on.nv with lifecycle := .provisioned } }
def readC : MgmtCmd := { opRole with arg1 := 0x1000000, arg2 := 1024 }

set_option maxRecDepth 40000 in
theorem test_met_management :
    (mgmtReach on = true ∧ serving on = true ∧ on.mgmt.portsUp = true ∧ inSession on opRole = true ∧ inSession on boardRole = true ∧ opOrBoard opRole.role = true ∧ noArgs boardRole = true ∧
      boardRole.role = .board ∧ noArgs opRole = true) ∧
    (fwRefusal on fwB ⟨true, true⟩ = none) ∧
    (blockB.length = fieldAt blockB 8 4 ∧ (blockRecords on.nv.serial blockB).isSome = true) ∧
    (readC.arg1 + readC.arg2 ≤ norBytes ∧ 0x1000000 ≤ readC.arg1) ∧
    (0 < (calUnits (5 % 256)).1 ∧ ((calRecords calibrated).find? (calIs 5 0)).isSome = true) ∧
    (calGood on calB = true ∧ calLength (calReplace (calRecords on)
      (calRecord (fieldAt calB 0 1) 1 (fieldAt calB 2 2) on.nv.serial on.tb.now (calB.drop 32))) ≤ regionBytes) ∧
    (on.parts = [] ∧ lifecycleOf (3 % 8) = some .deployed ∧
      transitionAllowed made { opRole with arg0 := 3 } ⟨false, false⟩ .deployed = true) := by decide +kernel

def bad : State := { State.reset with boot := { State.reset.boot with recovery := true } }
theorem test_met_recovery : mgmtReach bad = true ∧ bad.boot.recovery = true := by decide +kernel

/-! ### The event log -/

def logged : State := logEvent 0x0201 0x28 (some 3) 130 [1] on
def full : State := { logged with ev := { logged.ev with next := 65536 } }
theorem test_met_event_log : logged.ev.next ≠ 0 ∧ ((mfind logged.ev.recs ((logged.ev.head + 65535) % 65536)).any fun r =>
      r.code == 0x0201 && r.source == 0x28 && r.part == some 3 && r.unit == 130 && decide (logged.tb.now < r.ts + 1000000) &&
        decide (r.times < 65535)) = true ∧
    on.ev.next = 0 ∧
    ((mfind logged.ev.recs ((logged.ev.head + 65535) % 65536)).any fun r => r.unit != 131) = true := by decide +kernel

/-- R428: a repeat within 1 ms counts in REPEAT; the same event 1 ms later, or of another unit, is a record of its own; a record over
the oldest counts in OVERFLOW. -/
theorem test_event_repeats :
    (let t := logEvent 0x0201 0x28 (some 3) 130 [1] { logged with tb := { logged.tb with now := 5999999 } }
     t.ev.next = 1 ∧ ((mfind t.ev.recs 0).map (·.times)) = some 2) ∧
    (logEvent 0x0201 0x28 (some 3) 130 [1] { logged with tb := { logged.tb with now := 6000000 } }).ev.next = 2 ∧
    (logEvent 0x0201 0x28 (some 3) 131 [1] logged).ev.next = 2 ∧ (logEvent 0x0201 0x28 (some 3) 131 [1] full).ev.overflow = 1 := by
  decide +kernel


/-- The example of R485: fabric port 5, lane 3, the first power pads, the first VDD_AD pad. -/
theorem test_pads : padPosition 87 = some (95, 34) ∧ padPosition 88 = some (95, 35) ∧ padPosition 215 = some (92, 34) ∧
    padPosition 396 = some (9, 7) ∧ padPosition 397 = some (9, 8) ∧ padGroup 4208 = some .gnd ∧
    (padRail 459).map (·.name) = some "VDD_AON" ∧ (padRail 2508).map (·.name) = some "VDD_AD" := by decide +kernel

end Sys2Proof.Tests
end

section
/-!
PROOFS. The family of the scope chapter: bytes of HBM read back (R6, R209), the two offsets of a register word, what a write of the
register window changes (R8 to R10, R29), and the commands that access it (R346, R388, R497).
-/

namespace Sys2Proof.Machine

open Sys2Proof

/-! ### Bytes written and read back -/

/-- A join reads as its first part where the second names no cell at the address. -/
theorem cellAt_append_left (d : Byte) (m₁ m₂ : List Host.Cell) (a : Nat) (h : ∀ c ∈ m₂, c.1 ≠ a) :
    cellAt d (m₁ ++ m₂) a = cellAt d m₁ a := by
  induction m₁ with
  | nil => exact cellAt_of_forall_ne d m₂ a h
  | cons c m ih => simp [cellAt, ih]

/-- Where every cell lies above the first address, a run of bytes begins with the default. -/
theorem cellsRun_succ_of_lt (d : Byte) (n a : Nat) (m : List Host.Cell) (h : ∀ c ∈ m, a < c.1) :
    cellsRun d (n + 1) a m = d :: cellsRun d n (a + 1) m := by
  cases m with
  | nil => rfl
  | cons c m =>
    have hc : c.1 ≠ a := Nat.ne_of_gt (h c (List.mem_cons_self ..))
    simp [cellsRun, hc]

/-- The cells of a run of bytes spell those bytes. -/
theorem cellsRun_cellsOf (d : Byte) (bs : List Byte) (a : Nat) : cellsRun d bs.length a (cellsOf d a bs) = bs := by
  induction bs generalizing a with
  | nil => rfl
  | cons b bs ih =>
    by_cases hb : b = d
    · have hlt : ∀ c ∈ cellsOf d (a + 1) bs, a < c.1 := fun c hc => ((cellsOf_spec d bs (a + 1)).2 c hc).1
      simp only [List.length_cons, cellsOf, hb, if_true]
      rw [cellsRun_succ_of_lt d _ a _ hlt, ih]
    · simp [cellsOf, hb, cellsRun, ih]

/-- Of a memory just written, the cells inside the written run are those of its bytes. -/
theorem filter_cellsPut (d : Byte) (m : List Host.Cell) (a : Nat) (bs : List Byte) :
    (cellsPut d m a bs).filter (fun c => decide (a ≤ c.1) && decide (c.1 < a + bs.length)) = cellsOf d a bs := by
  have below : (m.filter fun c => decide (c.1 < a)).filter
      (fun c => decide (a ≤ c.1) && decide (c.1 < a + bs.length)) = [] := by
    simp only [List.filter_eq_nil_iff, List.mem_filter, Bool.and_eq_true, decide_eq_true_eq]
    omega
  have above : (m.filter fun c => decide (a + bs.length ≤ c.1)).filter
      (fun c => decide (a ≤ c.1) && decide (c.1 < a + bs.length)) = [] := by
    simp only [List.filter_eq_nil_iff, List.mem_filter, Bool.and_eq_true, decide_eq_true_eq]
    omega
  have inside : (cellsOf d a bs).filter (fun c => decide (a ≤ c.1) && decide (c.1 < a + bs.length)) = cellsOf d a bs := by
    simp only [List.filter_eq_self, Bool.and_eq_true, decide_eq_true_eq]
    exact fun c hc => ⟨((cellsOf_spec d bs a).2 c hc).1, ((cellsOf_spec d bs a).2 c hc).2.1⟩
  simp only [cellsPut, List.filter_append, below, inside, above, List.nil_append, List.append_nil]

/-- Bytes put into a byte memory are read back, whether or not the memory was canonical. -/
theorem cellsGet_cellsPut (d : Byte) (m : List Host.Cell) (a : Nat) (bs : List Byte) :
    cellsGet d (cellsPut d m a bs) a bs.length = bs := by
  rw [cellsGet, filter_cellsPut, cellsRun_cellsOf]

/-- A byte outside the run that is written reads as before. -/
theorem cellAt_cellsPut_outside (d : Byte) (m : List Host.Cell) (a x : Nat) (bs : List Byte) (hx : x < a ∨ a + bs.length ≤ x) :
    cellAt d (cellsPut d m a bs) x = cellAt d m x := by
  have run : ∀ c ∈ cellsOf d a bs, c.1 ≠ x := fun c hc => by
    have := (cellsOf_spec d bs a).2 c hc
    omega
  rcases hx with hx | hx
  · have above : ∀ c ∈ m.filter (fun c => decide (a + bs.length ≤ c.1)), c.1 ≠ x := by
      simp only [List.mem_filter, decide_eq_true_eq]
      omega
    rw [cellsPut, cellAt_append_left _ _ _ _ above, cellAt_append_left _ _ _ _ run]
    exact cellAt_filter d m x _ fun c hc => by simpa [hc] using hx
  · have below : ∀ c ∈ m.filter (fun c => decide (c.1 < a)), c.1 ≠ x := by
      simp only [List.mem_filter, decide_eq_true_eq]
      omega
    rw [cellsPut, List.append_assoc, cellAt_append _ _ _ _ below, cellAt_append _ _ _ _ run]
    exact cellAt_filter d m x _ fun c hc => by simpa [hc] using hx

/-- A cleared range reads as the default, and the rest as before. -/
theorem cellAt_cellsClear (d : Byte) (m : List Host.Cell) (a n x : Nat) :
    cellAt d (cellsClear m a n) x = if a ≤ x ∧ x < a + n then d else cellAt d m x := by
  split
  · next h =>
    refine cellAt_of_forall_ne d _ x ?_
    simp only [cellsClear, List.mem_filter, Bool.or_eq_true, decide_eq_true_eq]
    omega
  · next h =>
    refine cellAt_filter d m x _ fun c hc => ?_
    simp only [Bool.or_eq_true, decide_eq_true_eq]
    omega

/-- Settles O9: a write puts its run of cells between those below and those above it, and the reader sees one of the three. -/
theorem hbmReadAfterWrite : Obligations.HbmReadAfterWrite := by
  unfold Obligations.HbmReadAfterWrite
  intro s a n bs
  exact ⟨cellsGet_cellsPut 0#8 s.mem.hbm a bs,
    fun x hx => cellAt_cellsPut_outside 0#8 s.mem.hbm a x bs hx,
    fun x => cellAt_cellsClear 0#8 s.mem.hbm a n x,
    hbmWrite_host a bs s, hbmWrite_nv a bs s, hbmZero_host a n s, hbmZero_nv a n s⟩

/-! ### Register words (Table 0.3) -/

@[simp] theorem canonOffset_canonOffset (o : Nat) : canonOffset (canonOffset o) = canonOffset o := by
  by_cases h : o = 0x01100800 ∨ o = 0x01200800 ∨ o = 0x01300800
  · have hc : canonOffset o = 0x01000800 := if_pos h
    rw [hc]
    rfl
  · have hc : canonOffset o = o := if_neg h
    rw [hc, hc]

/-- Of the 64 bits of a word that is written under a mask, those of the mask take the value and the others stay. -/
theorem testBit_merge (old mask v : Nat) {b : Nat} (hb : b < 64) :
    ((old &&& (0xFFFFFFFFFFFFFFFF ^^^ mask)) ||| (v &&& mask)).testBit b =
      if mask.testBit b then v.testBit b else old.testBit b := by
  have ones : Nat.testBit 0xFFFFFFFFFFFFFFFF b = true := by
    have := Nat.testBit_two_pow_sub_one 64 b
    simpa [hb] using this
  cases h : mask.testBit b <;>
    simp [Nat.testBit_or, Nat.testBit_and, Nat.testBit_xor, ones, h]

/-- A register of the table keeps its word among those written, its unwritable bits as they were. -/
theorem setRegWord_eq {o reset rw : Nat} (h : rwlReg (canonOffset o) = some (reset, rw)) (v : Nat) (s : State) :
    setRegWord o v s =
      { s with regs := mset s.regs (canonOffset o) ((regWord s o &&& (0xFFFFFFFFFFFFFFFF ^^^ rw)) ||| (v &&& rw)) } := by
  simp [setRegWord, regWord, h]

/-- The word of the register written, bit by bit. -/
theorem testBit_regWord_setRegWord {o reset rw : Nat} (h : rwlReg (canonOffset o) = some (reset, rw)) (v : Nat) (s : State)
    {b : Nat} (hb : b < 64) :
    (regWord (setRegWord o v s) o).testBit b = if rw.testBit b then v.testBit b else (regWord s o).testBit b := by
  have word : regWord (setRegWord o v s) o = (regWord s o &&& (0xFFFFFFFFFFFFFFFF ^^^ rw)) ||| (v &&& rw) := by
    rw [setRegWord_eq h]
    simp [regWord]
  rw [word, testBit_merge _ _ _ hb]

/-- A write of one register leaves the word of every other. -/
theorem regWord_setRegWord_of_ne {o o' : Nat} (h : canonOffset o' ≠ canonOffset o) (v : Nat) (s : State) :
    regWord (setRegWord o v s) o' = regWord s o' := by
  cases hr : rwlReg (canonOffset o) with
  | none => simp [setRegWord, hr]
  | some r => simp [setRegWord_eq hr, regWord, h]

/-! ### Accesses of the register window (R8, R9, R29) -/

/-- An access of the window by an agent that may make it acts by its place and its access code. -/
theorem exec_registerWrite_some {s : State} {agent : Agent} {o : Nat} (hm : mayAccess s agent = true) (ho : o < 0x4000000)
    (width value : Nat) :
    exec (.registerWrite agent o width (some value)) s = .next (after s (writeWindow agent o width value s)) := by
  have hrow : exec (.registerWrite agent o width (some value)) s = execRegisterWrite agent o width (some value) s := rfl
  rw [hrow, execRegisterWrite, if_neg (Nat.not_le.mpr ho)]
  simp [hm, done_eq_after]

/-- A read of the window by an agent that may make it gives back the word, or is counted. -/
theorem exec_registerWrite_none {s : State} {agent : Agent} {o : Nat} (hm : mayAccess s agent = true) (ho : o < 0x4000000)
    (width : Nat) :
    exec (.registerWrite agent o width none) s =
      .next (after s (readWindow o width (windowRead s (agentInst agent) o width) s)) := by
  have hrow : exec (.registerWrite agent o width none) s = execRegisterWrite agent o width none s := rfl
  have hv : readValue s agent o width = some (windowRead s (agentInst agent) o width) := if_pos hm
  rw [hrow, execRegisterWrite, if_neg (Nat.not_le.mpr ho)]
  simp [hv, done_eq_after]

theorem writeWindow_wellPlaced {o width : Nat} (h : wellPlaced o width = true) (agent : Agent) (value : Nat) (s : State) :
    writeWindow agent o width value s =
      writeWord agent (o / 8 * 8) (writtenBits o width value).1 (writtenBits o width value).2 s := if_pos h

theorem writeWindow_misplaced {o width : Nat} (h : wellPlaced o width = false) (agent : Agent) (value : Nat) (s : State) :
    writeWindow agent o width value s = accessFault o s := if_neg (by simp [h])

/-- A read of the window gives back the addressed bits, or all ones for a misplaced one, which is counted. -/
theorem readWindow_windowRead (s t : State) (inst o width : Nat) :
    readWindow o width (windowRead s inst o width) t =
      if wellPlaced o width then setReadData (leBytes (width / 8) (readReg s inst (o / 8 * 8) / 2 ^ (o % 8 * 8) % 2 ^ width)) t
      else accessFault o (setReadData (List.replicate 8 0xFF#8) t) := by
  have ones : leBytes 8 0xFFFFFFFFFFFFFFFF = List.replicate 8 0xFF#8 := by decide
  cases h : wellPlaced o width <;> simp [readWindow, windowRead, h, ones]

/-- The access-fault registers hold an offset of the window as it is. -/
theorem accessFault_eq {o : Nat} (ho : o < 0x4000000) (s : State) :
    accessFault o s = { s with accCount := sat32 (s.accCount + 1), accOffset := o } := by
  rw [accessFault, Nat.mod_eq_of_lt ho]

section PlainWord

/-! A word that lies neither in a mailbox nor among the doorbells: its access code alone decides. -/

variable {w : Nat} (hbox : w < 0x00200000 ∨ 0x00400000 ≤ w) (hbell : instOf w 0x00100000 0x40 1024 = none)
include hbox hbell

/-- A read-only word keeps its value. -/
theorem writeWord_readOnly (hr : rwlReg (canonOffset w) = none) (agent : Agent) (mask v : Nat) (s : State) :
    writeWord agent w mask v s = s := by
  have hb : ¬ (0x00200000 ≤ w ∧ w < 0x00400000) := by omega
  simp [writeWord, hb, hbell, hr]

/-- Of a register with writable bits: a write that covers none of them does nothing, one after configuration lock is logged, and
one before it writes the bits that it covers. -/
theorem writeWord_rwl {reset rw : Nat} (hr : rwlReg (canonOffset w) = some (reset, rw)) (agent : Agent) (mask v : Nat) (s : State) :
    writeWord agent w mask v s =
      if rw &&& mask = 0 then s
      else if s.boot.locked then logEvent 0x0001 srcCt none 0 [w] s
      else setRegWord w ((regWord s w &&& (0xFFFFFFFFFFFFFFFF ^^^ mask)) ||| (v &&& mask)) s := by
  have hb : ¬ (0x00200000 ≤ w ∧ w < 0x00400000) := by omega
  simp only [writeWord, hb, hbell, hr, if_false]

end PlainWord

/-- A register's word after a write under a mask: the writable bits that the mask covers take the value, the others stay. -/
theorem testBit_regWord_setRegWord_masked {w reset rw : Nat} (hr : rwlReg (canonOffset w) = some (reset, rw)) (mask v : Nat)
    (s : State) {b : Nat} (hb : b < 64) :
    (regWord (setRegWord w ((regWord s w &&& (0xFFFFFFFFFFFFFFFF ^^^ mask)) ||| (v &&& mask)) s) w).testBit b =
      if rw.testBit b && mask.testBit b then v.testBit b else (regWord s w).testBit b := by
  rw [testBit_regWord_setRegWord hr _ s hb, testBit_merge _ _ _ hb]
  cases rw.testBit b <;> simp

/-- Settles O59: a misplaced write is counted, and an aligned one goes by the row of its register. -/
theorem registerWriteRule : Obligations.RegisterWriteRule := by
  unfold Obligations.RegisterWriteRule
  intro s agent o width value w mask v hm ho
  rw [exec_registerWrite_some hm ho]
  refine ⟨fun hp => ?_, fun hp hbell hbox => ?_⟩
  · rw [writeWindow_misplaced hp, accessFault_eq ho]
  rw [writeWindow_wellPlaced hp]
  refine ⟨fun hr => ?_, fun reset rw hr => ?_⟩
  · rw [writeWord_readOnly hbox hbell hr, after_self]
  rw [writeWord_rwl hbox hbell hr]
  refine ⟨fun hz => ?_, fun hz hl => ?_, fun hz hl => ?_⟩
  · rw [if_pos hz, after_self]
  · rw [if_neg hz, if_pos hl]
  · rw [if_neg hz, if_neg (by simp [hl])]
    exact ⟨_, rfl, by rw [setRegWord_eq hr], fun b hb => testBit_regWord_setRegWord_masked hr mask v s hb,
      fun o' ho' => regWord_setRegWord_of_ne ho' _ s⟩

/-! ### Commands that access registers (R346, R388, R497) -/

/-- DVSEC_SELECT of an offered version selects it. -/
theorem exec_dvsecSelect_offered {s : State} {value : Nat} (hp : s.boot.powered = true) (hr : s.boot.recovery = false)
    (hu : s.host.up = true) (hw : value < 65536) (ho : versionOffered value = true) :
    exec (.dvsecSelect value) s = .next (after s { s with host := { s.host with select := value, selectErr := false } }) := by
  have hrow : exec (.dvsecSelect value) s = execDvsecSelect value s := rfl
  rw [hrow, execDvsecSelect]
  simp [hp, hr, hu, Nat.mod_eq_of_lt hw, ho, done_eq_after]

/-- REG_WRITE_M of an allowed role writes one aligned word. -/
theorem exec_regWriteM_allowed {s : State} {c : MgmtCmd} (hreach : mgmtReach s = true) (hin : inSession s c = true)
    (hall : mgmtAllowed s c.role 0x7B c.arg0 c.arg1 c.arg2 = true) (h0 : c.arg0 = 0) (h2 : c.arg2 = 0) (h3 : c.arg3 = 0)
    (hlen : c.input.length = 8) (hend : c.arg1 + 8 ≤ 0x4000000) (h8 : c.arg1 % 8 = 0) :
    exec (.regWriteM c) s = .next (after s (mgmtAnswer c stOk 0 []
      (writeWord (.mgmt c.role) c.arg1 0xFFFFFFFFFFFFFFFF (fieldAt c.input 0 8) s))) := by
  have hrow : exec (.regWriteM c) s = execRegWriteM c s := rfl
  have hform : ¬ (c.arg0 ≠ 0 ∨ c.arg2 ≠ 0 ∨ c.arg3 ≠ 0 ∨ c.input.length ≠ 8 ∨ 0x4000000 < c.arg1 + 8) := by omega
  rw [hrow, execRegWriteM, if_neg (by simp [hreach]), if_neg (by simp [hin, hall]), if_neg hform, if_neg (by simp [h8]),
    done_eq_after]

/-- REG_READ_M of an allowed role answers aligned words. -/
theorem exec_regReadM_allowed {s : State} {c : MgmtCmd} (hreach : mgmtReach s = true) (hin : inSession s c = true)
    (hall : mgmtAllowed s c.role 0x7A c.arg0 c.arg1 c.arg2 = true) (h0 : c.arg0 = 0) (h3 : c.arg3 = 0) (hi : c.input = [])
    (h1 : 1 ≤ c.arg2) (h128 : c.arg2 ≤ 128) (hend : c.arg1 + 8 * c.arg2 ≤ 0x4000000) (h8 : c.arg1 % 8 = 0) :
    exec (.regReadM c) s = .next (after s (mgmtAnswer c stOk 0
      ((List.range c.arg2).flatMap fun i => leBytes 8 (readReg s 1 (c.arg1 + 8 * i))) s)) := by
  have hrow : exec (.regReadM c) s = execRegReadM c s := rfl
  have hform : ¬ (c.arg0 ≠ 0 ∨ c.arg3 ≠ 0 ∨ c.input ≠ [] ∨ c.arg2 = 0 ∨ 128 < c.arg2 ∨ 0x4000000 < c.arg1 + 8 * c.arg2) := by
    simp only [hi, ne_eq, not_true_eq_false, false_or]
    omega
  rw [hrow, execRegReadM, if_neg (by simp [hreach]), if_neg (by simp [hin, hall]), if_neg hform, if_neg (by simp [h8]),
    done_eq_after]

/-- REG_READ of a tenant whose partition exists answers the words of its view. -/
theorem exec_regRead_tenant {s : State} {c : CocoonCmd} {b : List Byte} {n : Nat} (ht : cocoonTurn s c 8 b)
    (hrole : c.role = .tenant n) (hpart : (part? s n).isSome = true) (h8 : fieldAt b 0 4 % 8 = 0) (h1 : 1 ≤ fieldAt b 4 2)
    (h512 : fieldAt b 4 2 ≤ 512) (hz : fieldAt b 6 2 = 0) (hend : fieldAt b 0 4 + 8 * fieldAt b 4 2 ≤ 0x4000000) :
    exec (.regRead c) s = .next (after s (cocoonAnswer c stOk
      ((List.range (fieldAt b 4 2)).flatMap fun i => leBytes 8 (tenantReg s n (fieldAt b 0 4 + 8 * i))) s)) := by
  have hrow : exec (.regRead c) s = execRegRead c s := rfl
  have hform : ¬ (fieldAt b 0 4 % 8 ≠ 0 ∨ fieldAt b 4 2 = 0 ∨ 512 < fieldAt b 4 2 ∨ fieldAt b 6 2 ≠ 0 ∨
      0x4000000 < fieldAt b 0 4 + 8 * fieldAt b 4 2) := by omega
  rw [hrow, execRegRead, hrole, cocoonCmd_turn ht (by simpa using hpart), if_neg hform]
  rfl

/-- Settles O50: each command by its own lemma. -/
theorem registerCommandsComplete : Obligations.RegisterCommandsComplete := by
  unfold Obligations.RegisterCommandsComplete
  refine ⟨fun s agent o width value hm ho hp => ?_, fun s agent o width hm ho => ?_, fun s value hp hr hu hv => ?_,
    fun s c hreach hin hall h0 h2 h3 hlen hend h8 => exec_regWriteM_allowed hreach hin hall h0 h2 h3 hlen hend h8,
    fun s c hreach hin hall h0 h3 hi h1 h128 hend h8 => exec_regReadM_allowed hreach hin hall h0 h3 hi h1 h128 hend h8,
    fun s c b n ht hrole hpart h8 h1 h512 hz hend => exec_regRead_tenant ht hrole hpart h8 h1 h512 hz hend⟩
  · rw [exec_registerWrite_some hm ho, writeWindow_wellPlaced hp]
  · rw [exec_registerWrite_none hm ho, readWindow_windowRead]
  · have hw : value < 65536 := by rcases hv with rfl | rfl <;> decide
    have ho : versionOffered value = true := by simpa [versionOffered] using hv
    exact exec_dvsecSelect_offered hp hr hu hw ho

end Sys2Proof.Machine
end

section
/-!
PROOFS. The family of the cache layout: the requests that open, close, clone and search sequences (R65 to R67, R73 to R76, R92 to
R95), the requests that wait (R57, R140, R224 to R228, R297), and the page pool (R51, R52, R69, R96, R101, R361 to R363).
-/

namespace Sys2Proof.Machine

open Sys2Proof

/-- A request that is admitted leaves what its work makes of the state its intake left. -/
theorem done_requestRow_admitted {s t u : State} {n op : Nat} {r : Req} {names : List Nat} {remote : List Byte}
    (h : admitted s n op r names t) (hrun : reqPart t r = some n → gate t n r op names = none → runRequest op r remote t = u) :
    (done s (requestRow op r remote s) : Host.Outcome State Fault Refusal) = .next (after s u) := by
  obtain ⟨hrow, hpart, hgate⟩ := requestRow_admitted h remote
  exact done_eq_of_eq (hrow.trans (hrun hpart hgate))

/-! ### Sequences (R65 to R67, R73 to R76, R92 to R95) -/

/-- The group records of a SEQ_OPEN in the order in which their descriptors are opened. -/
def openRecs (b : List Byte) : List GroupRec := sortBy (fun a b => decide (a.group ≤ b.group)) (groupRecs b)

/-- SEQ_OPEN of new keys, with an entry and MDBs for each, opens its descriptors. -/
theorem runSeqOpen_opened {t s1 : State} {r : Req} {n : Nat} {ms : List Nat} (hpart : reqPart t r = some n)
    (hgate : gate t n r 0x10 [fieldAt r.body 0 5] = none) (hbytes : openBytesOk t n r.body = true)
    (hnew : ∀ g ∈ openRecs r.body, keyExists t n (seqKey r.tenant (fieldAt r.body 0 5) g.group) = false)
    (hfree : fieldAt r.body 8 1 ≤ dirFree t n)
    (hopen : openAll n (bitOf (fieldAt r.body 9 1) 0)
      ((openRecs r.body).map (newDesc t n r.tenant (fieldAt r.body 0 5) r.arrival)) t = some (ms, s1)) :
    runSeqOpen r t = opened r ms s1 := by
  have hany : ((openRecs r.body).any fun g => keyExists t n (seqKey r.tenant (fieldAt r.body 0 5) g.group)) = false := by
    simpa using hnew
  unfold openRecs at hany hopen
  simp [runSeqOpen, hpart, hgate, hbytes, hany, Nat.not_lt.mpr hfree, hopen]

/-- SEQ_CLOSE of sequences that are no source of a clone under way releases them. -/
theorem runSeqClose_closed {t s1 : State} {r : Req} {n : Nat} {gs : List Nat} {xs : List (BitVec 96 × Option (Nat × Nat))}
    (hpart : reqPart t r = some n) (hgate : gate t n r 0x11 [fieldAt r.body 0 5] = none)
    (hgroups : closeGroups r.body = some gs) (htargets : closeTargets n r.tenant (fieldAt r.body 0 5) gs t = (.ok xs, s1))
    (hidle : ∀ w ∈ s1.fab.clones, ∀ x ∈ xs, ∀ y, x.2 = some y → y.1 ∉ w.srcs) :
    runSeqClose r t = respond r 0x11 stOk 0 (statusBody stOk) (closeAll n xs s1) := by
  have hfind : (s1.fab.clones.find? fun w => xs.any fun x => x.2.any fun y => w.srcs.contains y.1) = none := by
    simp only [List.find?_eq_none, List.any_eq_true, Option.any_eq_true, List.contains_iff_mem]
    rintro w hw ⟨x, hx, y, hy, hmem⟩
    exact hidle w hw x hx y hy hmem
  simp only [runSeqClose, hpart, hgate, hgroups, htargets, hfind]

/-- The clone that a SEQ_CLONE of sources `ms` starts, its new descriptors at `ks`. -/
def cloneOf (r : Req) (n : Nat) (ms ks gs : List Nat) (sh cp : Nat) : CloneWait :=
  ⟨r, n, ms, (ks.zip gs).map fun x => (x.1, seqKey r.tenant (fieldAt r.body 8 5) x.2, bitOf (fieldAt r.body 0x15 1) 0),
    sh, cp, []⟩

/-- SEQ_CLONE of present sources to new keys, with an entry, pages and MDBs for each, starts the clone. -/
theorem runSeqClone_started {t s1 s2 : State} {r : Req} {n sh cp : Nat} {gs ms ks : List Nat} (hpart : reqPart t r = some n)
    (hgate : gate t n r 0x12 [fieldAt r.body 0 5, fieldAt r.body 8 5] = none) (hgroups : cloneGroups r.body = some gs)
    (hsrc : cloneSources r n (fieldAt r.body 0 5) gs t = .ok (ms, s1))
    (hcan : ∀ m ∈ ms, ∃ d, desc? s1 m = some d ∧ cloneable d (fieldAt r.body 0x10 4) = true)
    (hnew : ∀ g ∈ gs, keyExists s1 n (seqKey r.tenant (fieldAt r.body 8 5) g) = false ∧
      cloningKey s1 n (seqKey r.tenant (fieldAt r.body 8 5) g) = false)
    (hfree : gs.length ≤ dirFree s1 n) (hfetch : cloneFetching (fieldAt r.body 0x10 4) ms s1 = none)
    (hmiss : cloneMissing (fieldAt r.body 0x10 4) ms (confirmClone r.epoch (fieldAt r.body 0x10 4) ms s1) = none)
    (hclone : cloneAll (fieldAt r.body 0x10 4) (fieldAt r.body 8 5) r.arrival ms
      (confirmClone r.epoch (fieldAt r.body 0x10 4) ms s1) = some ((ks, sh, cp), s2)) :
    runSeqClone r t = startClone (cloneOf r n ms ks gs sh cp) s2 := by
  simp only [runSeqClone, hpart, hgate, hgroups, hsrc]
  refine (if_neg ?_).trans ?_
  · simp only [Bool.not_eq_true', List.all_eq_false, List.any_eq_true, not_or, not_exists, not_and, not_not, Bool.or_eq_true]
    refine ⟨fun m hm => ?_, fun g hg => by simp [hnew g hg]⟩
    obtain ⟨d, hd, hok⟩ := hcan m hm
    simp only [hd, hok]
  · simp only [Nat.not_lt.mpr hfree, if_false, hfetch, hmiss, hclone, cloneOf]

/-- A clone with copies still to be made waits for them. -/
theorem startClone_busy {w : CloneWait} {s : State} (h : cloneBusy s w = true) :
    startClone w s = { s with fab := { s.fab with clones := s.fab.clones ++ [w] } } := if_pos h

/-- A clone with no copy to be made ends at once. -/
theorem startClone_idle {w : CloneWait} {s : State} (h : cloneBusy s w = false) : startClone w s = publishClone w s :=
  if_neg (by simp [h])

/-- PREFIX_LOOKUP of a stream of a found sequence searches its hashes. -/
theorem runPrefixLookup_lookedUp {t s1 s2 : State} {r : Req} {n m : Nat} {lc : Bool} {d : Desc} {st : Stream} {res att : List Nat}
    (hpart : reqPart t r = some n) (hgate : gate t n r 0x13 [fieldAt r.body 0 5] = none) (hbytes : lookupBytesOk r.body = true)
    (hname : nameSeq r 0x13 n (fieldAt r.body 0 5) (fieldAt r.body 8 1) t = .found m lc s1) (hdesc : desc? s1 m = some d)
    (hstream : d.streams[fieldAt r.body 0xA 2]? = some st)
    (hhash : lookupHashes r.epoch m (fieldAt r.body 0xA 2) n r.tenant (lookupList r.body) (lookupAttaches r.body d st) s1 =
      .ok (res, att, s2)) :
    runPrefixLookup r t = lookedUp r n m (fieldAt r.body 0xA 2) res att s2 := by
  simp [runPrefixLookup, hpart, hgate, hbytes, hname, hdesc, hstream, hhash]

/-- Settles O38: each request by what its work does once it is admitted. -/
theorem sequenceRequestsComplete : Obligations.SequenceRequestsComplete := by
  unfold Obligations.SequenceRequestsComplete
  refine ⟨fun s t s1 r n ms hadm hbytes hnew hfree hopen => ?_, fun s t s1 r n gs xs hadm hgroups htargets hidle => ?_,
    fun s t s1 s2 r n sh cp gs ms ks hadm hgroups hsrc hcan hnew hfree hfetch hmiss hclone =>
      ⟨?_, startClone_busy, startClone_idle⟩,
    fun s t s1 s2 r n m lc d st res att hadm hbytes hname hdesc hstream hhash => ?_⟩
  · exact done_requestRow_admitted hadm fun hpart hgate => runSeqOpen_opened hpart hgate hbytes hnew hfree hopen
  · exact done_requestRow_admitted hadm fun hpart hgate =>
      congrArg settleAllUnloads (runSeqClose_closed hpart hgate hgroups htargets hidle)
  · exact done_requestRow_admitted hadm fun hpart hgate =>
      runSeqClone_started hpart hgate hgroups hsrc hcan hnew hfree hfetch hmiss hclone
  · exact done_requestRow_admitted hadm fun hpart hgate =>
      runPrefixLookup_lookedUp hpart hgate hbytes hname hdesc hstream hhash

/-! ### Requests that wait (R57, R140, R224 to R228, R297) -/

/-- A held backward request past its 10 ms is answered NOT_PERMITTED. -/
theorem exec_backwardHoldTimeout_held {s : State} {m layer index : Nat} {set : AccSet} {h : HeldBwd} (hs : serving s = true)
    (hset : accSet? s m layer = some set)
    (hheld : set.held.find? (fun h => h.index == index && decide (h.req.arrival + 10000000 ≤ s.tb.now)) = some h) :
    exec (.backwardHoldTimeout m layer index) s = .next (after s
      (settleAllUnloads (refuse h.req 3 stNotPermitted (setAccSet { set with held := set.held.erase h } s)))) := by
  have hrow : exec (.backwardHoldTimeout m layer index) s = execBackwardHoldTimeout m layer index s := rfl
  rw [hrow, execBackwardHoldTimeout]
  simp [hs, hset, hheld, done_eq_after]

/-- The first held append that nothing holds any more runs. -/
theorem exec_heldAppendResume_picked {s : State} {x : HeldAppend} {rest : List HeldAppend} (hs : serving s = true)
    (hpick : pickHeld s [] s.fab.heldAppends = some (x, rest)) :
    exec .heldAppendResume s = .next (after s (runHeld x { s with fab := { s.fab with heldAppends := rest } })) := by
  have hrow : exec .heldAppendResume s = execHeldAppendResume s := rfl
  rw [hrow, execHeldAppendResume]
  simp [hs, hpick, done_eq_after]

/-- A serving node drops a tail whose deadline has come. -/
theorem exec_tailDeadlineDrop_serving {s : State} (hs : serving s = true) (m : Nat) :
    exec (.tailDeadlineDrop m) s = .next (after s (expireTail m s.tb.now s)) := by
  have hrow : exec (.tailDeadlineDrop m) s = execTailDeadlineDrop m s := rfl
  rw [hrow, execTailDeadlineDrop]
  simp [hs, done_eq_after]

/-- The end of a swap-in that was asked for lets the requests that waited for it proceed. -/
theorem exec_demandSwapInDone_asked {s : State} {m : Nat} (hs : serving s = true) (hask : ∃ x ∈ s.fab.demand, x.mdb = m) :
    exec (.demandSwapInDone m) s = .next (after s
      (settleAllUnloads (((finishDemands m s).fab.stalled.filter fun x => x.mdb == m).foldl (fun s x => unstall x s)
        { finishDemands m s with fab := { (finishDemands m s).fab with
            stalled := (finishDemands m s).fab.stalled.filter fun x => x.mdb != m } }))) := by
  have hrow : exec (.demandSwapInDone m) s = execDemandSwapInDone m s := rfl
  have hany : (s.fab.demand.any fun x => x.mdb == m) = true := by simpa using hask
  rw [hrow, execDemandSwapInDone]
  simp [hs, hany, done_eq_after]

/-- A page that a fault allows is staged, and leaves the read-ahead list. -/
theorem exec_stagePage_ahead {s : State} {m i j : Nat} (hs : serving s = true) (hmem : (m, i, j) ∈ s.fab.ahead) :
    exec (.stagePage m i j) s = .next (after s
      (stageOne m i j { s with fab := { s.fab with ahead := s.fab.ahead.filter (· != (m, i, j)) } }).2) := by
  have hrow : exec (.stagePage m i j) s = execStagePage m i j s := rfl
  rw [hrow, execStagePage]
  simp [hs, hmem, done_eq_after]

/-- A staged copy past its STAGE_TTL is discarded. -/
theorem exec_stageTtlExpire_old {s : State} {page : Nat} {x : Staging} (hs : serving s = true) (hx : mfind s.staging page = some x)
    (hold : x.at_ + stageTtlNs s x.part ≤ s.tb.now) :
    exec (.stageTtlExpire page) s = .next (after s (discardStaged page s)) := by
  have hrow : exec (.stageTtlExpire page) s = execStageTtlExpire page s := rfl
  rw [hrow, execStageTtlExpire]
  simp [hs, hx, hold, done_eq_after]

/-- A stalled request came as message `mseq` of connection `cid`. -/
def stalledAt (cid mseq : Nat) (x : Stalled) : Bool :=
  match x.req.origin with
  | .fabric c q _ => c == cid && q == mseq
  | _ => false

/-- A stalled request past its window is answered NOT_RESIDENT_RETRY. -/
theorem exec_stallTimeout_late {s : State} {cid mseq : Nat} {x : Stalled} (hs : serving s = true)
    (hx : s.fab.stalled.find? (stalledAt cid mseq) = some x) (hlate : x.req.arrival + 50000 ≤ s.tb.now) :
    exec (.stallTimeout cid mseq) s = .next (after s (settleAllUnloads (answerRetry x.req x.op
      { s with fab := { s.fab with stalled := s.fab.stalled.filter fun y => !stalledAt cid mseq y } }))) := by
  have hrow : exec (.stallTimeout cid mseq) s = execStallTimeout cid mseq s := rfl
  rw [hrow, execStallTimeout, if_neg (by simp [hs])]
  dsimp only
  split
  · next hnone => exact absurd (hx.symm.trans hnone) (Option.some_ne_none x)
  · next y hy =>
    obtain rfl : x = y := Option.some.inj (hx.symm.trans hy)
    rw [if_pos hlate]
    rfl

/-- Settles O41: each command by its own lemma. -/
theorem waitingRequestsComplete : Obligations.WaitingRequestsComplete := by
  unfold Obligations.WaitingRequestsComplete
  exact ⟨fun _ _ _ _ _ _ hs hset hheld => exec_backwardHoldTimeout_held hs hset hheld,
    fun _ _ _ hs hpick => exec_heldAppendResume_picked hs hpick,
    fun _ m hs => exec_tailDeadlineDrop_serving hs m,
    fun _ _ hs hask => exec_demandSwapInDone_asked hs hask,
    fun _ _ _ _ hs hmem => exec_stagePage_ahead hs hmem,
    fun _ _ _ hs hx hold => exec_stageTtlExpire_old hs hx hold,
    fun _ _ _ _ hs hx hlate => exec_stallTimeout_late hs hx hlate⟩

/-! ### The page pool (R51, R52, R69, R101, R361 to R363) -/

/-- The state in which a pass takes its candidates: staged copies are discarded, and the keys of pages that nothing else refers to
reclaimed, up to HIGH_WM (R69, R96, R361). -/
def passReady (n : Nat) (p : Part) (s : State) : State :=
  reclaimPrefixes n (highWm p) (s.staging.foldl
    (fun s x => if x.2.part = n ∧ projected s n < highWm p then discardStaged x.1 s else s) s)

/-- A pass settles by how its candidates end. -/
theorem preemptPass_eq {s s3 : State} {n : Nat} {p : Part} {retry took : Bool} {e : PassEnd}
    (h : takeCandidates n (highWm p) (preemptOrder (passReady n p s) n retry) false (passReady n p s) = ((e, took), s3)) :
    preemptPass n p retry s = settlePass n e took s3 := by
  have hpass : preemptPass n p retry s =
      let x := takeCandidates n (highWm p) (preemptOrder (passReady n p s) n retry) false (passReady n p s)
      settlePass n x.1.1 x.1.2 x.2 := rfl
  rw [hpass, h]

/-- A pass that is due in a partition below LOW_WM runs; in a starved one it is a further try. -/
theorem exec_preemptionPass_due {s : State} {n : Nat} {p : Part} (hs : serving s = true) (hp : part? s n = some p)
    (hdue : p.passDue = true) (hwm : p.lowWm ≠ 0) (hlow : partFree s n < lowWm p) :
    exec (.preemptionPass n) s = .next (after s (preemptPass n p p.starved s)) := by
  have hrow : exec (.preemptionPass n) s = execPreemptionPass n s := rfl
  rw [hrow, execPreemptionPass]
  simp [hs, hp, hdue, hwm, Nat.not_le.mpr hlow, done_eq_after]

/-- A starved partition below LOW_WM tries again. -/
theorem exec_preemptRetry_starved {s : State} {n : Nat} {p : Part} (hs : serving s = true) (hp : part? s n = some p)
    (hst : p.starved = true) (hlow : partFree s n < lowWm p) (hwm : lowWm p ≤ highWm p) :
    exec (.preemptRetry n) s = .next (after s (preemptPass n p true s)) := by
  have hrow : exec (.preemptRetry n) s = execPreemptRetry n s := rfl
  rw [hrow, execPreemptRetry]
  simp [hs, hp, hst, Nat.not_le.mpr hlow, Nat.not_le.mpr (Nat.lt_of_lt_of_le hlow hwm), done_eq_after]

/-- A partition with eviction on and fewer free entries than ENTRY_LOW is evicted up to ENTRY_HIGH. -/
theorem exec_eviction_low {s : State} {n : Nat} (hs : serving s = true) (hon : bitOf (regWord s (0x00403000 + n * 0x10)) 63 = true)
    (hp : (part? s n).isSome = true) (hh : hostUsable s = true)
    (hlow : dirFree s n < bitsOf (regWord s (0x00403000 + n * 0x10)) 22 0) :
    exec (.eviction n) s = .next (after s (evictUntil n
      (max (bitsOf (regWord s (0x00403000 + n * 0x10)) 22 0) (bitsOf (regWord s (0x00403000 + n * 0x10)) 54 32))
      (evictionOrder s n) s)) := by
  have hrow : exec (.eviction n) s = execEviction n s := rfl
  have hn : (part? s n).isNone = false := Option.isNone_eq_false_iff.mpr hp
  rw [hrow, execEviction]
  simp [hs, hon, hn, hh, Nat.not_le.mpr hlow, done_eq_after]

/-- The ROWZERO of a page that is being freed is queued once. -/
theorem exec_pageFree_zeroing {s : State} {page : Nat} {x : PageRec} (hs : serving s = true) (hx : mfind s.pages page = some x)
    (huse : x.use = .zeroing) (hq : zeroQueued s page = false) :
    exec (.pageFree page) s = .next (after s
      (updPc (pagePc page) (fun c => { c with rowQ := c.rowQ ++ [zeroCmd page] }) (settleHeld page s))) := by
  have hrow : exec (.pageFree page) s = execPageFree page s := rfl
  rw [hrow, execPageFree]
  simp [hs, hx, huse, hq, done_eq_after]

/-- Settles O42: a pass by where its candidates end, the other commands by their own lemmas. -/
theorem poolCommandsComplete : Obligations.PoolCommandsComplete := by
  unfold Obligations.PoolCommandsComplete
  refine ⟨fun s s3 n p e took hs hp hdue hwm hst hlow hend => ?_, fun s s3 n p e took hs hp hst hlow hwm hend => ?_,
    fun s n hs hon hp hh hlow => exec_eviction_low hs hon hp hh hlow,
    fun s page x hs hx huse hq => exec_pageFree_zeroing hs hx huse hq⟩
  · rw [exec_preemptionPass_due hs hp hdue hwm hlow, hst, preemptPass_eq hend]
  · rw [exec_preemptRetry_starved hs hp hst hlow hwm, preemptPass_eq hend]

end Sys2Proof.Machine
end

section
/-!
PROOFS. The family of the sequence directory: which match a search answers (R83, R84), insert-if-absent (R88), and the commands of the
directory's queues, quota windows and scrubber (R87, R97, R98, R103).
-/

namespace Sys2Proof.Machine

open Sys2Proof

/-! ### The order of matches (R83) -/

/-- Of two matches, `y` ranks at least as high as `x`: it has the higher priority or, of equal priorities, no higher address. -/
def ranksAtLeast (y x : Nat × DirEntry) : Prop := x.2.pri < y.2.pri ∨ (x.2.pri = y.2.pri ∧ y.1 ≤ x.1)

theorem ranksAtLeast_refl (x : Nat × DirEntry) : ranksAtLeast x x := .inr ⟨rfl, le_rfl⟩

theorem ranksAtLeast_trans {x y z : Nat × DirEntry} (hzy : ranksAtLeast z y) (hyx : ranksAtLeast y x) : ranksAtLeast z x := by
  rcases hyx with hlt | ⟨heq, hle⟩
  · rcases hzy with hlt' | ⟨heq', -⟩
    · exact .inl (BitVec.lt_trans hlt hlt')
    · exact .inl (heq' ▸ hlt)
  · rcases hzy with hlt' | ⟨heq', hle'⟩
    · exact .inl (heq ▸ hlt')
    · exact .inr ⟨heq.trans heq', hle'.trans hle⟩

/-- The better of two matches is one of them, and ranks at least as high as both. -/
theorem betterMatch_some (b x : Nat × DirEntry) :
    ∃ c, betterMatch (some b) x = some c ∧ (c = b ∨ c = x) ∧ ranksAtLeast c b ∧ ranksAtLeast c x := by
  by_cases h : b.2.pri < x.2.pri ∨ (b.2.pri = x.2.pri ∧ x.1 < b.1)
  · exact ⟨x, by simp [betterMatch, h], .inr rfl, h.imp_right (And.imp_right Nat.le_of_lt), ranksAtLeast_refl x⟩
  · refine ⟨b, by simp [betterMatch, h], .inl rfl, ranksAtLeast_refl b, ?_⟩
    unfold ranksAtLeast
    bv_omega

/-- The best-so-far record that goes along the chain (R84) ends as one of the matches it met, and none of them ranks higher. -/
theorem foldl_betterMatch_some (l : List (Nat × DirEntry)) (b : Nat × DirEntry) :
    ∃ c, l.foldl betterMatch (some b) = some c ∧ c ∈ b :: l ∧ ∀ x ∈ b :: l, ranksAtLeast c x := by
  induction l generalizing b with
  | nil => exact ⟨b, rfl, by simp, by simp [ranksAtLeast_refl]⟩
  | cons y l ih =>
    obtain ⟨d, hd, hmem, hdb, hdy⟩ := betterMatch_some b y
    obtain ⟨c, hc, hcmem, hbest⟩ := ih d
    have hcd : ranksAtLeast c d := hbest d List.mem_cons_self
    refine ⟨c, by rw [List.foldl_cons, hd, hc], ?_, ?_⟩
    · rcases List.mem_cons.mp hcmem with rfl | hin
      · rcases hmem with rfl | rfl <;> simp
      · simp [hin]
    · rw [List.forall_mem_cons, List.forall_mem_cons]
      exact ⟨ranksAtLeast_trans hcd hdb, ranksAtLeast_trans hcd hdy, fun x hx => hbest x (List.mem_cons_of_mem _ hx)⟩

/-- The chain answers a miss just where there is no match. -/
theorem foldl_betterMatch_eq_none_iff (l : List (Nat × DirEntry)) : l.foldl betterMatch none = none ↔ l = [] := by
  cases l with
  | nil => simp
  | cons b l =>
    obtain ⟨c, hc, -, -⟩ := foldl_betterMatch_some l b
    simp [betterMatch, hc]

/-- What the chain answers is a match, and none ranks higher. -/
theorem foldl_betterMatch_eq_some {l : List (Nat × DirEntry)} {c : Nat × DirEntry} (h : l.foldl betterMatch none = some c) :
    c ∈ l ∧ ∀ x ∈ l, ranksAtLeast c x := by
  cases l with
  | nil => cases h
  | cons b l =>
    obtain ⟨d, hd, hmem, hbest⟩ := foldl_betterMatch_some l b
    obtain rfl : d = c := Option.some.inj (hd.symm.trans h)
    exact ⟨hmem, hbest⟩

/-! ### Searches (R83) -/

theorem dirHit_iff {s : State} {n : Nat} {key : BitVec 96} {x : Nat × DirEntry} :
    dirHit s n key x = true ↔ x.2.key = key ∧ mget 64 s.dir.segOwn (x.1 / segSize) = n := by
  simp [dirHit]

/-- A search misses just where no entry is a match. -/
theorem dirSearch_eq_none_iff {s : State} {n : Nat} {key : BitVec 96} :
    dirSearch s n key = none ↔ ∀ x ∈ s.dir.entries, ¬ dirHit s n key x = true := by
  rw [dirSearch, foldl_betterMatch_eq_none_iff, List.filter_eq_nil_iff]

/-- What a search answers is a match, and none ranks higher. -/
theorem dirSearch_eq_some {s : State} {n : Nat} {key : BitVec 96} {y : Nat × DirEntry} (h : dirSearch s n key = some y) :
    (y ∈ s.dir.entries ∧ dirHit s n key y = true) ∧
      ∀ x ∈ s.dir.entries, dirHit s n key x = true → ranksAtLeast y x := by
  obtain ⟨hmem, hbest⟩ := foldl_betterMatch_eq_some h
  exact ⟨List.mem_filter.mp hmem, fun x hx hhit => hbest x (List.mem_filter.mpr ⟨hx, hhit⟩)⟩

/-- Settles O57: the chain's record ends as the match of highest rank. -/
theorem searchRule : Obligations.SearchRule := by
  unfold Obligations.SearchRule
  intro s n key hit
  have hhit : ∀ x, hit x ↔ x ∈ s.dir.entries ∧ dirHit s n key x = true := fun x => and_congr_right' dirHit_iff.symm
  simp only [hhit]
  refine ⟨by simp [dirSearch_eq_none_iff], fun a e h => ?_⟩
  obtain ⟨hmatch, hbest⟩ := dirSearch_eq_some h
  exact ⟨hmatch, fun x hx => hbest x hx.1 hx.2⟩

/-! ### Insert-if-absent (R88) -/

/-- A write of a key that a table does not have adds one member and takes none away. -/
theorem mset_of_mfind_eq_none {α : Type} {m : List (Nat × α)} {k : Nat} (h : mfind m k = none) (v : α) :
    ∃ l₁ l₂, m = l₁ ++ l₂ ∧ mset m k v = l₁ ++ (k, v) :: l₂ := by
  induction m with
  | nil => exact ⟨[], [], rfl, rfl⟩
  | cons c m ih =>
    obtain ⟨j, w⟩ := c
    have hjk : j ≠ k := fun hjk => by simp [mfind, hjk] at h
    by_cases hlt : k < j
    · exact ⟨[], (j, w) :: m, rfl, by simp [mset, hlt]⟩
    · obtain ⟨l₁, l₂, hm, hset⟩ := ih (by simpa [mfind, hjk] using h)
      exact ⟨(j, w) :: l₁, l₂, by simp [hm], by simp [mset, hlt, hjk.symm, hset]⟩

/-- A word written into the directory changes no owner of a segment, so an entry is a match as before. -/
@[simp] theorem dirHit_dirPut (a : Nat) (e : DirEntry) (s : State) (n : Nat) (key : BitVec 96) :
    dirHit (dirPut a e s) n key = dirHit s n key := rfl

/-- A search after a word was written at an address that held none: the chain meets the new entry among the old ones. -/
theorem dirSearch_dirPut {s : State} {a : Nat} (ha : mfind s.dir.entries a = none) (e : DirEntry) (n : Nat) (key : BitVec 96) :
    ∃ l₁ l₂, s.dir.entries = l₁ ++ l₂ ∧
      dirSearch (dirPut a e s) n key = ((l₁ ++ (a, e) :: l₂).filter (dirHit s n key)).foldl betterMatch none := by
  obtain ⟨l₁, l₂, hold, hnew⟩ := mset_of_mfind_eq_none ha e
  exact ⟨l₁, l₂, hold, by rw [dirSearch, dirHit_dirPut, ← hnew]; rfl⟩

/-- A new entry that is no match of a search does not change what the search answers. -/
theorem dirSearch_dirPut_of_not_hit {s : State} {a n : Nat} {e : DirEntry} {key : BitVec 96} (ha : mfind s.dir.entries a = none)
    (hhit : ¬ dirHit s n key (a, e) = true) : dirSearch (dirPut a e s) n key = dirSearch s n key := by
  obtain ⟨l₁, l₂, hold, hnew⟩ := dirSearch_dirPut ha e n key
  rw [hnew, dirSearch, hold, List.filter_append, List.filter_cons_of_neg hhit, ← List.filter_append]

/-- A new entry that is the first match of a search is what the search answers. -/
theorem dirSearch_dirPut_of_hit {s : State} {a n : Nat} {e : DirEntry} {key : BitVec 96} (ha : mfind s.dir.entries a = none)
    (hmiss : dirSearch s n key = none) (hhit : dirHit s n key (a, e) = true) :
    dirSearch (dirPut a e s) n key = some (a, e) := by
  obtain ⟨l₁, l₂, hold, hnew⟩ := dirSearch_dirPut ha e n key
  have hnone : (l₁ ++ l₂).filter (dirHit s n key) = [] :=
    List.filter_eq_nil_iff.mpr (hold ▸ dirSearch_eq_none_iff.mp hmiss)
  obtain ⟨h₁, h₂⟩ := List.append_eq_nil_iff.mp (List.filter_append (p := dirHit s n key) l₁ l₂ ▸ hnone)
  rw [hnew, List.filter_append, List.filter_cons_of_pos hhit, h₁, h₂]
  rfl

/-- An insert of a key that a search finds writes nothing. -/
theorem dirInsert_of_found {s : State} {n : Nat} {key : BitVec 96} (h : (dirSearch s n key).isSome = true) (pri data : Nat) :
    dirInsert n key pri data s = none := by
  obtain ⟨x, hx⟩ := Option.isSome_iff_exists.mp h
  rw [dirInsert, hx]

/-- Settles O58: the entry that an insert adds is the only match of its key, and no match of another key or partition. -/
theorem insertIfAbsent : Obligations.InsertIfAbsent := by
  unfold Obligations.InsertIfAbsent
  intro s n pri data key
  refine ⟨fun hfound => dirInsert_of_found hfound pri data, fun a t hins hfree hown => ?_⟩
  obtain ⟨hmiss, -, rfl⟩ := dirInsert_some hins
  have hfound : dirSearch (dirPut a (dirWord key pri data) s) n key = some (a, dirWord key pri data) :=
    dirSearch_dirPut_of_hit hfree hmiss (dirHit_iff.mpr ⟨rfl, hown⟩)
  refine ⟨hmiss, hfound, dirInsert_of_found (by simp [hfound]), fun n' key' hother => ?_⟩
  refine dirSearch_dirPut_of_not_hit hfree fun hhit => ?_
  obtain ⟨hkey, hpart⟩ := dirHit_iff.mp hhit
  rcases hother with hn | hk
  · exact hn (hpart.symm.trans hown)
  · exact hk hkey.symm

/-! ### The queues of the dies (R87, R97) -/

/-- The intake of a die settles: what quota allows is admitted, and a partition whose queue is no longer full may send again. -/
def settleDie (d : Nat) (s : State) : State :=
  updDirDie d (fun y => { y with stopped := y.stopped.filter fun n => decide (4096 ≤ y.wait.countP fun w => w.part == n) })
    (admitAll d (dirDie s d).wait.length s)

/-- DIRECTORY_OPERATION with no arrival, on a die that is ready: both intakes settle, and the die takes one queue step. -/
theorem exec_directoryOperation_ready {s t : State} {die : Nat} (hs : serving s = true) (hready : (dirDie s die).ready = true)
    (hstep : stepQueue die (settleDie 1 (settleDie 0 s)) = t) :
    exec (.directoryOperation die none) s = .next (after s t) := by
  have hrow : exec (.directoryOperation die none) s =
      if !serving s || !(dirDie s die).ready then done s s
      else done s (stepQueue die (settleDie 1 (settleDie 0 s))) := rfl
  rw [hrow, if_neg (by simp [hs, hready]), done_eq_of_eq hstep]

/-- The head of a die's queue is performed, unless DD0 has to pass it on or waits for an insert on its way through DD1. -/
theorem stepQueue_performs {s : State} {d : Nat} {x : DirJob} {xs : List DirJob} (hq : (dirDie s d).queue = x :: xs)
    (hd : d ≠ 0 ∨ (cascaded s x.req = false ∧ insertPassing s = false)) :
    stepQueue d s = performOp d x (updDirDie d (fun y => { y with queue := xs }) s) := by
  have hstay : ¬ (d = 0 ∧ insertPassing s = true) := by rintro ⟨h0, hpass⟩; simp [h0, hpass] at hd
  have hhere : ¬ (d = 0 ∧ cascaded s x.req = true) := by rintro ⟨h0, hcas⟩; simp [h0, hcas] at hd
  simp only [stepQueue, hq, if_neg hstay, if_neg hhere]

/-- A cascaded operation at the head of DD0's queue passes to DD1 with the record of what DD0 found. -/
theorem stepQueue_passes {s : State} {x : DirJob} {xs : List DirJob} (hq : (dirDie s 0).queue = x :: xs)
    (hcas : cascaded s x.req = true) (hpass : insertPassing s = false) :
    stepQueue 0 s = updDirDie 1 (fun y => { y with queue := y.queue ++ [{ x with passed := true, best := dd0Best s x.req }] })
      (updDirDie 0 (fun y => { y with queue := xs }) s) := by
  simp [stepQueue, hq, hcas, hpass]

/-! ### Quota windows and the scrubber (R97 to R99, R103) -/

/-- The state in which a new window opens: the quotas and the throttle step that waited are in force. -/
def quotasInForce (s : State) : State :=
  { s with parts := s.parts.map (fun x => (x.1, applyQuota x.2)), dir := { s.dir with step := s.dir.stepNext } }

/-- A new window opens on one die, in which the requests that wait in `s` are counted. -/
def openWindow (s : State) (d : Nat) : State → State :=
  updDirDie d (newWindow (fun n => quotaOf (quotasInForce s) n d) (waitingReqParts s d))

/-- DIRECTORY_QUOTA_WINDOW of a serving node opens the windows of both dies, then admits on DD0 and on DD1. -/
theorem exec_directoryQuotaWindow_serving {s : State} (hs : serving s = true) :
    exec .directoryQuotaWindow s =
      let s2 := openWindow s 1 (openWindow s 0 (quotasInForce s))
      let s3 := admitAll 0 s2.dir.dd0.wait.length s2
      .next (after s (admitAll 1 s3.dir.dd1.wait.length s3)) := by
  have hrow : exec .directoryQuotaWindow s = execDirectoryQuotaWindow s := rfl
  rw [hrow, execDirectoryQuotaWindow, if_neg (by simp [hs])]
  rfl

/-- The scrubber's next read: what it cleared before is rewritten, and its position moves on. -/
def scrubNext (die : Nat) (s : State) : State :=
  updDirDie die (fun x => { x with scrubPos := (x.scrubPos + 1) % 2097152 }) (rewriteCleared die s)

/-- What the scrubber does with an entry it has read at address `a`. -/
def scrubFound (die a : Nat) (s : State) : ReadOutcome → State
  | .clean => s
  | .correctable => updDirDie die (fun x => { x with corrected := sat32 (x.corrected + 1) }) s
  | .uncorrectable =>
    dirUncorrected a (updDirDie die (fun x => { x with repairs := x.repairs ++ [a] })
      { s with dir := { s.dir with entries := mdel s.dir.entries a } })

/-- DIRECTORY_SCRUB of a die whose scrubber runs reads its next entry. -/
theorem exec_directoryScrub_running {s : State} {die : Nat} (hs : serving s = true)
    (hon : regWord s (0x00400000 + die % 2 * 0x200000) % 2 = 1) (found : ReadOutcome) :
    exec (.directoryScrub die found) s =
      .next (after s (scrubFound die (scrubAddr (rewriteCleared die s) die) (scrubNext die s) found)) := by
  have hrow : exec (.directoryScrub die found) s = execDirectoryScrub die found s := rfl
  rw [hrow, execDirectoryScrub, if_neg (by simp [hs])]
  dsimp only
  rw [if_neg (by omega)]
  cases found <;> rfl

/-- Settles O44: an operation by the queue step of its die, the other commands by their own lemmas. -/
theorem directoryCommandsComplete : Obligations.DirectoryCommandsComplete := by
  unfold Obligations.DirectoryCommandsComplete
  refine ⟨fun s die x xs hs hready hq => ⟨fun hd => exec_directoryOperation_ready hs hready (stepQueue_performs hq hd), ?_⟩,
    fun s hs => exec_directoryQuotaWindow_serving hs,
    fun s die hs hon => ⟨exec_directoryScrub_running hs hon .clean, exec_directoryScrub_running hs hon .correctable,
      exec_directoryScrub_running hs hon .uncorrectable⟩⟩
  rintro rfl hcas hpass
  exact exec_directoryOperation_ready hs hready (stepQueue_passes hq hcas hpass)

end Sys2Proof.Machine
end

section
/-!
PROOFS. The family of the attention operations: the attention requests (R107 to R127, R142), the backward pass in its accumulator set
(R137 to R141), appends (R114 to R117, R214 to R217), swaps (R357 to R359) and MERGE (R136).
-/

namespace Sys2Proof.Machine

open Sys2Proof

/-! ### The attention requests (Table 4.11) -/

/-- A BE request, or an LC one whose jobs have cores, is not answered SCHEDULE_FAULT (R311). -/
theorem scheduleFault_not_due {s : State} {r : Req} {jobs : List Job} (h : r.lc = true → (lcCores s r jobs).isSome = true) :
    (r.lc && (lcCores s r jobs).isNone) = false := by
  cases hlc : r.lc with
  | false => rfl
  | true => simpa using h hlc

/-- Orders 1 to 3 of Table 4.11 let an attention request through: it was taken in `t`, its search left `s` with the descriptor `d` at
`m`, and it reads its layer there as `x`, on the Moss path or not. -/
structure AttReads (op : Nat) (r : Req) (n m : Nat) (moss : Bool) (d : Desc) (x : Reading) (t s : State) : Prop where
  part : reqPart t r = some n
  gate : gate t n r op [(attBlock r.body).seq] = none
  bytes : attBytesOk op r = true
  named : ∃ lc, nameSeq r op n (attBlock r.body).seq (attBlock r.body).lg t = .found m lc s
  desc : desc? s m = some d
  reading : ∃ hook, hookOf t n op (attBlock r.body) = some hook ∧ readingOf false s n (attBlock r.body) hook d = some x
  path : pathOf s op (attBlock r.body) d x = some moss
  heads : headsOk (attBlock r.body) x.geo = true
  theta : attThetaOk d (attBlock r.body) x = true
  length : r.body.length = attLength op (attBlock r.body) x.geo

/-- A request that reads its layer goes on to order 4. -/
theorem AttReads.runAtt_eq {op n m : Nat} {r : Req} {moss : Bool} {d : Desc} {x : Reading} {t s : State}
    (h : AttReads op r n m moss d x t s) : runAtt op false none r t = runAttAt r op n m (attBlock r.body) x moss none d s := by
  obtain ⟨lc, hname⟩ := h.named
  obtain ⟨hook, hhook, hreading⟩ := h.reading
  rw [hookOf] at hhook
  simp [runAtt, h.part, h.gate, hhook, h.bytes, hname, h.desc, hreading, h.path, h.heads, h.theta, h.length]

/-- Orders 6 to 8 for an attention request that has not waited: the pages of what it reads now of its layer. -/
def attPages (op : Nat) (r : Req) (m : Nat) (d : Desc) (x : Reading) (s : State) : Except State State :=
  let a := attBlock r.body
  let p := snapshot d x
  let c := tailSeen d op a r.arrival
  let rs := readRanges d a x (p + c)
  pagesReady r op m rs (touchedEntries d x (positions rs)) ⟨p, c, attViews d a x (p + c)⟩ s

/-- A request whose positions hold and whose turn it is, with its pages there, is worked on as its kind asks (orders 4 to 12). -/
theorem runAttAt_ready {op n m : Nat} {r : Req} {moss : Bool} {d : Desc} {x : Reading} {s s' : State}
    (hlimit : (attBlock r.body).qpos + (attBlock r.body).rows - 1 ≤ 0xFFFFFFFE)
    (htag : op = 1 → keptTagAnswer r op m (attBlock r.body).tag s = none)
    (hfailed : op = 3 → (bwdHead r.body).index = 0 ∨ d.repl.failedSets.contains (attBlock r.body).layer = false)
    (hring : ringPosOk (attBlock r.body) (snapshot d x) d x = true)
    (hturn : op = 3 → bwdTurn s m (attBlock r.body).layer (bwdHead r.body).index = .apply)
    (hready : attPages op r m d x s = .ok s') :
    runAttAt r op n m (attBlock r.body) x moss none d s =
      if op = 3 then runBackward r n m (attBlock r.body) x (snapshot d x) (bwdHead r.body) s'
      else runForward r op n m (attBlock r.body) x moss (snapshot d x) (tailSeen d op (attBlock r.body) r.arrival) s' := by
  have hkept : (if op = 1 then keptTagAnswer r op m (attBlock r.body).tag s else none) = none :=
    ite_eq_right_iff.mpr htag
  have hset : ¬ (op = 3 ∧ (bwdHead r.body).index ≠ 0 ∧ d.repl.failedSets.contains (attBlock r.body).layer = true) := by
    rintro ⟨h3, hindex, hcon⟩
    rcases hfailed h3 with h0 | hnot
    · exact hindex h0
    · exact Bool.false_ne_true (hnot.symm.trans hcon)
  have hgo : (if op = 3 then bwdTurn s m (attBlock r.body).layer (bwdHead r.body).index else .apply) = Turn.apply :=
    ite_eq_right_iff.mpr hturn
  simp only [attPages] at hready
  simp only [runAttAt, Option.map_none, Option.getD_none, if_neg (Nat.not_lt.mpr hlimit), hkept, if_neg hset, hring,
    Bool.not_true, Bool.false_eq_true, if_false, hgo, hready]

/-- A forward request whose rows are read and whose sums are formed starts its jobs. -/
theorem runForward_attended {op n m p c : Nat} {r : Req} {x : Reading} {moss : Bool} {d : Desc} {hs : List HeadRead} {ts : List Tup}
    {s : State} (hdesc : desc? s m = some d) (hheads : readHeads s d (attBlock r.body) x (p + c) x.heads = .ok hs)
    (hsums : forwardAll (attBlock r.body) x hs (attArrays op (attBlock r.body) x.geo r.body) = some ts)
    (hcores : r.lc = true → (lcCores s r (attJobs s m op moss d (attBlock r.body) x hs
      (attArrays op (attBlock r.body) x.geo r.body))).isSome = true) :
    runForward r op n m (attBlock r.body) x moss p c s = attended r op n m (attBlock r.body) x moss p c d hs ts s := by
  simp [runForward, hdesc, hheads, hsums, scheduleFault_not_due hcores]

/-- Settles O34: what orders 1 to 3 read, the pages of it, then its sums. -/
theorem attentionCompletes : Obligations.AttentionCompletes := by
  unfold Obligations.AttentionCompletes
  intro s t s1 s2 r op n m lc moss hook d d2 x hs ts a p c hop hadm hhook hbytes hname hdesc hreading hpath hgeo htheta hlength
    hlimit htag hring hready hdesc2 hheads hsums hcores
  have hwork : reqPart t r = some n → gate t n r op [a.seq] = none →
      runAtt op false none r t = attended r op n m a x moss p c d2 hs ts s2 := fun hpart hgate => by
    have hreads : AttReads op r n m moss d x t s1 :=
      ⟨hpart, hgate, hbytes, ⟨lc, hname⟩, hdesc, ⟨hook, hhook, hreading⟩, hpath, hgeo, htheta, hlength⟩
    have hforward : op ≠ 3 := by omega
    rw [hreads.runAtt_eq, runAttAt_ready hlimit htag (fun h3 => absurd h3 hforward) hring (fun h3 => absurd h3 hforward) hready,
      if_neg hforward, runForward_attended hdesc2 hheads hsums hcores]
  rcases hop with rfl | rfl
  · exact done_requestRow_admitted hadm hwork
  · exact done_requestRow_admitted hadm hwork

/-! ### The backward pass (R137 to R141) -/

/-- A backward request whose rows are read, with room in its set, adds its gradients to the set. -/
theorem runBackward_applied {n m p : Nat} {r : Req} {x : Reading} {head : BwdHead} {d : Desc} {hs : List HeadRead}
    {rows : List (HeadRead × List BwdRow)} {s : State} (hdesc : desc? s m = some d)
    (hheads : readHeads s d (attBlock r.body) x p x.heads = .ok hs)
    (hroom : accFits s (backwardNeeds s d m (attBlock r.body) x hs r.body) = true)
    (hrows : backwardRows (attBlock r.body) x hs r.body = some rows)
    (hcores : r.lc = true → (lcCores s r (attJobs s m 3 false d (attBlock r.body) x hs
      (attArrays 3 (attBlock r.body) x.geo r.body))).isSome = true) :
    runBackward r n m (attBlock r.body) x p head s = backwardApplied r n m (attBlock r.body) x p head d hs rows s := by
  simp [runBackward, hdesc, hheads, hroom, hrows, scheduleFault_not_due hcores]

/-- Settles O35: as for the forward requests, with its turn and its set in place of the sums. -/
theorem backwardCompletes : Obligations.BackwardCompletes := by
  unfold Obligations.BackwardCompletes
  intro s t s1 s2 r n m lc moss hook d d2 x hs rows a p c head hadm hhook hbytes hname hdesc hreading hpath hgeo htheta hlength
    hlimit hfailed hring hturn hready hdesc2 hheads hroom hrows hcores
  refine done_requestRow_admitted hadm fun hpart hgate => congrArg afterWork ?_
  have hreads : AttReads 3 r n m moss d x t s1 :=
    ⟨hpart, hgate, hbytes, ⟨lc, hname⟩, hdesc, ⟨hook, hhook, hreading⟩, hpath, hgeo, htheta, hlength⟩
  rw [hreads.runAtt_eq, runAttAt_ready hlimit (by simp) (fun _ => hfailed) hring (fun _ => hturn) hready, if_pos rfl,
    runBackward_applied hdesc2 hheads hroom hrows hcores]

/-! ### Appends (R114 to R117, R214 to R217) -/

/-- What both appends ask of the descriptor `d` that they name before what their own kind asks: nothing holds the append, its geometry
is that of the layer, and its positions lie in range. -/
structure AppendFits (r : Req) (m : Nat) (d : Desc) (s : State) : Prop where
  desc : desc? s m = some d
  first : earlierHeld s r = false
  settled : changePending s m = false
  geometry : appendGeometry (appendHead r.body) d r.body.length = true
  tables : wrongClass s d (plansOf s (appendHead r.body) d r.body) = false
  limit : (appendHead r.body).first + (appendHead r.body).count ≤ 0xFFFFFFFF
  unseen : viewHolds s m (appendHead r.body).layer (appendHead r.body).first
    ((appendHead r.body).first + (appendHead r.body).count) = false

/-- KV_APPEND behind every stream's last token, with pages for its rows, writes them. -/
theorem runKvAppend_appended {t s s' : State} {r : Req} {n m : Nat} {lc : Bool} {d : Desc} (hfits : AppendFits r m d s)
    (hpart : reqPart t r = some n) (hgate : gate t n r 4 [(appendHead r.body).seq] = none)
    (hbytes : appendBytesOk false r.body = true)
    (hname : nameSeq r 4 n (appendHead r.body).seq (appendHead r.body).lg t = .found m lc s) (htail : d.chrysalis = none)
    (hfollows : ∀ st ∈ (layerStreams d (appendHead r.body).layer).filterMap (d.streams[·]?),
      st.tokens = (appendHead r.body).first)
    (hspace : appendSpace r 4 m (plansOf s (appendHead r.body) d r.body)
      (writtenEntries d (plansOf s (appendHead r.body) d r.body)) false s = .ok s') :
    runKvAppend false r t = appended r n m (appendHead r.body) d (plansOf s (appendHead r.body) d r.body) s' := by
  have hany : (((layerStreams d (appendHead r.body).layer).filterMap (d.streams[·]?)).any
      fun st => st.tokens != (appendHead r.body).first) = false := by
    rw [List.any_eq_false]
    intro st hst
    simp [hfollows st hst]
  simp only [runKvAppend, hpart, hgate, hbytes, hname, hfits.desc, hfits.first, hfits.settled, hfits.geometry, hfits.tables,
    Nat.not_lt.mpr hfits.limit, hfits.unseen, htail, hany, hspace, Bool.not_true, Bool.not_false, Bool.and_false, Bool.or_false,
    Option.isSome_none, Bool.false_eq_true, if_false]

/-- KV_APPEND_SPEC behind the tail of its tag, or opening one, with room and pages for its rows, writes them. -/
theorem runKvAppendSpec_appended {t s s' : State} {r : Req} {n m : Nat} {lc : Bool} {d : Desc} (hfits : AppendFits r m d s)
    (hpart : reqPart t r = some n) (hgate : gate t n r 5 [(appendHead r.body).seq] = none)
    (hbytes : appendBytesOk true r.body = true)
    (hname : nameSeq r 5 n (appendHead r.body).seq (appendHead r.body).lg t = .found m lc s)
    (htag : keptTagAnswer r 5 m (appendHead r.body).tag s = none) (hpos : specPosOk d (appendHead r.body) = true)
    (hspace : appendSpace r 5 m (plansOf s (appendHead r.body) d r.body)
      (writtenEntries d (plansOf s (appendHead r.body) d r.body))
      (decide (16 < tailCount d (appendHead r.body).layer + (appendHead r.body).count)) s = .ok s') :
    runKvAppendSpec false r t = appendedSpec r n m (appendHead r.body) d (plansOf s (appendHead r.body) d r.body) s' := by
  simp only [runKvAppendSpec, hpart, hgate, hbytes, hname, hfits.desc, hfits.first, hfits.settled, hfits.geometry, hfits.tables,
    Nat.not_lt.mpr hfits.limit, hfits.unseen, htag, hpos, hspace, Bool.not_true, Bool.not_false, Bool.and_false, Bool.or_false,
    Bool.false_eq_true, if_false]

/-- Settles O36: each kind of append by its own lemma. -/
theorem appendsComplete : Obligations.AppendsComplete := by
  unfold Obligations.AppendsComplete
  intro s t s1 s2 r n m lc d h plans hdesc hfirst hsettled hgeo htables hlimit hunseen
  have hfits : AppendFits r m d s1 := ⟨hdesc, hfirst, hsettled, hgeo, htables, hlimit, hunseen⟩
  refine ⟨fun hadm hbytes hname htail hfollows hspace => ?_, fun hadm hbytes hname htag hpos hspace => ?_⟩
  · exact done_requestRow_admitted hadm fun hpart hgate =>
      runKvAppend_appended hfits hpart hgate hbytes hname htail hfollows hspace
  · exact done_requestRow_admitted hadm fun hpart hgate =>
      runKvAppendSpec_appended hfits hpart hgate hbytes hname htag hpos hspace

/-! ### Swaps (R357 to R359) and MERGE (R136) -/

/-- SWAP_OUT of a sequence with no tail, with swap slots for the pages it selects, moves them. -/
theorem runSwapOut_moved {t s : State} {r : Req} {n m : Nat} {lc : Bool} {d : Desc} (hpart : reqPart t r = some n)
    (hgate : gate t n r 0x20 [fieldAt r.body 0 5] = none) (hbytes : swapBodyOk r.body true = true)
    (hname : nameSeq r 0x20 n (fieldAt r.body 0 5) (fieldAt r.body 8 1) t = .found m lc s)
    (hdesc : desc? (finishDemands m s) m = some d) (htail : d.chrysalis = none)
    (hhere : anyFetching d (swapOutPages (finishDemands m s) r.body d) = false)
    (hslots : (swapOutPages (finishDemands m s) r.body d).length ≤
      (swapSlotsFor (finishDemands m s) n (swapOutPages (finishDemands m s) r.body d).length).length) :
    runSwapOut r t = respond r 0x20 stOk 0 (swapBody stOk (swapOutPages (finishDemands m s) r.body d).length 0 0)
      (swapOutAll m (swapOutPages (finishDemands m s) r.body d)
        (swapSlotsFor (finishDemands m s) n (swapOutPages (finishDemands m s) r.body d).length) (finishDemands m s)) := by
  simp [runSwapOut, hpart, hgate, hbytes, hname, hdesc, htail, hhere, Nat.not_lt.mpr hslots]

/-- SWAP_IN with HINT starts the stagings of the pages it selects. -/
theorem runSwapIn_staged {t s s' : State} {r : Req} {n m k : Nat} {lc : Bool} {d : Desc} (hpart : reqPart t r = some n)
    (hgate : gate t n r 0x21 [fieldAt r.body 0 5] = none) (hbytes : swapBodyOk r.body false = true)
    (hname : nameSeq r 0x21 n (fieldAt r.body 0 5) (fieldAt r.body 8 1) t = .found m lc s) (hhint : swapHint r.body = true)
    (hdesc : desc? s m = some d) (hstage : stageAll m (swapInPages s r.body d) s = (k, s')) :
    runSwapIn r t = respond r 0x21 stOk 0 (swapBody stOk k 0 0) s' := by
  simp [runSwapIn, hpart, hgate, hbytes, hname, hhint, hdesc, hstage]

/-- SWAP_IN without HINT, with pages for those it selects and none of them lost, brings them back. -/
theorem runSwapIn_resident {t s s' s'' : State} {r : Req} {n m k : Nat} {lc : Bool} {d : Desc} {ps : List (Nat × Nat × Nat)}
    (hpart : reqPart t r = some n) (hgate : gate t n r 0x21 [fieldAt r.body 0 5] = none)
    (hbytes : swapBodyOk r.body false = true)
    (hname : nameSeq r 0x21 n (fieldAt r.body 0 5) (fieldAt r.body 8 1) t = .found m lc s) (hhint : swapHint r.body = false)
    (hdesc : desc? (finishDemands m s) m = some d)
    (halloc : allocForSwap m (swapInPages (finishDemands m s) r.body d) (finishDemands m s) = some (ps, s'))
    (hback : swapInAll m ps s' = ((k, false), s'')) :
    runSwapIn r t = noteFree n (respond r 0x21 stOk 0 (swapBody stOk k 0 0) s'') := by
  simp [runSwapIn, hpart, hgate, hbytes, hname, hhint, hdesc, halloc, hback]

/-- MERGE of a well-formed body starts the job of its sums. -/
theorem runMerge_started {t : State} {r : Req} {n : Nat} (hpart : reqPart t r = some n) (hgate : gate t n r 0x30 [] = none)
    (hbytes : mergeOk r.body = true) (hcores : r.lc = true → (lcCores t r [mergeJob r]).isSome = true) :
    runMerge r t = startRun r 0x30 n { body := mergeAnswer r.body, jobs := [mergeJob r] } t := by
  simp [runMerge, hpart, hgate, hbytes, scheduleFault_not_due hcores]

/-- Settles O39: each request by what its work does once it is admitted. -/
theorem swapAndMergeComplete : Obligations.SwapAndMergeComplete := by
  unfold Obligations.SwapAndMergeComplete
  refine ⟨fun s t s1 r n m lc d hadm hbytes hname hdesc htail hhere hslots => ?_,
    fun s t s1 r n m lc d hadm hbytes hname =>
      ⟨fun k s2 hhint hdesc hstage => ?_, fun ps k s2 s3 hhint hdesc halloc hback => ?_⟩,
    fun s t r n hadm hbytes hcores => ?_⟩
  · exact done_requestRow_admitted hadm fun hpart hgate =>
      runSwapOut_moved hpart hgate hbytes hname hdesc htail hhere hslots
  · exact done_requestRow_admitted hadm fun hpart hgate => runSwapIn_staged hpart hgate hbytes hname hhint hdesc hstage
  · exact done_requestRow_admitted hadm fun hpart hgate =>
      runSwapIn_resident hpart hgate hbytes hname hhint hdesc halloc hback
  · exact done_requestRow_admitted hadm fun hpart hgate => runMerge_started hpart hgate hbytes hcores

end Sys2Proof.Machine
end

section
/-!
PROOFS. The family of arithmetic and exponent coding: the ring commands that load and unload code tables, partition programs and
weight sets (R34, R164, R173, R175, R241, R242, R353).
-/

namespace Sys2Proof.Machine

open Sys2Proof

/-- A ring command whose turn it is leaves what its effect makes of the state. -/
theorem done_ringCmd_turn {s u : State} {code n r idx : Nat} {x : Fetched} {f : Fetched → State → State}
    (h : ringTurn s code n r idx x) (hf : f x s = u) :
    (done s (ringCmd code n r idx s f) : Host.Outcome State Fault Refusal) = .next (after s u) :=
  done_eq_of_eq ((ringCmd_turn h).trans hf)

/-! ### Code tables (R164, R173, R175) -/

/-- EXC_LOAD of a well-formed record into a slot with no pending load: it waits where the older generation still has references
(RESULT bit 2), and is effective at once where it has none. -/
theorem exec_excLoad_accepted {s : State} {n r idx : Nat} {x : Fetched} (hturn : ringTurn s 0x20 n r idx x)
    (hrec : recordOk (x.input.getD []) = true) (hconf : isConf s n = false) (hpend : (tableSlot s n x.arg0).pending = none) :
    exec (.excLoad n r idx) s = .next (after s
      (if olderHeld s n x.arg0 then
        complete n r x.idx stOk (nextGen (tableSlot s n x.arg0) + 4)
          (setTable n x.arg0 { tableSlot s n x.arg0 with pending := some (x.input.getD []) } s)
      else complete n r x.idx stOk (nextGen (tableSlot s n x.arg0)) (loadTable n x.arg0 (x.input.getD []) s))) := by
  have hrow : exec (.excLoad n r idx) s = execExcLoad n r idx s := rfl
  rw [hrow, execExcLoad]
  refine done_ringCmd_turn hturn ?_
  simp [hrec, hconf, hpend]

/-- A pending load is effective once the older generation has no references. -/
theorem exec_excLoadEffect_released {s : State} {n k : Nat} {record : List Byte} (hs : serving s = true)
    (hpend : (tableSlot s n k).pending = some record) (hold : olderHeld s n k = false) :
    exec (.excLoadEffect n k) s = .next (after s (loadTable n k record s)) := by
  have hrow : exec (.excLoadEffect n k) s = execExcLoadEffect n k s := rfl
  rw [hrow, execExcLoadEffect]
  simp [hs, hpend, hold, done_eq_after]

/-! ### Programs (R241, R242) -/

/-- PROG_LOAD of a good image under a free number, within the quota, the slice share and the program stores, loads it. -/
theorem exec_progLoad_fits {s : State} {n r idx : Nat} {x : Fetched} {p : Part} {img : List Byte}
    (hturn : ringTurn s 0x21 n r idx x) (himg : x.input.getD [] = img) (hp : part? s n = some p) (hok : progOk img = true)
    (hnew : ∀ y ∈ p.progs, y.number ≠ fieldAt img 2 2)
    (hquota : (p.progs.map fun y => progKib y.image).sum + progKib img ≤ p.progQuota)
    (hshare : (p.progs.map fun y => y.image.length).sum + img.length ≤ progShare p)
    (hstore : progKib img ≤ 4 * (storeFree s).length) :
    exec (.progLoad n r idx) s = .next (after s (complete n r x.idx stOk 0 (updPart n (fun p =>
      { p with progs := p.progs ++ [{ number := fieldAt img 2 2, image := img, loadTs := s.tb.now }] })
      (measure n 1 0 (fieldAt img 2 2) img (storeProg n (fieldAt img 2 2) img s))))) := by
  have hrow : exec (.progLoad n r idx) s = execProgLoad n r idx s := rfl
  have hfree : (p.progs.any fun y => y.number == fieldAt img 2 2) = false := by simpa using hnew
  have hroom : ¬ (p.progQuota < (p.progs.map fun y => progKib y.image).sum + progKib img ∨
      progShare p < (p.progs.map fun y => y.image.length).sum + img.length ∨ 4 * (storeFree s).length < progKib img) := by
    omega
  rw [hrow, execProgLoad]
  refine done_ringCmd_turn hturn ?_
  simp only [himg, hp, hok, hfree, if_neg hroom, Bool.not_true, Bool.false_eq_true, if_false]

/-- PROG_UNLOAD of a loaded program marks it unloading, and waits for the requests that hold it. -/
theorem exec_progUnload_loaded {s : State} {n r idx : Nat} {x : Fetched} {p : Part} (hturn : ringTurn s codeProgUnload n r idx x)
    (hp : part? s n = some p) (hloaded : ∃ y ∈ p.progs, y.number = x.arg0 ∧ y.unloading = false) :
    exec (.progUnload n r idx) s = .next (after s (settleUnloads n (markStarted n r x.idx (updPart n (fun p =>
      { p with progs := p.progs.map fun y => if y.number = x.arg0 then { y with unloading := true } else y }) s)))) := by
  have hrow : exec (.progUnload n r idx) s = execProgUnload n r idx s := rfl
  have hany : (p.progs.any fun y => y.number == x.arg0 && !y.unloading) = true := by simpa using hloaded
  rw [hrow, execProgUnload]
  refine done_ringCmd_turn hturn ?_
  simp only [hp, hany, if_true]

/-! ### Weight sets (R34, R353) -/

/-- The weight set that a WSET_LOAD of an image at a time adds (R126). -/
def wsetOfImage (id now : Nat) (img : List Byte) : WSet :=
  { id := id, layers := fieldAt img 2 2, heads := fieldAt img 4 2, qn := fieldAt img 6 2, l := fieldAt img 8 2, image := img,
    loadTs := now }

/-- WSET_LOAD of a good image under a free identifier, within the partition's bytes and its pseudo-channels' room, loads it. -/
theorem exec_wsetLoad_fits {s : State} {n r idx : Nat} {x : Fetched} {p : Part} {img : List Byte}
    (hturn : ringTurn s 0x23 n r idx x) (himg : x.input.getD [] = img) (hp : part? s n = some p) (hok : wsetOk img = true)
    (hnew : ∀ y ∈ p.wsets, y.id ≠ x.arg0) (hcap : (p.wsets.map fun y => y.image.length).sum + img.length ≤ wsetCap)
    (hflex : ∀ g ∈ p.pcs, flexUsed s g + wsetShare p (wsetOfImage x.arg0 s.tb.now img) ≤ flexBytes) :
    exec (.wsetLoad n r idx) s = .next (after s (complete n r x.idx stOk 0
      (updPart n (fun p => { p with wsets := p.wsets ++ [wsetOfImage x.arg0 s.tb.now img] })
        (measure n 2 0 x.arg0 img s)))) := by
  have hrow : exec (.wsetLoad n r idx) s = execWsetLoad n r idx s := rfl
  have hfree : (p.wsets.any fun y => y.id == x.arg0) = false := by simpa using hnew
  have hroom : ¬ (wsetCap < (p.wsets.map fun y => y.image.length).sum + img.length ∨
      (p.pcs.any fun g => decide (flexBytes < flexUsed s g + wsetShare p (wsetOfImage x.arg0 s.tb.now img))) = true) := by
    simpa [hcap] using hflex
  unfold wsetOfImage at hroom
  rw [hrow, execWsetLoad]
  refine done_ringCmd_turn hturn ?_
  simp only [himg, hp, hok, hfree, if_neg hroom, Bool.not_true, Bool.false_eq_true, if_false, wsetOfImage]

/-- WSET_UNLOAD of a loaded weight set marks it unloading, and waits for the requests that hold it. -/
theorem exec_wsetUnload_loaded {s : State} {n r idx : Nat} {x : Fetched} {p : Part} (hturn : ringTurn s codeWsetUnload n r idx x)
    (hp : part? s n = some p) (hloaded : ∃ y ∈ p.wsets, y.id = x.arg0 ∧ y.unloading = false) :
    exec (.wsetUnload n r idx) s = .next (after s (settleUnloads n (markStarted n r x.idx (updPart n (fun p =>
      { p with wsets := p.wsets.map fun y => if y.id = x.arg0 then { y with unloading := true } else y }) s)))) := by
  have hrow : exec (.wsetUnload n r idx) s = execWsetUnload n r idx s := rfl
  have hany : (p.wsets.any fun y => y.id == x.arg0 && !y.unloading) = true := by simpa using hloaded
  rw [hrow, execWsetUnload]
  refine done_ringCmd_turn hturn ?_
  simp only [hp, hany, if_true]

/-- Settles O52: a table load by whether its older generation is held, the other commands by their own lemmas. -/
theorem loadCommandsComplete : Obligations.LoadCommandsComplete := by
  unfold Obligations.LoadCommandsComplete
  refine ⟨fun s n r idx x hturn hrec hconf hpend => ⟨fun hheld => ?_, fun hfree => ?_⟩,
    fun s n k record hs hpend hold => exec_excLoadEffect_released hs hpend hold,
    fun s n r idx x p hturn hp hok hnew hquota hshare hstore =>
      exec_progLoad_fits hturn rfl hp hok hnew hquota hshare hstore,
    fun s n r idx x p hturn hp hloaded => exec_progUnload_loaded hturn hp hloaded,
    fun s n r idx x p hturn hp hok hnew hcap hflex => exec_wsetLoad_fits hturn rfl hp hok hnew hcap hflex,
    fun s n r idx x p hturn hp hloaded => exec_wsetUnload_loaded hturn hp hloaded⟩
  · rw [exec_excLoad_accepted hturn hrec hconf hpend, if_pos hheld]
  · rw [exec_excLoad_accepted hturn hrec hconf hpend, if_neg (by simp [hfree])]

end Sys2Proof.Machine
end

section
/-!
PROOFS. The family of the Moss units and row operations: refreshes (R185, R196), the grant of a slot (R195), the ends of a Moss chunk
and of a Moss task (R187 to R194), the CHECK and the end of a row operation (R201, R202), and the scrubber (R207, R416).
-/

namespace Sys2Proof.Machine

open Sys2Proof

/-! ### When a pseudo-channel works -/

/-- The memory of a powered node past its second boot stage works, so that its commands are not left out. -/
theorem memory_not_off {s : State} (hp : s.boot.powered = true) (hst : 3 ≤ s.boot.stage) :
    ¬ (!s.boot.powered || decide (s.boot.stage < 3)) = true := by
  simpa [hp] using hst

/-- SLOT_GRANT is not left out where the memory works and no body runs. -/
theorem slotGrant_not_held {s : State} {g : Nat} (hp : s.boot.powered = true) (hst : 3 ≤ s.boot.stage)
    (hidle : (pcCtl s g).body = .idle) :
    ¬ (!s.boot.powered || decide (s.boot.stage < 3) || (pcCtl s g).body != .idle) = true := by
  simpa [hp, hidle] using hst

/-- HBM_SCRUB is not left out where the node serves and nothing else of the pseudo-channel waits. -/
theorem hbmScrub_not_held {s : State} {g : Nat} (hs : serving s = true) (hin : pcInService s g = true)
    (hquiet : pcQuiet (pcCtl s g) = true) : ¬ (!serving s || !pcInService s g || !pcQuiet (pcCtl s g)) = true := by
  simp [hs, hin, hquiet]

/-! ### Refreshes (R185) -/

/-- A refresh of a busy bank group with fewer than 4 postponed is postponed. -/
theorem exec_refreshDue_postponed {s : State} {g bg : Nat} (hp : s.boot.powered = true) (hst : 3 ≤ s.boot.stage)
    (hbusy : bgBusy s (pcCtl s g) bg = true) (hdue : dueOf (pcCtl s g) bg < 4) :
    exec (.refreshDue g bg) s = .next (after s
      (updMemDie (pcDie g) (fun d => { d with postponedMax := max d.postponedMax (dueOf (pcCtl s g) bg + 1) })
        (updPc g (fun c => { c with due := mset c.due bg (dueOf (pcCtl s g) bg + 1) }) s))) := by
  have hrow : exec (.refreshDue g bg) s = execRefreshDue g bg s := rfl
  have hpost : ¬ (!bgBusy s (pcCtl s g) bg || decide (4 ≤ dueOf (pcCtl s g) bg)) = true := by simpa [hbusy] using hdue
  rw [hrow, execRefreshDue, if_neg (memory_not_off hp hst)]
  dsimp only
  rw [if_neg hpost, done_eq_after]

/-- A refresh of a free bank group, or one past the limit, leaves the refreshes postponed as they are. -/
theorem exec_refreshDue_issued {s : State} {g bg : Nat} (hp : s.boot.powered = true) (hst : 3 ≤ s.boot.stage)
    (hissue : bgBusy s (pcCtl s g) bg = false ∨ 4 ≤ dueOf (pcCtl s g) bg) :
    exec (.refreshDue g bg) s = .next (after s s) := by
  have hrow : exec (.refreshDue g bg) s = execRefreshDue g bg s := rfl
  have hnow : (!bgBusy s (pcCtl s g) bg || decide (4 ≤ dueOf (pcCtl s g) bg)) = true := by simpa using hissue
  rw [hrow, execRefreshDue, if_neg (memory_not_off hp hst)]
  dsimp only
  rw [if_pos hnow, done_eq_after]

/-! ### The grant of a slot (R195, R196) -/

/-- Ordinary commands go first. -/
theorem exec_slotGrant_ordinary {s : State} {g : Nat} {arr : List PcArrival} (hp : s.boot.powered = true) (hst : 3 ≤ s.boot.stage)
    (hidle : (pcCtl s g).body = .idle) (hord : (pcCtl s g).ordinary ≠ []) :
    exec (.slotGrant ⟨g, arr⟩) s = .next (after s (arrive g true arr (issueOrdinary g s))) := by
  have hrow : exec (.slotGrant ⟨g, arr⟩) s = execSlotGrant ⟨g, arr⟩ s := rfl
  rw [hrow, execSlotGrant]
  dsimp only
  rw [if_neg (slotGrant_not_held hp hst hidle), if_pos (by simpa using hord), done_eq_after]

/-- With no ordinary command, a refresh at its limit goes first, and is forced where the slot was to be of its bank group. -/
theorem exec_slotGrant_refresh {s : State} {g bg k : Nat} {arr : List PcArrival} (hp : s.boot.powered = true)
    (hst : 3 ≤ s.boot.stage) (hidle : (pcCtl s g).body = .idle) (hord : (pcCtl s g).ordinary = [])
    (hdue : (pcCtl s g).due.find? (fun x => decide (4 ≤ x.2)) = some (bg, k)) :
    exec (.slotGrant ⟨g, arr⟩) s = .next (after s (arrive g false arr (updMemDie (pcDie g)
      (fun d => if (nextSlot s (pcCtl s g)).any (fun x => slotIn s x bg) then { d with forced := sat32 (d.forced + 1) } else d)
      (issueRefresh g bg s)))) := by
  have hrow : exec (.slotGrant ⟨g, arr⟩) s = execSlotGrant ⟨g, arr⟩ s := rfl
  rw [hrow, execSlotGrant]
  dsimp only
  rw [if_neg (slotGrant_not_held hp hst hidle), if_neg (by simp [hord])]
  simp only [hdue, done_eq_after]

/-- With no ordinary command and no refresh at its limit, the next slot is granted. -/
theorem exec_slotGrant_slot {s : State} {g : Nat} {arr : List PcArrival} {x : SlotFor} (hp : s.boot.powered = true)
    (hst : 3 ≤ s.boot.stage) (hidle : (pcCtl s g).body = .idle) (hord : (pcCtl s g).ordinary = [])
    (hdue : ∀ y ∈ (pcCtl s g).due, y.2 < 4) (hslot : nextSlot s (pcCtl s g) = some x) :
    exec (.slotGrant ⟨g, arr⟩) s = .next (after s (arrive g true arr (grantSlot g x s))) := by
  have hrow : exec (.slotGrant ⟨g, arr⟩) s = execSlotGrant ⟨g, arr⟩ s := rfl
  have hnone : (pcCtl s g).due.find? (fun x => decide (4 ≤ x.2)) = none := by simpa [List.find?_eq_none] using hdue
  rw [hrow, execSlotGrant]
  dsimp only
  rw [if_neg (slotGrant_not_held hp hst hidle), if_neg (by simp [hord])]
  simp only [hnone, hslot, done_eq_after]

/-! ### The ends of a Moss chunk and of a Moss task (R187 to R194) -/

/-- The end of the last chunk of a task: its slot ends, with no step of the task left. -/
def lastChunkEnded (g t k : Nat) (arr : List PcArrival) (s : State) : State :=
  endSlot g (56 + k + 24) 24 arr
    (updMemDie (pcDie g) (fun d => { d with chunks := sat32 (d.chunks + 1), steps := sat64 (d.steps + k) })
      (updPc g (fun c => { c with body := .idle, mossCur := some (t, 0) }) s))

/-- The last chunk of a task charges its steps to the partition and leaves the query rows of the last step in the query store. -/
theorem exec_mossBodyEnd_last {s : State} {g t k bg : Nat} {x : PageTask} {arr : List PcArrival} (hp : s.boot.powered = true)
    (hst : 3 ≤ s.boot.stage) (hbody : (pcCtl s g).body = .moss t k bg) (hcur : (pcCtl s g).mossCur = some (t, k))
    (htask : task? s t = some x) :
    exec (.mossBodyEnd ⟨g, arr⟩) s = .next (after s (loadQueries g t (taskSteps x - 1)
      (chargeAt x.part (tickTime s) (fun y => { y with mossSteps := sat64 (y.mossSteps + k) }) (lastChunkEnded g t k arr s)))) := by
  have hrow : exec (.mossBodyEnd ⟨g, arr⟩) s = execMossBodyEnd ⟨g, arr⟩ s := rfl
  rw [hrow, execMossBodyEnd]
  dsimp only
  rw [if_neg (memory_not_off hp hst)]
  simp only [hbody, hcur, htask, Nat.sub_self, Nat.sub_zero, if_true, done_eq_after, lastChunkEnded]

/-- A task with no step left returns its scores to its job and ends, and the unit is free for the next. -/
theorem exec_mossTaskDone_ended {s : State} {g t : Nat} {x : PageTask} (hp : s.boot.powered = true) (hst : 3 ≤ s.boot.stage)
    (hcur : (pcCtl s g).mossCur = some (t, 0)) (htask : task? s t = some x) :
    exec (.mossTaskDone g) s = .next (after s (afterWork (settleJob x.job (endTask t
      (updJob x.job (fun y => { y with returned := y.returned ++ [taskReturn x] })
        (updMemDie (pcDie g) (fun d => { d with tasks := sat32 (d.tasks + 1) })
          (updPc g (fun c => { c with mossCur := none, lastBg := some (taskBg s t) }) s))))))) := by
  have hrow : exec (.mossTaskDone g) s = execMossTaskDone g s := rfl
  rw [hrow, execMossTaskDone, if_neg (memory_not_off hp hst)]
  simp only [hcur, htask, done_eq_after]

/-! ### The CHECK and the end of a row operation (R201, R202) -/

/-- A CHECK with no error is followed by the next source's CHECK or the operation's own slot. -/
theorem exec_rowCheckDone_clean {s : State} {g : Nat} {c : RowCmd} {arr : List PcArrival} (hp : s.boot.powered = true)
    (hst : 3 ≤ s.boot.stage) (hbody : (pcCtl s g).body = .row c) (hleft : c.passed < (rowSources c).length) :
    exec (.rowCheckDone ⟨g, arr⟩ []) s = .next (after s
      (updPc g (fun x => { x with next := some { c with passed := c.passed + 1, repeats := 0 } })
        (endSlot g 592 0 arr (updMemDie (pcDie g) (fun d =>
            { d with rowDone := sat32 (d.rowDone + 1), corrected := sat32 d.corrected, uncorrected := sat32 d.uncorrected })
          (updPc g (fun x => { x with body := .idle }) s))))) := by
  have hrow : exec (.rowCheckDone ⟨g, arr⟩ []) s = execRowCheckDone ⟨g, arr⟩ [] s := rfl
  rw [hrow, execRowCheckDone]
  dsimp only
  rw [if_neg (memory_not_off hp hst)]
  simp only [hbody, List.getElem?_eq_getElem hleft, List.map_nil, List.countP_nil, Nat.add_zero, List.all_nil, if_true, done_eq_after]

/-- An operation whose sources have all passed their CHECK takes its effect and queues what follows it. -/
theorem exec_rowOperationEnd_checked {s : State} {g : Nat} {c : RowCmd} {arr : List PcArrival} (hp : s.boot.powered = true)
    (hst : 3 ≤ s.boot.stage) (hbody : (pcCtl s g).body = .row c) (hpassed : (rowSources c).length ≤ c.passed) :
    exec (.rowOperationEnd ⟨g, arr⟩) s = .next (after s (endSlot g (rowSlot s g c) 0 arr (requeueWrites g (rowEnded g c
      (updMemDie (pcDie g) (fun d => { d with rowDone := sat32 (d.rowDone + 1) })
        (updPc g (fun x => { x with body := .idle, rowQ := reencodes c ++ x.rowQ ++ moreSlots c }) s)))))) := by
  have hrow : exec (.rowOperationEnd ⟨g, arr⟩) s = execRowOperationEnd ⟨g, arr⟩ s := rfl
  have hchecked : unchecked c = false := by simpa [unchecked] using hpassed
  rw [hrow, execRowOperationEnd]
  dsimp only
  rw [if_neg (memory_not_off hp hst)]
  simp only [hbody, hchecked, Bool.false_eq_true, if_false, done_eq_after]

/-! ### The scrubber (R207, R416) -/

/-- The bank and the row that the scrubber of a pseudo-channel reads next. -/
def scrubPlace (s : State) (g : Nat) : Nat × Nat := ((pcCtl s g).scrubAt / 128 % 32, (pcCtl s g).scrubAt / 4096)

/-- The address of the codeword that it reads next. -/
def scrubUnit (s : State) (g : Nat) : Nat := unitAddr g (scrubPlace s g).1 (scrubPlace s g).2 ((pcCtl s g).scrubAt % 128)

/-- The scrubber has read its codeword and stands before the next. -/
def scrubPassed (g : Nat) (s : State) : State :=
  updPc g (fun c => { c with scrubAt := ((pcCtl s g).scrubAt + 1) % (4608 * 4096) }) s

/-- A clean codeword, or one of a code-stale row, is passed over. -/
theorem exec_hbmScrub_skipped {s : State} {g : Nat} {es : SymErrors} (hs : serving s = true) (hin : pcInService s g = true)
    (hquiet : pcQuiet (pcCtl s g) = true)
    (hskip : readOutcome es = .clean ∨ isStale s g (scrubPlace s g).1 (scrubPlace s g).2 = true) :
    exec (.hbmScrub g es) s = .next (after s (scrubPassed g s)) := by
  have hrow : exec (.hbmScrub g es) s = execHbmScrub g es s := rfl
  rw [hrow, execHbmScrub, if_neg (hbmScrub_not_held hs hin hquiet)]
  dsimp only
  rw [if_pos (by simpa [scrubPlace] using hskip)]
  rfl

/-- What the scrubber does with the codeword that it has read: one in error is counted and its place waits for its classification, and
a correctable one is rewritten. -/
def scrubRead (g : Nat) (es : SymErrors) (s : State) : ReadOutcome → State
  | .clean => scrubPassed g s
  | .correctable => updMemDie (pcDie g) (fun d => { d with corrected := sat32 (d.corrected + 1) })
    (updPc g (fun c => { c with scrubErr := some (scrubPlace s g) })
      (hbmWrite (scrubUnit s g) (decodedData (hbmRead s (scrubUnit s g) 64) es) (scrubPassed g s)))
  | .uncorrectable => updMemDie (pcDie g) (fun d => { d with uncorrected := sat32 (d.uncorrected + 1) })
    (updPc g (fun c => { c with scrubErr := some (scrubPlace s g) }) (scrubPassed g s))

/-- A codeword of a row that is not code-stale is treated by its outcome. -/
theorem exec_hbmScrub_fresh {s : State} {g : Nat} {es : SymErrors} {out : ReadOutcome} (hs : serving s = true)
    (hin : pcInService s g = true) (hquiet : pcQuiet (pcCtl s g) = true) (hout : readOutcome es = out)
    (hfresh : isStale s g (scrubPlace s g).1 (scrubPlace s g).2 = false) :
    exec (.hbmScrub g es) s = .next (after s (scrubRead g es s out)) := by
  have hrow : exec (.hbmScrub g es) s = execHbmScrub g es s := rfl
  have hread : isStale s g ((pcCtl s g).scrubAt / 128 % 32) ((pcCtl s g).scrubAt / 4096) = false := hfresh
  cases out with
  | clean => exact exec_hbmScrub_skipped hs hin hquiet (.inl hout)
  | correctable | uncorrectable =>
    rw [hrow, execHbmScrub, if_neg (hbmScrub_not_held hs hin hquiet)]
    dsimp only
    rw [hout, hread]
    rfl

/-- Settles O45: a refresh and a slot by what waits, a scrubbed codeword by its outcome, the other commands by their own lemmas. -/
theorem dramCommandsComplete : Obligations.DramCommandsComplete := by
  unfold Obligations.DramCommandsComplete
  refine ⟨fun s g bg hp hst => ⟨exec_refreshDue_postponed hp hst, exec_refreshDue_issued hp hst⟩,
    fun s g arr hp hst hidle => ⟨exec_slotGrant_ordinary hp hst hidle, fun bg k => exec_slotGrant_refresh hp hst hidle,
      fun x => exec_slotGrant_slot hp hst hidle⟩,
    fun s g t k bg left x hp hst hbody hcur htask hleft arr _ => ?_,
    fun s g t x hp hst hcur htask => exec_mossTaskDone_ended hp hst hcur htask,
    fun s g c arr hp hst hbody hleft => exec_rowCheckDone_clean hp hst hbody hleft,
    fun s g c arr hp hst hbody hpassed => exec_rowOperationEnd_checked hp hst hbody hpassed,
    fun s g es hs hin hquiet => ⟨exec_hbmScrub_skipped hs hin hquiet, exec_hbmScrub_fresh hs hin hquiet,
      exec_hbmScrub_fresh hs hin hquiet⟩⟩
  subst hleft
  exact exec_mossBodyEnd_last hp hst hbody hcur htask

end Sys2Proof.Machine
end

section
/-!
PROOFS. The family of speculation: SPEC_COMMIT and SPEC_ABORT of the tail that they name (R221 to R223).
-/

namespace Sys2Proof.Machine

open Sys2Proof

/-- What a commit and an abort ask alike of the descriptor `d` that they name: nothing holds the request, and `d` has the tail `c` of
the request's tag (R222, R223). -/
structure TailNamed (r : Req) (m : Nat) (d : Desc) (c : Chrysalis) (s : State) : Prop where
  desc : desc? s m = some d
  tail : d.chrysalis = some c
  tag : d.specTag = fieldAt r.body 0x10 8
  first : earlierHeld s r = false
  settled : changePending s m = false

/-- A body that allows no COUNT but 0 passes the check of SPEC_ABORT's bytes and the obligation that COUNT is 0 (R221). -/
theorem specBytesOk_zero {b : List Byte} (h : specBytesOk b 0 = true) :
    specBytesOk b abortTop = true ∧ fieldAt b 0xA 2 = 0 := by
  simp only [specBytesOk, Bool.and_eq_true, decide_eq_true_eq, Nat.le_zero] at h
  obtain ⟨⟨hlen, hcount⟩, htag⟩ := h
  exact ⟨by simp [specBytesOk, hlen, hcount, htag], hcount⟩

/-- SPEC_COMMIT of no more tokens than any layer's tail holds starts its replication step. -/
theorem runSpecCommit_started {t s : State} {r : Req} {n m : Nat} {lc : Bool} {d : Desc} {c : Chrysalis}
    (hnamed : TailNamed r m d c s) (hpart : reqPart t r = some n) (hgate : gate t n r 6 [fieldAt r.body 0 5] = none)
    (hbytes : specBytesOk r.body 16 = true)
    (hname : nameSeq r 6 n (fieldAt r.body 0 5) (fieldAt r.body 8 1) t = .found m lc s)
    (hkept : keptTagAnswer r 6 m (fieldAt r.body 0x10 8) s = none)
    (hlayers : ∀ i < layerCount d, fieldAt r.body 0xA 2 ≤ c.counts.getD i 0) :
    runSpecCommit false r t =
      startStep r 6 (specBody stOk (c.base + fieldAt r.body 0xA 2) (specCount d - fieldAt r.body 0xA 2)) m c.base
        (fieldAt r.body 0xA 2) (List.range (layerCount d)) (.commit m (fieldAt r.body 0xA 2)) s := by
  have hgoes : ¬ (d.specTag ≠ fieldAt r.body 0x10 8 ∨
      ((List.range (layerCount d)).any fun i => decide (c.counts.getD i 0 < fieldAt r.body 0xA 2)) = true) := by
    rintro (htag | hshort)
    · exact htag hnamed.tag
    · obtain ⟨i, hi, hlt⟩ := List.any_eq_true.mp hshort
      exact Nat.not_lt.mpr (hlayers i (List.mem_range.mp hi)) (of_decide_eq_true hlt)
  simp only [runSpecCommit, hpart, hgate, hbytes, hname, hnamed.desc, hkept, hnamed.first, hnamed.settled, hnamed.tail,
    if_neg hgoes, Bool.not_true, Bool.and_false, Bool.or_false, Bool.false_eq_true, if_false]

/-- SPEC_ABORT drops the tail and answers with the tokens that stay. -/
theorem runSpecAbort_dropped {t s : State} {r : Req} {n m : Nat} {lc : Bool} {d : Desc} {c : Chrysalis}
    (hnamed : TailNamed r m d c s) (hpart : reqPart t r = some n) (hgate : gate t n r 7 [fieldAt r.body 0 5] = none)
    (hbytes : specBytesOk r.body 0 = true)
    (hname : nameSeq r 7 n (fieldAt r.body 0 5) (fieldAt r.body 8 1) t = .found m lc s) :
    runSpecAbort false r t = respond r 7 stOk 0 (specBody stOk (minTokens d) (specCount d)) (dropTail m s) := by
  obtain ⟨hform, hcount⟩ := specBytesOk_zero hbytes
  simp [runSpecAbort, hpart, hgate, hform, hcount, hname, hnamed.desc, hnamed.first, hnamed.settled, hnamed.tail, hnamed.tag]

/-- Settles O37: each request by its own lemma, on the tail that both name. -/
theorem tailRequestsComplete : Obligations.TailRequestsComplete := by
  unfold Obligations.TailRequestsComplete
  intro s t s1 r n m lc d c seq k hdesc htail htag hfirst hsettled
  have hnamed : TailNamed r m d c s1 := ⟨hdesc, htail, htag, hfirst, hsettled⟩
  refine ⟨fun hadm hbytes hname hkept hlayers => ?_, fun hadm hbytes hname => ?_⟩
  · exact done_requestRow_admitted hadm fun hpart hgate =>
      runSpecCommit_started hnamed hpart hgate hbytes hname hkept hlayers
  · exact done_requestRow_admitted hadm fun hpart hgate => runSpecAbort_dropped hnamed hpart hgate hbytes hname

end Sys2Proof.Machine
end

section
/-!
PROOFS. The family of the engines and of work scheduling: engine issue (R232, R236), work items (R238), page tasks (R51, R245, R246),
the placement of jobs (R248), context switches (R250, R251), and the re-read of a corrupt block (R172).
-/

namespace Sys2Proof.Machine

open Sys2Proof

/-- The guard that leaves a command out on a node that does not serve lets it through on one that does. -/
theorem serving_not_held {s : State} (hs : serving s = true) : ¬ (!serving s) = true := by simp [hs]

/-! ### The engine and the Skipper cores (R236, R238, R250) -/

/-- A core's engine starts the command `c` of job `x` at engine cycle `t`: it counts the command and stays busy to its end, and the next
round of BE queues starts after the queue of a BE job (R236). -/
def commandStarted (t : Nat) (x : Job) (c : EngCmd) (y : Core) : Core :=
  { y with
    lcCmds := if x.lc then sat32 (y.lcCmds + 1) else y.lcCmds
    beCmds := if x.lc then y.beCmds else sat32 (y.beCmds + 1)
    busy := sat64 (y.busy + c.cycles)
    busyUntil := t + c.cycles
    lastBe := if x.lc then y.lastBe else x.placed }

/-- An engine that can issue now starts the command that the rules of issue choose, and its partition is charged for its cycles. -/
theorem exec_engineIssue_chosen {s : State} {core t j : Nat} {x : Job} {c : EngCmd} (hs : serving s = true)
    (hcycle : issueCycle (noteOverruns s) core = some t) (hcmd : chooseCmd (noteOverruns s) core t = some (j, x, c)) :
    exec (.engineIssue core) s = .next (after s (afterWork (settleJob j
      (chargeAt x.part (tickTime s) (fun y => { y with engineCycles := sat64 (y.engineCycles + c.cycles) })
        (updCore core (commandStarted t x c) (takeIssued core j x c (noteOverruns s))))))) := by
  have hrow : exec (.engineIssue core) s = execEngineIssue core s := rfl
  rw [hrow, execEngineIssue, if_neg (serving_not_held hs)]
  dsimp only
  simp only [hcycle, hcmd, done_eq_after]
  rfl

/-- WORK_ITEM goes on for a Skipper core that the node has, in the part of the microsecond that the clock step leaves open to starts. -/
theorem workItem_not_held {s : State} {k : Nat} (hs : serving s = true) (hk : k < 8)
    (hopen : s.tb.now % 1000 < 250 * (4 - s.power.clockStep)) :
    ¬ (!serving s || decide (8 ≤ k) || decide (250 * (4 - s.power.clockStep) ≤ s.tb.now % 1000)) = true := by
  simpa [hs] using And.intro hk hopen

/-- A Skipper core is bound to the partition of the item that it takes, and the item leaves its job. -/
theorem exec_workItem_chosen {s : State} {core k j : Nat} {x : Job} (hs : serving s = true) (hk : k < 8)
    (hopen : s.tb.now % 1000 < 250 * (4 - s.power.clockStep)) (hitem : chooseItem (noteOverruns s) core = some (j, x)) :
    exec (.workItem core k) s = .next (after s (afterWork (settleJob j
      (updJob j (fun y => { y with items := y.items.drop 1 }) (bindSkipper core k x.part (noteOverruns s)))))) := by
  have hrow : exec (.workItem core k) s = execWorkItem core k s := rfl
  rw [hrow, execWorkItem, if_neg (workItem_not_held hs hk hopen)]
  dsimp only
  simp only [hitem, done_eq_after]

/-- The switch of one Skipper core leaves the core's binding, its engine and the die's clock generator as they are. -/
theorem exec_contextSwitch_skipper {s : State} {n : Nat} (hs : serving s = true) (hpart : (part? s n).isSome = true)
    (core k ns : Nat) :
    exec (.contextSwitch core (some k) n ns) s = .next (after s (updCore core (fun x =>
      { x with switches := sat32 (x.switches + 1), switchMax := max x.switchMax (min ns switchBound),
               skippers := mset x.skippers k n }) s)) := by
  have hrow : exec (.contextSwitch core (some k) n ns) s = execContextSwitch core (some k) n ns s := rfl
  have hknown : ¬ (!serving s || (part? s n).isNone) = true := by simpa [hs, Option.isSome_iff_ne_none] using hpart
  rw [hrow, execContextSwitch, if_neg hknown]
  rfl

/-! ### Jobs and page tasks (R51, R245, R246, R248) -/

/-- A waiting job that finds its place takes its core and its query frames. -/
theorem exec_jobPlace_placeable {s : State} {group j c : Nat} {fs : List Nat} (hs : serving s = true)
    (hplace : placeable s group = some (j, c, fs)) :
    exec (.jobPlace group) s = .next (after s (placeJob j c fs s)) := by
  have hrow : exec (.jobPlace group) s = execJobPlace group s := rfl
  rw [hrow, execJobPlace, if_neg (serving_not_held hs)]
  simp only [hplace, done_eq_after]

/-- Below its quota of entries a partition gets the first task of the plan of its next job. -/
theorem exec_pageTaskCreate_below {s : State} {n j : Nat} {x : Job} {p : Part} {t : TaskPlan} {ts : List TaskPlan}
    (hs : serving s = true) (hjob : nextTaskJob s n = some (j, x)) (hpart : part? s n = some p) (hplan : x.plan = t :: ts)
    (hquota : tasksInUse s n < p.taskQuota * 4096) :
    exec (.pageTaskCreate n) s = .next (after s (createTask n j x t s)) := by
  have hrow : exec (.pageTaskCreate n) s = execPageTaskCreate n s := rfl
  rw [hrow, execPageTaskCreate, if_neg (serving_not_held hs)]
  simp only [hjob, hpart, hplan, if_neg (Nat.not_le.mpr hquota), done_eq_after]

/-- An Atlas task with no command left ends, and its hold on the page with it. -/
theorem exec_pageTaskDone_issued {s : State} {t : Nat} {x : PageTask} (hs : serving s = true) (htask : task? s t = some x)
    (hmoss : x.moss = false) (hissued : taskIssued s t x = true) :
    exec (.pageTaskDone t) s = .next (after s (afterWork (settleJob x.job (endTask t s)))) := by
  have hrow : exec (.pageTaskDone t) s = execPageTaskDone t s := rfl
  rw [hrow, execPageTaskDone, if_neg (serving_not_held hs)]
  simp only [htask, hmoss, hissued, Bool.not_true, Bool.or_false, Bool.false_eq_true, if_false, done_eq_after]

/-! ### Corrupt coded blocks (R172) -/

/-- A block that reads well the second time, outside the owned slots of LC work, is logged and counted as recovered; nothing fails. -/
theorem exec_corruptBlockReread_recovered {s : State} {core page k : Nat} {t : PageTask} (hs : serving s = true)
    (htask : s.sched.tasks.find? (taskReads s core page) = some (k, t)) (block stall : Nat) :
    exec (.corruptBlockReread core page block true false stall) s = .next (after s
      (logEvent 0x0501 (core / 4) (some t.part) core [page] (updAttDie (core / 4) (fun x =>
        { x with corrupt := sat32 (x.corrupt + 1), stall := sat32 (x.stall + stall), recovered := sat32 (x.recovered + 1) }) s))) := by
  have hrow : exec (.corruptBlockReread core page block true false stall) s =
      execCorruptBlockReread core page block true false stall s := rfl
  rw [hrow, execCorruptBlockReread, if_neg (serving_not_held hs)]
  dsimp only
  simp only [htask, Bool.and_false, Bool.false_eq_true, if_true, if_false, done_eq_after]

/-- Settles O46: each command by its own lemma. -/
theorem coreCommandsComplete : Obligations.CoreCommandsComplete := by
  unfold Obligations.CoreCommandsComplete
  exact ⟨fun _ _ _ _ _ _ hs hcycle hcmd => exec_engineIssue_chosen hs hcycle hcmd,
    fun _ _ _ _ _ hs hplace => exec_jobPlace_placeable hs hplace,
    fun _ _ _ _ _ _ _ hs hjob hpart hplan hquota => exec_pageTaskCreate_below hs hjob hpart hplan hquota,
    fun _ _ _ hs htask hmoss hissued => exec_pageTaskDone_issued hs htask hmoss hissued,
    fun _ _ _ _ _ hs hk hopen hitem => exec_workItem_chosen hs hk hopen hitem,
    fun _ core k _ ns hs hpart => exec_contextSwitch_skipper hs hpart core k ns,
    fun _ _ _ block stall _ _ hs htask => exec_corruptBlockReread_recovered hs htask block stall⟩

end Sys2Proof.Machine
end

section
/-!
PROOFS. The Vanges fabric: ports and their links (R262, R263, R276), the lifetime check (R288), and connections, from the ID and the
home die of a new one to the timers that move its state (R278 to R282, R288, R289, R291, R316).
-/

namespace Sys2Proof.Machine

open Sys2Proof

/-! ### Ports -/

@[simp] theorem portOf_updPort_self (p : Nat) (f : Port → Port) (s : State) : portOf (updPort p f s) p = f (portOf s p) := by
  simp [portOf, updPort]

theorem portOf_updPort_of_ne {p q : Nat} (h : q ≠ p) (f : Port → Port) (s : State) : portOf (updPort p f s) q = portOf s q := by
  simp [portOf, updPort, h]

/-- An update of a port is what it makes of the port as it stands. -/
theorem updPort_congr {p : Nat} {f g : Port → Port} {s : State} (h : f (portOf s p) = g (portOf s p)) :
    updPort p f s = updPort p g s := by
  rw [updPort, updPort, h]

/-! ### The lanes of a port (R262) -/

theorem runLanes_mem (mask : Nat) : runLanes mask ∈ [0, 0x0F, 0xF0, 0xFF] := by
  unfold runLanes
  split
  · decide
  · split
    · decide
    · split <;> decide

/-- A native port that is up goes down with the lanes that a mask and its health leave it, where it cannot run on these. -/
theorem settlePort_native_down {s : State} {p mask : Nat} (hmode : portMode s p = 0) (hup : (portOf s p).upA = true)
    (hlanes : runLanes ((mask &&& goodLanesOf s p) &&& (portOf s p).lanes) = 0) :
    settlePort p mask s = updPort p (fun x => { x with upA := false, lanes := 0, linkVer := 0 }) s := by
  simp only [settlePort, hmode, hup, hlanes, if_true, Bool.not_true, Bool.false_eq_true, if_false]

/-- A native port that is up stays up on those of the lanes left to it that it can run on. -/
theorem settlePort_native_runs {s : State} {p mask : Nat} (hmode : portMode s p = 0) (hup : (portOf s p).upA = true)
    (hlanes : runLanes ((mask &&& goodLanesOf s p) &&& (portOf s p).lanes) ≠ 0) :
    settlePort p mask s =
      updPort p (fun x => { x with lanes := runLanes ((mask &&& goodLanesOf s p) &&& (portOf s p).lanes) }) s := by
  simp only [settlePort, hmode, hup, hlanes, if_true, Bool.not_true, Bool.false_eq_true, if_false]

/-- An Ethernet port of eight lanes goes down where one of them is missing. -/
theorem settlePort_ethernet_down {s : State} {p mask : Nat} (hmode : portMode s p = 1)
    (hlanes : (mask &&& goodLanesOf s p) % 256 ≠ 255) :
    settlePort p mask s = updPort p (fun x => { x with upA := false, lanes := 0 }) s := by
  simp only [settlePort, hmode, if_neg hlanes, Nat.one_ne_zero, if_true, if_false]

/-- Settles O17: the lanes left to the port either carry it or do not. -/
theorem nativePortLanes : Obligations.NativePortLanes := by
  unfold Obligations.NativePortLanes
  intro s p mask hmode hup
  by_cases hlanes : runLanes ((mask &&& goodLanesOf s p) &&& (portOf s p).lanes) = 0
  · rw [settlePort_native_down hmode hup hlanes]
    exact ⟨by simp, by simp, fun q hq => portOf_updPort_of_ne hq _ s⟩
  · rw [settlePort_native_runs hmode hup hlanes]
    exact ⟨by simpa using runLanes_mem _, by simp [hup, hlanes], fun q hq => portOf_updPort_of_ne hq _ s⟩

/-! ### Links coming up and going down (R262, R263) -/

/-- A port that can train: the node's ports do, it is one of the eight, and its die is there. -/
structure PortTrains (s : State) (p : Nat) : Prop where
  train : portsTrain s = true
  port : p < 8
  die : dieLost s (0x28 + p / 2) = false

theorem linkUp_not_held {s : State} {p : Nat} (h : PortTrains s p) :
    ¬ (!portsTrain s || decide (8 ≤ p) || dieLost s (0x28 + p / 2)) = true := by
  simp [h.train, h.port, h.die]

/-- A native port that has trained on the lanes `k` comes up with the version that both sides offer, or fails without one (R263). -/
def versionExchanged (p vs k : Nat) (s : State) : State :=
  match linkVersion vs with
  | some v => updPort p (fun x => { x with upA := true, verFail := false, lanes := k, linkVer := v }) s
  | none => logEvent 0x0205 (0x28 + p / 2) none p []
      (updPort p (fun x => { x with upA := false, verFail := true, lanes := 0, linkVer := 0 }) s)

theorem exec_linkUp_native {s : State} {p : Nat} (h : PortTrains s p) (hmode : portMode s p = 0) (vs lanes : Nat) (second : Bool) :
    exec (.linkUp p vs lanes second) s = .next (after s
      (if runLanes (lanes &&& goodLanesOf s p) = 0 ∨ second = true then s
      else versionExchanged p vs (runLanes (lanes &&& goodLanesOf s p)) s)) := by
  have hrow : exec (.linkUp p vs lanes second) s = execLinkUp p vs lanes second s := rfl
  rw [hrow, execLinkUp, if_neg (linkUp_not_held h)]
  simp only [hmode, if_true, versionExchanged]
  split
  · rfl
  · cases linkVersion vs <;> rfl

theorem exec_linkUp_ethernet {s : State} {p : Nat} (h : PortTrains s p) (hmode : portMode s p = 1) (vs lanes : Nat)
    (second : Bool) :
    exec (.linkUp p vs lanes second) s = .next (after s
      (if (lanes &&& goodLanesOf s p) % 256 = 255 ∧ second = false then updPort p (fun x => { x with upA := true, lanes := 0xFF }) s
      else s)) := by
  have hrow : exec (.linkUp p vs lanes second) s = execLinkUp p vs lanes second s := rfl
  rw [hrow, execLinkUp, if_neg (linkUp_not_held h)]
  simp only [hmode, Nat.one_ne_zero, if_true, if_false, Bool.not_eq_true']
  split <;> rfl

/-- The first Ethernet port of mode 0b10 comes up on lanes 0 to 3. -/
theorem exec_linkUp_first {s : State} {p lanes : Nat} (h : PortTrains s p) (hmode : portMode s p = 2)
    (hlanes : (lanes &&& goodLanesOf s p) % 16 = 15) (vs : Nat) :
    exec (.linkUp p vs lanes false) s = .next (after s
      (updPort p (fun x => { x with upA := true, lanes := 0x0F + bnat x.upB * 0xF0 }) s)) := by
  have hrow : exec (.linkUp p vs lanes false) s = execLinkUp p vs lanes false s := rfl
  rw [hrow, execLinkUp, if_neg (linkUp_not_held h)]
  simp only [hmode, hlanes]
  exact done_eq_of_eq (updPort_congr (by simp [bnat]))

/-- The second Ethernet port of mode 0b10 comes up on lanes 4 to 7. -/
theorem exec_linkUp_second {s : State} {p lanes : Nat} (h : PortTrains s p) (hmode : portMode s p = 2)
    (hlanes : (lanes &&& goodLanesOf s p) / 16 % 16 = 15) (vs : Nat) :
    exec (.linkUp p vs lanes true) s = .next (after s
      (updPort p (fun x => { x with upB := true, lanes := bnat x.upA * 0x0F + 0xF0 }) s)) := by
  have hrow : exec (.linkUp p vs lanes true) s = execLinkUp p vs lanes true s := rfl
  rw [hrow, execLinkUp, if_neg (linkUp_not_held h)]
  simp only [hmode, hlanes]
  exact done_eq_of_eq (updPort_congr (by simp [bnat]))

/-- A port that is off does not come up. -/
theorem exec_linkUp_off {s : State} {p : Nat} (h : PortTrains s p) (hmode : portMode s p = 3) (vs lanes : Nat) (second : Bool) :
    exec (.linkUp p vs lanes second) s = .next (after s s) := by
  have hrow : exec (.linkUp p vs lanes second) s = execLinkUp p vs lanes second s := rfl
  rw [hrow, execLinkUp, if_neg (linkUp_not_held h)]
  simp [hmode, done_eq_after]

theorem exec_linkDown_powered {s : State} {p : Nat} (hpow : s.boot.powered = true) (hp : p < 8) (good : Nat) :
    exec (.linkDown p good) s = .next (after s (settlePort p (good % 256) s)) := by
  have hrow : exec (.linkDown p good) s = execLinkDown p good s := rfl
  rw [hrow, execLinkDown, if_neg (by simp [hpow, hp]), done_eq_after]

/-! ### Next hops (R276) -/

/-- The router named for the Ethernet port of all lanes, or for the first one of mode 0b10, gives its next hop. -/
theorem exec_neighborDiscovery_first {s : State} {p : Nat} (ht : portsTrain s = true) (hp : p < 8)
    (hmode : portMode s p = 1 ∨ portMode s p = 2) (hup : (portOf s p).upA = true)
    (hnamed : (s.boot.routers.any fun r => r.1 == p && r.2.1 == 0) = true) (mac : Nat) :
    exec (.neighborDiscovery p false mac) s =
      .next (after s (updPort p (fun x => { x with nextHopA := some (mac % 2 ^ 48) }) s)) := by
  have hrow : exec (.neighborDiscovery p false mac) s = execNeighborDiscovery p false mac s := rfl
  have hnamed' : (s.boot.routers.any fun r => r.1 == p && r.2.1 == bnat false) = true := hnamed
  rw [hrow, execNeighborDiscovery, if_neg (by simp [ht, hp, hnamed']), if_neg Bool.false_ne_true, if_pos ⟨hmode, hup⟩, done_eq_after]

/-- The router named for the second Ethernet port of mode 0b10 gives its next hop. -/
theorem exec_neighborDiscovery_second {s : State} {p : Nat} (ht : portsTrain s = true) (hp : p < 8)
    (hmode : portMode s p = 2) (hup : (portOf s p).upB = true)
    (hnamed : (s.boot.routers.any fun r => r.1 == p && r.2.1 == 1) = true) (mac : Nat) :
    exec (.neighborDiscovery p true mac) s =
      .next (after s (updPort p (fun x => { x with nextHopB := some (mac % 2 ^ 48) }) s)) := by
  have hrow : exec (.neighborDiscovery p true mac) s = execNeighborDiscovery p true mac s := rfl
  have hnamed' : (s.boot.routers.any fun r => r.1 == p && r.2.1 == bnat true) = true := hnamed
  rw [hrow, execNeighborDiscovery, if_neg (by simp [ht, hp, hnamed']), if_pos rfl, if_pos ⟨hmode, hup⟩, done_eq_after]

/-- Settles O16: a link that comes up by the mode of its port, one that goes down by what its lanes carry. -/
theorem linkCommandsComplete : Obligations.LinkCommandsComplete := by
  unfold Obligations.LinkCommandsComplete
  refine ⟨fun s p vs lanes ht hp hd => ?_, fun s p good hpow hp => ⟨exec_linkDown_powered hpow hp good,
      fun hmode hup => ⟨settlePort_native_down hmode hup, settlePort_native_runs hmode hup⟩, settlePort_ethernet_down⟩,
    fun s p mac ht hp => ⟨fun hmode hup hnamed => exec_neighborDiscovery_first ht hp hmode hup hnamed mac,
      fun hmode hup hnamed => exec_neighborDiscovery_second ht hp hmode hup hnamed mac⟩⟩
  have h : PortTrains s p := ⟨ht, hp, hd⟩
  refine ⟨fun hmode => ⟨fun v hrun hver => ?_, fun hrun hver => ?_, fun hrun => ?_, ?_⟩,
    fun hmode => ⟨fun hgood => ?_, fun hgood => ?_, ?_⟩,
    fun hmode => ⟨fun hgood => exec_linkUp_first h hmode hgood vs, fun hgood => exec_linkUp_second h hmode hgood vs⟩,
    fun hmode second => exec_linkUp_off h hmode vs lanes second⟩
  · rw [exec_linkUp_native h hmode, if_neg (by simpa using hrun), versionExchanged, hver]
  · rw [exec_linkUp_native h hmode, if_neg (by simpa using hrun), versionExchanged, hver]
  · rw [exec_linkUp_native h hmode, if_pos (.inl hrun)]
  · rw [exec_linkUp_native h hmode, if_pos (.inr rfl)]
  · rw [exec_linkUp_ethernet h hmode, if_pos ⟨hgood, rfl⟩]
  · rw [exec_linkUp_ethernet h hmode, if_neg (fun hc => hgood hc.1)]
  · rw [exec_linkUp_ethernet h hmode, if_neg (fun hc => Bool.noConfusion hc.2)]

/-! ### The lifetime check (R288) -/

/-- The age of a packet is the time since its stamp, modulo 2^32. -/
theorem ageOf_eq_emod {h : NativeHdr} (hts : h.ingressTs < 2 ^ 32) (t : Nat) :
    (ageOf t h : Int) = ((t : Int) - h.ingressTs) % 4294967296 := by
  unfold ageOf
  omega

/-- Settles O30: both limits are compared with the age. -/
theorem lifetimeRule : Obligations.LifetimeRule := by
  unfold Obligations.LifetimeRule
  intro s t h hts
  have hage := ageOf_eq_emod hts t
  simp only [alive, Bool.or_eq_true, decide_eq_true_eq]
  omega

/-! ### The ID of a new connection (R281) -/

/-- R281 lets the node assign the ID `i`. -/
def idMeets (s : State) (n home : Nat) (lc : Bool) (i : Nat) : Prop :=
  conn? s i = none ∧ (∀ q ∈ s.fab.quarantine, q.conn ≠ i) ∧ (lc = true → lcRoom s n home i = true)

theorem idMeets_iff (s : State) (n home : Nat) (lc : Bool) (i : Nat) :
    ((conn? s i).isNone && !(s.fab.quarantine.any fun q => q.conn == i) && (!lc || lcRoom s n home i)) = true ↔
      idMeets s n home lc i := by
  cases lc <;> simp [idMeets, and_assoc]

/-- The search from `i` finds the least ID that meets R281, below its fuel and below 2^24. -/
theorem idFrom_eq_some_iff (s : State) (n home : Nat) (lc : Bool) (fuel i k : Nat) :
    idFrom s n home lc fuel i = some k ↔
      i ≤ k ∧ k < i + fuel ∧ k < 16777216 ∧ idMeets s n home lc k ∧ ∀ j, i ≤ j → j < k → ¬ idMeets s n home lc j := by
  induction fuel generalizing i with
  | zero =>
    simp only [idFrom, reduceCtorEq, false_iff]
    omega
  | succ fuel ih =>
    simp only [idFrom]
    split
    · next htop =>
      simp only [reduceCtorEq, false_iff]
      omega
    · next htop =>
      split
      · next hfree =>
        have hmeets := (idMeets_iff ..).mp hfree
        simp only [Option.some.injEq]
        constructor
        · rintro rfl
          exact ⟨le_rfl, by omega, by omega, hmeets, fun j hij hji => absurd hij (by omega)⟩
        · rintro ⟨hik, -, -, -, hleast⟩
          by_contra hne
          exact hleast i le_rfl (by omega) hmeets
      · next hheld =>
        have hmeets := fun h => hheld ((idMeets_iff ..).mpr h)
        rw [ih]
        constructor
        · rintro ⟨hik, hfuel, hk, hmk, hleast⟩
          refine ⟨by omega, by omega, hk, hmk, fun j hij hjk => ?_⟩
          rcases Nat.eq_or_lt_of_le hij with rfl | hlt
          · exact hmeets
          · exact hleast j hlt hjk
        · rintro ⟨hik, hfuel, hk, hmk, hleast⟩
          have hne : i ≠ k := fun he => hmeets (he ▸ hmk)
          exact ⟨by omega, by omega, hk, hmk, fun j hij hjk => hleast j (by omega) hjk⟩

theorem newId_eq_some_iff (s : State) (n home : Nat) (lc : Bool) (i : Nat) :
    newId s n home lc = some i ↔ i < 16777216 ∧ idMeets s n home lc i ∧ ∀ j < i, ¬ idMeets s n home lc j := by
  rw [newId, idFrom_eq_some_iff]
  simp

theorem newId_eq_none_iff (s : State) (n home : Nat) (lc : Bool) :
    newId s n home lc = none ↔ ∀ i < 16777216, ¬ idMeets s n home lc i := by
  classical
  constructor
  · intro hnone i hi hmeets
    have hex : ∃ j, idMeets s n home lc j := ⟨i, hmeets⟩
    have hfound : newId s n home lc = some (Nat.find hex) :=
      (newId_eq_some_iff ..).mpr ⟨lt_of_le_of_lt (Nat.find_min' hex hmeets) hi, Nat.find_spec hex, fun _ => Nat.find_min hex⟩
    rw [hnone] at hfound
    cases hfound
  · intro hall
    refine Option.eq_none_iff_forall_ne_some.mpr fun i hi => ?_
    obtain ⟨hlt, hmeets, -⟩ := (newId_eq_some_iff ..).mp hi
    exact hall i hlt hmeets

/-- Settles O32: the search runs over all 24-bit IDs from 0. -/
theorem newConnectionId : Obligations.NewConnectionId := by
  unfold Obligations.NewConnectionId
  intro s n home lc
  exact ⟨newId_eq_some_iff s n home lc, newId_eq_none_iff s n home lc⟩

/-! ### The home die of a new connection (R280) -/

/-- Of the best so far and the next, the one with the smaller count, the earlier on a tie. -/
def fewerOf (f : Nat → Nat) (b : Nat × Nat) (d : Nat) : Nat × Nat := if f d < b.2 then (d, f d) else b

/-- `r` has the smallest count of a list, and is the lowest of those that have it. -/
def isFewest (f : Nat → Nat) (ds : List Nat) (r : Nat) : Prop := r ∈ ds ∧ ∀ d ∈ ds, f r ≤ f d ∧ (d < r → f r < f d)

/-- The fold over an ascending list ends with its lowest member of smallest count. -/
theorem isFewest_foldl_fewerOf (f : Nat → Nat) (ds : List Nat) (b : Nat) (hasc : (b :: ds).Pairwise (· < ·)) :
    isFewest f (b :: ds) (ds.foldl (fewerOf f) (b, f b)).1 := by
  induction ds generalizing b with
  | nil => simp [isFewest]
  | cons d ds ih =>
    obtain ⟨hb, hds⟩ := List.pairwise_cons.mp hasc
    have hbd : b < d := hb d (List.mem_cons_self ..)
    rw [List.foldl_cons]
    by_cases hlt : f d < f b
    · rw [fewerOf, if_pos hlt]
      obtain ⟨hmem, hall⟩ := ih d hds
      refine ⟨List.mem_cons_of_mem _ hmem, List.forall_mem_cons.mpr ⟨?_, hall⟩⟩
      have hle := (hall d (List.mem_cons_self ..)).1
      exact ⟨by omega, fun _ => by omega⟩
    · rw [fewerOf, if_neg hlt]
      obtain ⟨hmem, hall⟩ := ih b (hasc.sublist ((List.sublist_cons_self d ds).cons_cons b))
      obtain ⟨hle, htie⟩ := hall b (List.mem_cons_self ..)
      refine ⟨?_, List.forall_mem_cons.mpr ⟨⟨hle, htie⟩, List.forall_mem_cons.mpr ⟨⟨by omega, fun hdr => ?_⟩,
        fun x hx => hall x (List.mem_cons_of_mem _ hx)⟩⟩⟩
      · exact List.mem_cons.mpr ((List.mem_cons.mp hmem).imp_right (List.mem_cons_of_mem _))
      · have := htie (by omega)
        omega

/-- Open connections of a partition whose home is a die. -/
def homeCount (s : State) (n d : Nat) : Nat := s.fab.conns.countP fun x => x.2.part == n && x.2.home == d

theorem isFewest_homeFor (s : State) (n : Nat) : isFewest (homeCount s n) [0, 1, 2, 3] (homeFor s n) :=
  isFewest_foldl_fewerOf (homeCount s n) [1, 2, 3] 0 (by decide)

/-- Settles O33: the home die is the lowest of those with the fewest connections. -/
theorem homeDieRule : Obligations.HomeDieRule := by
  unfold Obligations.HomeDieRule
  intro s n d hd
  obtain ⟨hmem, hall⟩ := isFewest_homeFor s n
  have hdie : ∀ k < 4, k ∈ [0, 1, 2, 3] := by decide
  obtain ⟨hle, htie⟩ := hall d (hdie d hd)
  exact ⟨⟨(by decide : ∀ k ∈ [0, 1, 2, 3], k < 4) _ hmem, hle⟩, htie⟩

/-! ### CONN_OPEN (R278 to R281) -/

/-- A packet that reaches check 6 by a command for its type goes on from there. -/
theorem receiveOnly_reachesSix {port at_ : Nat} {p : Packet} {s s1 : State} {ok : Nat → Bool} (h : reachesSix port at_ p s s1)
    (hok : ok p.hdr.typ = true) : receiveOnly ok port at_ p s = fromCheckSix port at_ p s1 := by
  obtain ⟨hs, hport, hfront⟩ := h
  simp [receiveOnly, hs, hport, hok, receive, hfront]

/-- A CONN_OPEN that opens no connection twice, of an accepted offer, and with an ID and a home die to be had, opens it. -/
theorem takeOpen_accepted {port n major minor cid home : Nat} {h : NativeHdr} {body : List Byte} {s : State}
    (hnew : (s.fab.conns.find? fun x => !x.2.own && x.2.peer == h.src && x.2.peerConn == fieldAt body 8 3 &&
      x.2.openerStart == fieldAt body 0xC 4) = none)
    (hout : openOutcome s port h body = .ok (n, major, minor))
    (hplace : placeConn s n (bitOf (fieldAt body 0x10 1) 1) = some (cid, home)) :
    takeOpen port h body s =
      (let c := acceptedConn s port h body n major minor home (draw32 s).1
       sendControl port h.src (fieldAt body 8 3) h.tenant 0xE1 (major, minor) (acceptBody c cid) (some n) (some cid)
         none (settleRecord cid c (draw32 s).2)) := by
  simp only [takeOpen, hnew, hout, hplace]

/-- Settles O26: the packet passes to the acceptor, which accepts it. -/
theorem connOpenCompletes : Obligations.ConnOpenCompletes := by
  unfold Obligations.ConnOpenCompletes
  intro s s1 port at_ n major minor cid home p hsix htyp hnew hout hplace
  have hrow : exec (.connOpen port at_ p) s = done s (receiveOnly (· == 0xE0) port at_ p s) := rfl
  rw [hrow, receiveOnly_reachesSix hsix (by simp [htyp]), fromCheckSix, if_pos htyp]
  exact done_eq_of_eq (takeOpen_accepted hnew hout hplace)

/-! ### The timers of a connection (R282, R288, R289, R291, R316) -/

/-- A BASE whose slot holds nothing moves on, and the window's generation with it where it comes round. -/
theorem exec_windowBaseAdvance_moves {s : State} {cid : Nat} {c : Conn} (hs : serving s = true) (hc : conn? s cid = some c)
    (hmoves : baseMoves s c = true) (hslot : mfind c.slots c.base = none) :
    exec (.windowBaseAdvance cid) s = .next (after s (setConn cid { c with
      base := (c.base + 1) % 2 ^ 32
      slots := mdel c.slots c.base
      rxGen := if (c.base + 1) % 2 ^ 32 = c.openerStart then c.rxGen + 1 else c.rxGen } s)) := by
  have hrow : exec (.windowBaseAdvance cid) s = execWindowBaseAdvance cid s := rfl
  rw [hrow, execWindowBaseAdvance, if_neg (serving_not_held hs)]
  simp only [hc, hmoves, hslot, if_true, done_eq_after]

theorem exec_quarantineEnd_serving {s : State} (hs : serving s = true) (cid : Nat) :
    exec (.quarantineEnd cid) s = .next (after s { s with fab := { s.fab with
      quarantine := s.fab.quarantine.filter fun q => q.conn != cid || decide (s.tb.now < q.until_) } }) := by
  have hrow : exec (.quarantineEnd cid) s = execQuarantineEnd cid s := rfl
  rw [hrow, execQuarantineEnd, if_neg (serving_not_held hs), done_eq_after]

/-- A message unanswered for the retransmit timeout, and younger than PLT, is sent again. -/
theorem exec_retransmitTimeout_late {s : State} {cid mseq : Nat} {c : Conn} {m : TxMsg} (hs : serving s = true)
    (hc : conn? s cid = some c) (hm : c.tx.find? (fun x => x.mseq == mseq) = some m) (hsent : m.sent = true)
    (hout : notYetSent s cid mseq = false) (hlate : retxNs s ≤ s.tb.now - m.lastTx)
    (hyoung : (s.tb.now + 2 ^ 32 - m.ingressTs) % 2 ^ 32 < pltNs s) :
    exec (.retransmitTimeout cid mseq) s = .next (after s (transmitTx cid m true (updConn cid (fun c => { c with tx :=
      (c.tx.map fun x => if x.mseq = mseq then { x with lastTx := s.tb.now } else x) }) s))) := by
  have hrow : exec (.retransmitTimeout cid mseq) s = execRetransmitTimeout cid mseq s := rfl
  rw [hrow, execRetransmitTimeout, if_neg (serving_not_held hs)]
  simp only [hc, hm]
  rw [if_pos (by simp only [hsent, hout, hlate, hyoung, Bool.not_false, decide_true, Bool.and_self]), done_eq_after]

/-- A request message unanswered for PLT is abandoned. -/
theorem exec_messageAbandon_old {s : State} {cid mseq : Nat} {c : Conn} {m : TxMsg} (hs : serving s = true)
    (hc : conn? s cid = some c) (hm : c.tx.find? (fun x => x.mseq == mseq) = some m) (hsent : m.sent = true)
    (hout : notYetSent s cid mseq = false) (hold : pltNs s ≤ (s.tb.now + 2 ^ 32 - m.ingressTs) % 2 ^ 32)
    (hopening : m.why ≠ .opening) (hclosing : m.why ≠ .closing) :
    exec (.messageAbandon cid mseq) s = .next (after s (messageOutcome c.peer c.part m 0xFF 0 (dropTx cid mseq s))) := by
  have hrow : exec (.messageAbandon cid mseq) s = execMessageAbandon cid mseq s := rfl
  rw [hrow, execMessageAbandon, if_neg (serving_not_held hs)]
  simp only [hc, hm]
  rw [if_neg (by simpa [hsent, hout] using hold), if_neg hopening, if_neg hclosing, done_eq_after]

/-- A request held for a newer epoch is refused when its hold ends. -/
theorem exec_newerEpochHoldExpire_held {s : State} {cid mseq : Nat} {c : Conn} {sl : Slot} (hs : serving s = true)
    (hc : conn? s cid = some c) (hsl : mfind c.slots mseq = some sl) (hwait : sl.waiting = true) (hopen : sl.done = false)
    (hend : sl.arrival + holdNs s ≤ s.tb.now) :
    exec (.newerEpochHoldExpire cid mseq) s =
      .next (after s (failSlot cid mseq sl.port sl.first stNotPermitted 0 [] s)) := by
  have hrow : exec (.newerEpochHoldExpire cid mseq) s = execNewerEpochHoldExpire cid mseq s := rfl
  rw [hrow, execNewerEpochHoldExpire, if_neg (serving_not_held hs)]
  simp only [hc, hsl, Option.bind_some]
  rw [if_pos (by simp [hwait, hopen, hend]), done_eq_after]

/-- Settles O28: each command by its own lemma. -/
theorem connectionTimersComplete : Obligations.ConnectionTimersComplete := by
  unfold Obligations.ConnectionTimersComplete
  exact ⟨fun _ _ _ hs hc hmoves hslot => exec_windowBaseAdvance_moves hs hc hmoves hslot,
    fun _ cid hs => exec_quarantineEnd_serving hs cid,
    fun _ _ _ _ _ hs hc hm hsent hout hlate hyoung => exec_retransmitTimeout_late hs hc hm hsent hout hlate hyoung,
    fun _ _ _ _ _ hs hc hm hsent hout hold hopening hclosing =>
      exec_messageAbandon_old hs hc hm hsent hout hold hopening hclosing,
    fun _ _ _ _ _ hs hc hsl hwait hopen hend => exec_newerEpochHoldExpire_held hs hc hsl hwait hopen hend⟩

end Sys2Proof.Machine
end

section
/-!
PROOFS. Images of sequences, written and read (R412 to R415), and RMA reads (R296).
-/

namespace Sys2Proof.Machine

open Sys2Proof

/-! ### CHECKPOINT (R412, R414) -/

/-- The descriptors `ms` that a CHECKPOINT names are found, and their image `img` is written, with `lost` pages LOST. -/
structure ImageBuilt (r : Req) (n : Nat) (ms : List Nat) (img : List Byte) (lost : Nat) (t s1 s2 : State) : Prop where
  form : ckptOk r.body = true
  secret : isConf t n = true → ((part? t n).bind (·.ckptSecret)).isSome = true
  sources : ckptSources r n (ckptKeys r.body) t = .ok (ms, s1)
  here : ∀ m ∈ ms, fetchingPage s1 m = false
  image : buildImage n r.tenant ((part? t n).bind (·.ckptSecret)) ms s1 = ((img, lost), s2)
  size : img.length ≤ 2 ^ 36

/-- A confidential partition has the secret that its image needs. -/
theorem ImageBuilt.keyed {t s1 s2 : State} {r : Req} {n lost : Nat} {ms : List Nat} {img : List Byte}
    (h : ImageBuilt r n ms img lost t s1 s2) : (isConf t n && ((part? t n).bind (·.ckptSecret)).isNone) = false := by
  cases hconf : isConf t n
  · rfl
  · simpa [Option.isSome_iff_ne_none] using h.secret hconf

theorem ImageBuilt.find_fetching {t s1 s2 : State} {r : Req} {n lost : Nat} {ms : List Nat} {img : List Byte}
    (h : ImageBuilt r n ms img lost t s1 s2) : ms.find? (fetchingPage s1) = none := by
  simpa using h.here

/-- The image is within the bytes that one key may seal. -/
theorem ImageBuilt.fits {t s1 s2 : State} {r : Req} {n lost : Nat} {ms : List Nat} {img : List Byte}
    (h : ImageBuilt r n ms img lost t s1 s2) : (isConf t n && decide (2 ^ 36 < img.length)) = false := by
  simpa using fun _ => h.size

/-- A CHECKPOINT into a buffer of the node that takes the image is answered once the image is in it. -/
theorem runCheckpoint_local {t s1 s2 : State} {r : Req} {n lost : Nat} {ms : List Nat} {img : List Byte}
    (h : ImageBuilt r n ms img lost t s1 s2) (hpart : reqPart t r = some n)
    (hgate : gate t n r 0x22 ((ckptKeys r.body).map (·.1)) = none) (hnode : fieldAt r.body 0 2 % 4096 = nodeId t)
    (hbuf : bufferCheck s2 n 0x42 (fieldAt r.body 4 3) (fieldAt r.body 7 1) img.length = none) :
    runCheckpoint r t = respond r 0x22 stOk 0 (ckptBody lost img.length) (bufferWrite (fieldAt r.body 4 3) 0 img s2) := by
  simp only [runCheckpoint, hpart, hgate, h.form, h.keyed, h.sources, h.find_fetching, h.image, h.fits, if_pos hnode, hbuf,
    Bool.not_true, Bool.false_eq_true, if_false]

/-- A CHECKPOINT into a buffer of another node sends the image there, and is answered once that node answers. -/
theorem runCheckpoint_remote {t s1 s2 s3 : State} {r : Req} {n lost cid : Nat} {ms : List Nat} {img : List Byte}
    (h : ImageBuilt r n ms img lost t s1 s2) (hpart : reqPart t r = some n)
    (hgate : gate t n r 0x22 ((ckptKeys r.body).map (·.1)) = none) (hnode : fieldAt r.body 0 2 % 4096 ≠ nodeId t)
    (hconn : connOrOpen n (fieldAt r.body 0 2 % 4096) s2 = some (cid, s3)) :
    runCheckpoint r t = (sendRequest cid 0x42 (fieldAt r.body 4 3 + fieldAt r.body 7 1 * 2 ^ 24) img
      (.checkpoint r (ckptBody lost img.length)) s3).2 := by
  simp only [runCheckpoint, hpart, hgate, h.form, h.keyed, h.sources, h.find_fetching, h.image, h.fits, if_neg hnode, hconn,
    Bool.not_true, Bool.false_eq_true, if_false]

/-! ### RESTORE (R415) -/

/-- An image of `len` bytes that a RESTORE of partition `n` takes: its header, its seal and its table records hold, it belongs to the
request's tenant and to a partition of the same kind, and its sections `xs` are whole and hold new keys. -/
structure ImageGood (r : Req) (n len : Nat) (img : List Byte) (xs : List ImgSection) (u : State) : Prop where
  head : imageHeadOk img len = true
  conf : bitOf (fieldAt img 1 1) 0 = isConf u n
  sealed : imageSealed u n len img = true
  tenant : fieldAt img 2 2 = r.tenant
  size : 64 * fieldAt img 6 2 ≤ (imageBody u n len img).length
  tables : tablesOk u n (fieldAt img 6 2) (imageBody u n len img) = true
  sections : readSections (isConf u n) (fieldAt img 4 2) ((imageBody u n len img).drop (64 * fieldAt img 6 2)) = some xs
  whole : ∀ x ∈ xs, x.desc.tenant = r.tenant ∧ keyExists u n (seqKey r.tenant x.desc.seqId x.desc.layerGroup) = false ∧
    x.good = true ∧ ∀ p ∈ x.pages, p.good = true

/-- A good image with entries, MDBs and pages for all that it holds is restored. -/
theorem ImageGood.restoreImage_eq {u s1 : State} {r : Req} {n len : Nat} {img : List Byte} {xs : List ImgSection} {ms : List Nat}
    (h : ImageGood r n len img xs u) (hfree : xs.length ≤ dirFree u n) (hall : restoreAll n r.arrival xs u = some (ms, s1)) :
    restoreImage r n len img u = restored r n ms s1 := by
  obtain ⟨hhead, hconf, hseal, htenant, hsize, htables, hsections, hwhole⟩ := h
  have hown : (xs.any fun x => decide (x.desc.tenant ≠ r.tenant)) = false := by
    simpa using fun x hx => (hwhole x hx).1
  have hnew : (xs.any fun x => keyExists u n (seqKey r.tenant x.desc.seqId x.desc.layerGroup)) = false := by
    simpa using fun x hx => (hwhole x hx).2.1
  have hgood : (xs.any fun x => !x.good || x.pages.any fun p => !p.good) = false := by
    simpa using fun x hx => (hwhole x hx).2.2
  simp only [restoreImage, hhead, hconf, hseal, htenant, Nat.not_lt.mpr hsize, htables, hsections, hown, hnew, hgood,
    Nat.not_lt.mpr hfree, hall]
  simp

/-- RESTORE from a buffer of another node takes the bytes that RMA_READ brought. -/
theorem runRestore_remote {t : State} {r : Req} {n : Nat} (hpart : reqPart t r = some n) (hgate : gate t n r 0x23 [] = none)
    (hlen : r.body.length = 16) (hnode : fieldAt r.body 0 2 % 4096 ≠ nodeId t) (remote : List Byte) :
    runRestore r remote t = restoreImage r n (fieldAt r.body 8 5) (sliceBytes remote 0 (fieldAt r.body 8 5)) t := by
  simp [runRestore, hpart, hgate, hlen, hnode]

/-- RESTORE from a buffer of the node takes the bytes that the buffer holds. -/
theorem runRestore_local {t : State} {r : Req} {n : Nat} (hpart : reqPart t r = some n) (hgate : gate t n r 0x23 [] = none)
    (hlen : r.body.length = 16) (hnode : fieldAt r.body 0 2 % 4096 = nodeId t)
    (hbuf : bufferCheck t n 0x41 (fieldAt r.body 4 3) (fieldAt r.body 7 1) (fieldAt r.body 8 5) = none) (remote : List Byte) :
    runRestore r remote t = restoreImage r n (fieldAt r.body 8 5)
      (bufferRead (fieldAt r.body 4 3) 0 (fieldAt r.body 8 5) t).1 (bufferRead (fieldAt r.body 4 3) 0 (fieldAt r.body 8 5) t).2 := by
  simp [runRestore, hpart, hgate, hlen, hnode, hbuf]

/-! ### RMA_READ (R296) -/

/-- RMA_READ of bytes that a readable buffer holds answers them. -/
theorem runRmaRead_readable {t : State} {r : Req} {n index gen : Nat} (hpart : reqPart t r = some n)
    (hgate : gate t n r 0x41 [] = none) (hbody : r.body.length = 16) (h1 : 1 ≤ fieldAt r.body 8 4)
    (hmax : fieldAt r.body 8 4 ≤ 1073741824)
    (hbuf : bufferCheck t n 0x41 index gen (fieldAt r.body 0 5 + fieldAt r.body 8 4) = none) :
    runRmaRead r index gen t = respond r 0x41 stOk 0
      (statusBody stOk ++ (bufferRead index (fieldAt r.body 0 5) (fieldAt r.body 8 4) t).1)
      (bufferRead index (fieldAt r.body 0 5) (fieldAt r.body 8 4) t).2 := by
  have hform : ¬ (r.body.length ≠ 16 ∨ fieldAt r.body 8 4 = 0 ∨ 1073741824 < fieldAt r.body 8 4) := by omega
  simp only [runRmaRead, hpart, hgate, if_neg hform, hbuf]

/-- Settles O40: an image by where it goes to or comes from, an RMA read by its own lemma. -/
theorem imageRequestsComplete : Obligations.ImageRequestsComplete := by
  unfold Obligations.ImageRequestsComplete
  refine ⟨fun s t s1 s2 r n lost ms img hadm hform hsecret hsources hhere himage hsize => ?_,
    fun s t u s1 r remote img n xs ms hadm hlen hremote hlocal hhead hconf hseal htenant hsize htables hsections hwhole
      hfree hall => ?_,
    fun s r n index gen hs hpart hgate hbody h1 hmax hbuf => ?_⟩
  · have hbuilt : ImageBuilt r n ms img lost t s1 s2 := ⟨hform, hsecret, hsources, hhere, himage, hsize⟩
    exact ⟨fun hnode hbuf => done_requestRow_admitted hadm fun hpart hgate => runCheckpoint_local hbuilt hpart hgate hnode hbuf,
      fun cid s3 hnode hconn => done_requestRow_admitted hadm fun hpart hgate =>
        runCheckpoint_remote hbuilt hpart hgate hnode hconn⟩
  · have hgood : ImageGood r n (fieldAt r.body 8 5) img xs u := ⟨hhead, hconf, hseal, htenant, hsize, htables, hsections, hwhole⟩
    refine done_requestRow_admitted hadm fun hpart hgate => ?_
    refine Eq.trans ?_ (hgood.restoreImage_eq hfree hall)
    by_cases hnode : fieldAt r.body 0 2 % 4096 = nodeId t
    · obtain ⟨hbuf, hread⟩ := hlocal hnode
      exact (runRestore_local hpart hgate hlen hnode hbuf remote).trans (by rw [hread])
    · obtain ⟨rfl, rfl⟩ := hremote hnode
      exact runRestore_remote hpart hgate hlen hnode remote
  · have hrow : exec (.rmaRead r index gen) s = execRmaRead r index gen s := rfl
    rw [hrow, execRmaRead, if_neg (serving_not_held hs)]
    exact done_eq_of_eq (runRmaRead_readable hpart hgate hbody h1 hmax hbuf)

end Sys2Proof.Machine
end

section
/-!
PROOFS. Keys: the walk of a partition's pages, rotations, and the installation of secrets and associations (R277, R381, R383, R384);
and the registration of buffers and of areas in the host's memory (R292, R293, R355, R363, R364).
-/

namespace Sys2Proof.Machine

open Sys2Proof

/-! ### The walk and the key slots (R383, R384) -/

/-- The pages that the walk of a partition has taken in the present 1 ms window. -/
def walkedInWindow (s : State) (p : Part) : Nat := if p.walkWindow = s.tb.now / 1000000 then p.walkTaken else 0

/-- The walk with pages left in its window, no reference entry to take and a descriptor's page to take takes that page. -/
theorem exec_reencryptWalk_own {s : State} {n m i j : Nat} {p : Part} {l : PageLoc} {e : PageEntry} (hs : serving s = true)
    (hp : part? s n = some p) (hwalk : p.walking = true) (hleft : walkedInWindow s p < walkPages s n)
    (href : nextRef s p (activeSlot p) = none) (hown : nextOwn s n (activeSlot p) = some (m, i, j, l, e)) :
    exec (.reencryptWalk n) s = .next (after s (settleSlots n
      (updPart n (fun q => { q with walkWindow := s.tb.now / 1000000, walkTaken := walkedInWindow s p + 1 })
        (walkEntry n m i j l e (activeSlot p) s)))) := by
  have hrow : exec (.reencryptWalk n) s = execReencryptWalk n s := rfl
  have hgoes : ¬ (!p.walking || decide (walkPages s n ≤ walkedInWindow s p)) = true := by
    simp [hwalk, Nat.not_le.mpr hleft]
  unfold walkedInWindow at hgoes
  rw [hrow, execReencryptWalk, if_neg (serving_not_held hs)]
  simp only [hp, href, hown, if_neg hgoes, done_eq_after, walkedInWindow]

/-- The slot `k` of a rotation becomes ACTIVE and the active one RETIRING, the rotation is counted, and the walk restarts (R383). -/
def slotSwitched (k : Nat) (p : Part) : Part :=
  { p with
    slots := (p.slots.zipIdx.map fun x =>
      if x.2 = k then { x.1 with state := .active }
      else if x.1.state = .active then { x.1 with state := .retiring } else x.1)
    rotateTo := none, rotations := sat32 (p.rotations + 1), walking := true }

/-- The rotation that holds a slot ends: its slot is switched to, its command answered, and the rotations that waited go on. -/
theorem exec_keySlotSwitch_rotating {s : State} {n k t : Nat} {p : Part} {c : CocoonCmd} (hs : serving s = true)
    (hp : part? s n = some p) (hrot : p.rotateTo = some (k, t, c)) :
    exec (.keySlotSwitch n) s = .next (after s (nextRotation n p.rotateWait (settleSlots n (cocoonAnswer c stOk (leBytes 8 k)
      (updPart n (slotSwitched k) (touch ((t / 1000 + 1) * 1000) s)))))) := by
  have hrow : exec (.keySlotSwitch n) s = execKeySlotSwitch n s := rfl
  rw [hrow, execKeySlotSwitch, if_neg (serving_not_held hs)]
  simp only [hp, hrot, done_eq_after]
  rfl

/-! ### Cocoon commands of keys (R277, R381, R383) -/

/-- KEY_INSTALL of a tenant for its own partition installs the connection secret or the checkpoint secret. -/
theorem exec_keyInstall_tenant {s : State} {c : CocoonCmd} {b : List Byte} {n : Nat} (ht : cocoonTurn s c 40 b)
    (hrole : c.role = .tenant n) (hkind : fieldAt b 0 1 = 1 ∨ fieldAt b 0 1 = 2) (hz : allZero (sliceBytes b 1 7) = true)
    (hpart : (part? s n).isSome = true) (hconf : isConf s n = true → s.cocoon.erased = false) :
    exec (.keyInstall c) s = .next (after s (cocoonAnswer c stOk [] (updPart n (fun p =>
      if fieldAt b 0 1 = 1 then { p with connSecret := some (BitVec.ofNat 256 (fieldAt b 8 32)) }
      else { p with ckptSecret := some (BitVec.ofNat 256 (fieldAt b 8 32)) }) s))) := by
  have hrow : exec (.keyInstall c) s = execKeyInstall c s := rfl
  have hform : ¬ ((fieldAt b 0 1 ≠ 1 ∧ fieldAt b 0 1 ≠ 2) ∨ (!allZero (sliceBytes b 1 7)) = true) := by
    simp only [hz, Bool.not_true, Bool.false_eq_true, or_false]
    omega
  have hheld : ¬ ((part? s n).isNone || (isConf s n && s.cocoon.erased)) = true := by
    simpa [Option.isSome_iff_ne_none] using ⟨Option.isSome_iff_ne_none.mp hpart, hconf⟩
  rw [hrow, execKeyInstall, hrole]
  dsimp only
  rw [cocoonCmd_turn ht Option.isSome_some, Option.getD_some, if_neg hform, if_neg hheld]

/-- KEY_ROTATE by the operator or by the partition's tenant starts a rotation, or waits behind the one under way. -/
theorem exec_keyRotate_allowed {s : State} {c : CocoonCmd} {b : List Byte} {n : Nat} {p : Part} (ht : cocoonTurn s c 8 b)
    (hrole : c.role = .operator ∨ c.role = .tenant n) (hb : fieldAt b 0 1 = n) (hpay : fieldAt c.payload 8 1 = n) (hn : n < 64)
    (hz : allZero (b.drop 1) = true) (hp : part? s n = some p) :
    exec (.keyRotate c) s = .next (after s
      (if p.rotateTo.isSome then updPart n (fun q => { q with rotateWait := q.rotateWait ++ [c] }) s else startRotation n c s)) := by
  have hrow : exec (.keyRotate c) s = execKeyRotate c s := rfl
  have hall : (c.role == .operator || c.role == .tenant (fieldAt c.payload 8 1)) = true := by
    simpa [hpay] using hrole
  have hform : ¬ (64 ≤ n ∨ (!allZero (b.drop 1)) = true) := by
    rw [hz]
    simp [hn]
  rw [hrow, execKeyRotate, cocoonCmd_turn ht hall, hb, if_neg hform]
  simp only [hp]

/-- SAK_INSTALL by the operator installs the key of one association, whose packet number for transmission starts at 0. -/
theorem exec_sakInstall_operator {s : State} {c : CocoonCmd} {b : List Byte} (ht : cocoonTurn s c 64 b)
    (hrole : c.role = .operator) (hport : fieldAt b 0 1 < 8) (heth : fieldAt b 1 1 < 2) (han : fieldAt b 2 1 < 4)
    (hdir : fieldAt b 3 1 < 2) (hres : fieldAt b 20 4 = 0) (hpn : fieldAt b 3 1 = 0 → fieldAt b 56 8 = 0) :
    exec (.sakInstall c) s = .next (after s (cocoonAnswer c stOk [] { s with fab :=
      { s.fab with
        saks := ((fieldAt b 0 1, fieldAt b 1 1, fieldAt b 2 1, fieldAt b 3 1 == 1),
            (BitVec.ofNat 256 (fieldAt b 24 32), fieldAt b 8 12, fieldAt b 4 4, fieldAt b 56 8)) ::
          s.fab.saks.filter fun x => decide (x.1 ≠ (fieldAt b 0 1, fieldAt b 1 1, fieldAt b 2 1, fieldAt b 3 1 == 1))
        txPn := if fieldAt b 3 1 = 0 then mset s.fab.txPn (2 * fieldAt b 0 1 + fieldAt b 1 1) 0 else s.fab.txPn } })) := by
  have hrow : exec (.sakInstall c) s = execSakInstall c s := rfl
  have hform : ¬ (8 ≤ fieldAt b 0 1 ∨ 2 ≤ fieldAt b 1 1 ∨ 4 ≤ fieldAt b 2 1 ∨ 2 ≤ fieldAt b 3 1 ∨ fieldAt b 20 4 ≠ 0 ∨
      (fieldAt b 3 1 = 0 ∧ fieldAt b 56 8 ≠ 0)) := by
    omega
  rw [hrow, execSakInstall, cocoonCmd_turn ht (by simp [hrole]), if_neg hform]

/-- Settles O48: each command by its own lemma. -/
theorem keyCommandsComplete : Obligations.KeyCommandsComplete := by
  unfold Obligations.KeyCommandsComplete
  refine ⟨fun s n m i j p l e hs hp hwalk hleft href hown => exec_reencryptWalk_own hs hp hwalk hleft href hown,
    fun s n k t p c hs hp hrot => exec_keySlotSwitch_rotating hs hp hrot,
    fun s c b n ht hrole hkind hz hpart hconf => exec_keyInstall_tenant ht hrole hkind hz hpart hconf,
    fun s c b n p ht hrole hb hpay hn hz hp => ⟨fun hfree => ?_, fun hbusy => ?_⟩,
    fun s c b ht hrole hport heth han hdir hres hpn => exec_sakInstall_operator ht hrole hport heth han hdir hres hpn⟩
  · rw [exec_keyRotate_allowed ht hrole hb hpay hn hz hp, if_neg (by simp [hfree])]
  · rw [exec_keyRotate_allowed ht hrole hb hpay hn hz hp, if_pos hbusy]

/-! ### Buffers (R292, R293) -/

/-- The buffer in the host's memory that a BUF_REG describes, pending; GEN and LAST_BUMP of its index stay. -/
def hostBuf (s : State) (n r : Nat) (x : Fetched) : Buf :=
  { state := .pending, write := bitOf x.arg0 24, read := bitOf x.arg0 25, hbm := false, part := n,
    gen := (bufOf s (x.arg0 % 16777216)).gen, length := x.len + x.args.getD 0 0 * 4294967296, base := x.addr,
    lastBump := (bufOf s (x.arg0 % 16777216)).lastBump, cmd := some (n, r, x.idx) }

/-- BUF_REG of a free index of host software for a buffer in the host's memory registers it. -/
theorem exec_bufReg_host {s : State} {n r idx : Nat} {x : Fetched} (hturn : ringTurn s 0x30 n r idx x)
    (hi : x.arg0 % 16777216 < 1048576) (hpos : 0 < x.len + x.args.getD 0 0 * 4294967296)
    (hmax : x.len + x.args.getD 0 0 * 4294967296 < 1099511627776) (hkind : bitOf x.arg0 26 = false)
    (hfirm : firmwareIndex (x.arg0 % 16777216) = false) (hfree : (bufOf s (x.arg0 % 16777216)).state = .free)
    (hconf : isConf s n = false) :
    exec (.bufReg n r idx) s = .next (after s
      (startReg (x.arg0 % 16777216) (setBuf (x.arg0 % 16777216) (hostBuf s n r x) (markStarted n r x.idx s)))) := by
  have hrow : exec (.bufReg n r idx) s = execBufReg n r idx s := rfl
  have hform : ¬ (1048576 ≤ x.arg0 % 16777216 ∨ x.len + x.args.getD 0 0 * 4294967296 = 0 ∨
      1099511627776 ≤ x.len + x.args.getD 0 0 * 4294967296 ∨ (false = true ∧ x.addr ≠ 0)) := by
    simp only [Bool.false_eq_true, false_and, or_false]
    omega
  have hmay : ¬ (firmwareIndex (x.arg0 % 16777216) = true ∨ (bufOf s (x.arg0 % 16777216)).state ≠ .free ∨
      (isConf s n = true ∧ True)) := by
    simp [hfirm, hfree, hconf]
  rw [hrow, execBufReg]
  refine done_ringCmd_turn hturn ?_
  simp only [hkind, if_neg hform, if_neg hmay, Bool.not_false, if_true, hostBuf]

/-- A pending registration that lacks nothing takes effect at its time. -/
theorem exec_bufRegEffect_due {s : State} {i : Nat} (hs : serving s = true) (hpend : (bufOf s i).state = .pending)
    (hfull : lacking (bufOf s i) = false) (hdue : (bufOf s i).effectAt ≤ s.tb.now) :
    exec (.bufRegEffect i) s = .next (after s (activateBuf i (bufOf s i).effectAt s)) := by
  have hrow : exec (.bufRegEffect i) s = execBufRegEffect i s := rfl
  rw [hrow, execBufRegEffect, if_neg (serving_not_held hs)]
  dsimp only
  rw [if_pos ⟨hpend, by simp [hfull], hdue⟩, done_eq_after]

/-- BUF_REL of a buffer of the partition that host software registered, with no command behind it, releases it. -/
theorem exec_bufRel_own {s : State} {n r idx : Nat} {x : Fetched} (hturn : ringTurn s 0x31 n r idx x) (hi : x.arg0 < 1048576)
    (hused : (bufOf s x.arg0).state ≠ .free) (hpart : (bufOf s x.arg0).part = n) (hhost : (bufOf s x.arg0).firmware = false)
    (hcmd : (bufOf s x.arg0).cmd = none) :
    exec (.bufRel n r idx) s = .next (after s (complete n r x.idx stOk 0 (releaseBuf x.arg0 s))) := by
  have hrow : exec (.bufRel n r idx) s = execBufRel n r idx s := rfl
  have hmay : ¬ ((bufOf s x.arg0).state = .free ∨ (bufOf s x.arg0).part ≠ n ∨ (bufOf s x.arg0).firmware = true) := by
    simp [hused, hpart, hhost]
  rw [hrow, execBufRel]
  refine done_ringCmd_turn hturn ?_
  simp only [if_neg (Nat.not_le.mpr hi), if_neg hmay, hcmd]

/-! ### Areas in the host's memory (R355, R363, R364) -/

/-- The swap area that a SWAP_AREA_SET of partition `p` sets: the used slots stay used. -/
def areaSet (p : Part) (x : Fetched) : SwapArea :=
  { base := x.addr, slots := x.arg0, used := (p.swapArea.map (·.used)).getD [] }

/-- SWAP_AREA_SET of a first area, or of another size of the one in force that keeps its base and its used slots, sets it. -/
theorem exec_swapAreaSet_fits {s : State} {n r idx : Nat} {x : Fetched} {p : Part} (hturn : ringTurn s 0x40 n r idx x)
    (hp : part? s n = some p) (halign : x.addr % 65536 = 0) (hpos : 1 ≤ x.arg0) (hmax : x.arg0 ≤ 16777215)
    (hkeeps : ∀ a, p.swapArea = some a →
      x.addr = a.base ∧ (a.slots < x.arg0 ∨ (x.arg0 < a.slots ∧ ∀ i ∈ a.used, i < x.arg0))) :
    exec (.swapAreaSet n r idx) s = .next (after s (complete n r x.idx stOk 0
      (updPart n (fun q => { q with swapArea := some (areaSet p x) }) (placeMap n p.swapArea (areaSet p x) s)))) := by
  have hrow : exec (.swapAreaSet n r idx) s = execSwapAreaSet n r idx s := rfl
  have hform : ¬ (x.addr % 65536 ≠ 0 ∨ x.arg0 = 0 ∨ 16777215 < x.arg0) := by omega
  rw [hrow, execSwapAreaSet]
  refine done_ringCmd_turn hturn ?_
  simp only [hp, if_neg hform, areaSet]
  cases harea : p.swapArea with
  | none => rfl
  | some a =>
    obtain ⟨hbase, hsize⟩ := hkeeps a harea
    refine if_neg ?_
    simpa [hbase, Classical.or_iff_not_imp_left] using hsize

/-- EVICT_AREA_SET of a power of two of buckets, while the table in force holds no key, sets the table. -/
theorem exec_evictAreaSet_empty {s : State} {n r idx : Nat} {x : Fetched} {p : Part} (hturn : ringTurn s 0x41 n r idx x)
    (hp : part? s n = some p) (hmin : 1024 ≤ x.arg0) (hmax : x.arg0 ≤ 4194304) (hpow : 2 ^ Nat.log2 x.arg0 = x.arg0)
    (hempty : ∀ a, p.evictArea = some a → a.keys = 0) :
    exec (.evictAreaSet n r idx) s = .next (after s (complete n r x.idx stOk 0
      (updPart n (fun q => { q with evictArea := some { base := x.addr, buckets := x.arg0 } }) s))) := by
  have hrow : exec (.evictAreaSet n r idx) s = execEvictAreaSet n r idx s := rfl
  have hform : ¬ (x.arg0 < 1024 ∨ 4194304 < x.arg0 ∨ 2 ^ Nat.log2 x.arg0 ≠ x.arg0) := by
    simp [hpow, hmin, hmax]
  rw [hrow, execEvictAreaSet]
  refine done_ringCmd_turn hturn ?_
  simp only [hp, if_neg hform]
  cases harea : p.evictArea with
  | none => rfl
  | some a => simp [hempty a harea]

/-- SPILL_AREA_SET by the operator, while the host tier holds no record, sets the area; its count of writes goes on. -/
theorem exec_spillAreaSet_empty {s : State} {c : MgmtCmd} {addr : Nat} (hm : manages s c) (hrole : c.role = .operator)
    (halign : addr % 256 = 0) (hpos : 1 ≤ c.arg0) (hmax : c.arg0 ≤ 16777216) (h1 : c.arg1 = 0) (h2 : c.arg2 = 0)
    (h3 : c.arg3 = 0) (hi : c.input = []) (hempty : tierCount s .host = 0) :
    exec (.spillAreaSet c addr) s = .next (after s (mgmtAnswer c stOk 0 [] { s with host := { s.host with
      spill := some { base := addr, records := c.arg0, writes := (s.host.spill.map (·.writes)).getD 0 } } })) := by
  have hrow : exec (.spillAreaSet c addr) s = execSpillAreaSet c addr s := rfl
  have hform : ¬ (addr % 256 ≠ 0 ∨ c.arg0 = 0 ∨ 16777216 < c.arg0 ∨
      c.arg1 ≠ 0 ∨ c.arg2 ≠ 0 ∨ c.arg3 ≠ 0 ∨ c.input ≠ []) := by
    simp only [hi, ne_eq, not_true_eq_false, or_false]
    omega
  rw [hrow, execSpillAreaSet]
  dsimp only
  rw [mgmtCmd_allowed hm (by simp [hrole]), if_neg hform, if_neg (by simp [hempty])]

/-- Settles O53: each command by its own lemma. -/
theorem bufferCommandsComplete : Obligations.BufferCommandsComplete := by
  unfold Obligations.BufferCommandsComplete
  exact ⟨fun _ _ _ _ _ hturn hi hpos hmax hkind hfirm hfree hconf => exec_bufReg_host hturn hi hpos hmax hkind hfirm hfree hconf,
    fun _ _ hs hpend hfull hdue => exec_bufRegEffect_due hs hpend hfull hdue,
    fun _ _ _ _ _ hturn hi hused hpart hhost hcmd => exec_bufRel_own hturn hi hused hpart hhost hcmd,
    fun _ _ _ _ _ _ hturn hp halign hpos hmax hkeeps => exec_swapAreaSet_fits hturn hp halign hpos hmax hkeeps,
    fun _ _ _ _ _ _ hturn hp hmin hmax hpow hempty => exec_evictAreaSet_empty hturn hp hmin hmax hpow hempty,
    fun _ _ _ hm hrole halign hpos hmax h1 h2 h3 hi hempty =>
      exec_spillAreaSet_empty hm hrole halign hpos hmax h1 h2 h3 hi hempty⟩

end Sys2Proof.Machine
end

section
/-!
PROOFS. The static schedule: distribution ticks, markers and holdover of the timebase (R303 to R305), and the commands of epochs,
moves, placement and fronds (R309, R314, R315, R317, R320, R322, R327 to R329).
-/

namespace Sys2Proof.Machine

open Sys2Proof

/-! ### The timebase (R303 to R305) -/

@[simp] theorem touch_parent (t : Nat) (s : State) : (touch t s).tb.parent = s.tb.parent := by
  unfold touch; split <;> rfl
@[simp] theorem touch_alternate (t : Nat) (s : State) : (touch t s).tb.alternate = s.tb.alternate := by
  unfold touch; split <;> rfl
@[simp] theorem touch_loaded (t : Nat) (s : State) : (touch t s).tb.loaded = s.tb.loaded := by
  unfold touch; split <;> rfl

/-- The port that a node follows is its parent or its alternate (R305). -/
theorem followed_named {s : State} {p : Nat} (h : followed s = some p) :
    s.tb.parent = some p ∨ s.tb.alternate = some p := by
  unfold followed at h
  split at h
  · cases h
  · split at h
    · next q hq =>
      split at h
      · exact .inl (hq.trans h)
      · exact .inr h
    · exact .inr h

/-- Settles O13: with the timebase loaded the tick is not left out, and its row computes the state that the statement names. -/
theorem timebaseTickCompletes : Obligations.TimebaseTickCompletes := by
  unfold Obligations.TimebaseTickCompletes
  intro s hp hl
  have hrow : exec .timebaseTick s = execTimebaseTick s := rfl
  rw [hrow, execTimebaseTick, if_neg (by simp [hp, hl])]
  rfl

/-- The guard that leaves a marker out on a port that is not up lets it through on one that is. -/
theorem marker_not_held {s : State} {p : Nat} (hp : s.boot.powered = true) (hstop : s.health.stopped = false)
    (hup : nativeUp s p = true) : ¬ (!s.boot.powered || s.health.stopped || !nativeUp s p) = true := by
  simp [hp, hstop, hup]

/-- A port whose first marker is due, or whose next one, sends it (R304). -/
theorem exec_timebaseMarkerSend_due {s : State} {p : Nat} (hp : s.boot.powered = true) (hstop : s.health.stopped = false)
    (hup : nativeUp s p = true)
    (hdue : (markerPort s p).sent = false ∨ (markerPort s p).lastSent + markerNs s ≤ s.tb.now) :
    exec (.timebaseMarkerSend p) s =
      .next (after s (setMarkerPort p { markerPort s p with lastSent := s.tb.now, sent := true } s)) := by
  have hrow : exec (.timebaseMarkerSend p) s = execTimebaseMarkerSend p s := rfl
  have hgoes : ¬ ((markerPort s p).sent && decide (s.tb.now < (markerPort s p).lastSent + markerNs s) && s.tb.loaded) = true := by
    rcases hdue with hfirst | hlate
    · simp [hfirst]
    · simp [Nat.not_lt.mpr hlate]
  rw [hrow, execTimebaseMarkerSend, if_neg (marker_not_held hp hstop hup)]
  dsimp only
  rw [if_neg hgoes, done_eq_after]

/-- What a marker received on a port at a time leaves noted there: its two values and the time (R304). -/
def markerNoted (p send lastRx : Nat) (s : State) : State :=
  setMarkerPort p { markerPort s p with lastRx := lastRx, lastPeerSend := send, seen := true } s

/-- A marker on a port that is neither parent nor alternate is noted, and gives no offset (R305). -/
theorem exec_timebaseMarkerReceive_unnamed {s : State} {p : Nat} (hp : s.boot.powered = true) (hstop : s.health.stopped = false)
    (hup : nativeUp s p = true) (hparent : s.tb.parent ≠ some p) (halt : s.tb.alternate ≠ some p) (hl : s.tb.loaded = true)
    (send lastRx at_ : Nat) :
    exec (.timebaseMarkerReceive p send lastRx at_) s = .next (after s
      (let s1 := markerNoted p send at_ (touch at_ s)
       setHoldover { s1 with tb := { s1.tb with
         altInUse := s.tb.alternate == followed s1 && (followed s1).isSome && followed s1 != s.tb.parent } })) := by
  have hrow : exec (.timebaseMarkerReceive p send lastRx at_) s = execTimebaseMarkerReceive p send lastRx at_ s := rfl
  have hfollow : followed (markerNoted p send at_ (touch at_ s)) ≠ some p := fun h => by
    have hnamed := followed_named h
    simp [markerNoted, setMarkerPort, hparent, halt] at hnamed
  have hnamed : (s.tb.parent == some p || s.tb.alternate == some p) = false := by simp [hparent, halt]
  have htake : (followed (markerNoted p send at_ (touch at_ s)) == some p) = false := by simp [hfollow]
  unfold markerNoted at htake ⊢
  rw [hrow, execTimebaseMarkerReceive, if_neg (marker_not_held hp hstop hup)]
  simp only [touch_loaded, hl, if_true, hnamed, htake, Bool.false_and, Bool.false_eq_true, if_false, done_eq_after]

/-- A locked node that is no root, silent for HOLDOVER_US, becomes unlocked (R305 step 4). -/
theorem exec_holdoverExpire_silent {s : State} (hp : s.boot.powered = true) (hlock : s.tb.locked = true) (hroot : isRoot s = false)
    (hsilent : s.tb.lastMarker + holdoverNs s ≤ s.tb.now) :
    exec .holdoverExpire s = .next (after s (unlock (s.tb.parent.getD 0) s.tb.offset s)) := by
  have hrow : exec .holdoverExpire s = execHoldoverExpire s := rfl
  rw [hrow, execHoldoverExpire, if_neg (by simp [hp, hlock, hroot, hsilent]), done_eq_after]

/-- A root that waits for IEEE 1588 time takes it while its timebase is not loaded (R305 step 5). -/
theorem exec_ptpTimebaseLoad_unloaded {s : State} (hp : s.boot.powered = true) (hlock : s.boot.locked = true)
    (hroot : isRoot s = true) (hptp : ptpEn s = true) (hl : s.tb.loaded = false) (time : Nat) :
    exec (.ptpTimebaseLoad time) s = .next { s with tb := { s.tb with loaded := true, locked := true, now := time } } := by
  have hrow : exec (.ptpTimebaseLoad time) s = execPtpTimebaseLoad time s := rfl
  rw [hrow, execPtpTimebaseLoad, if_neg (by simp [hp, hlock, hroot, hptp, hl]), loadRoot, if_neg (by simp [hl])]
  rfl

/-- Settles O14: each command by its own lemma. -/
theorem timebaseCommandsComplete : Obligations.TimebaseCommandsComplete := by
  unfold Obligations.TimebaseCommandsComplete
  exact ⟨fun _ _ hp hstop hup hdue => exec_timebaseMarkerSend_due hp hstop hup hdue,
    fun _ _ send lastRx at_ hp hstop hup hparent halt hl =>
      exec_timebaseMarkerReceive_unnamed hp hstop hup hparent halt hl send lastRx at_,
    fun _ hp hlock hroot hsilent => exec_holdoverExpire_silent hp hlock hroot hsilent,
    fun _ time hp hlock hroot hptp hl => exec_ptpTimebaseLoad_unloaded hp hlock hroot hptp hl time⟩

/-! ### Epochs and fronds (R309, R314, R315, R317) -/

/-- The oldest accepted commit is adopted. -/
theorem exec_epochAdopt_pending {s : State} {c : Commit} {cs : List Commit} (hs : serving s = true)
    (hc : s.epochs.pending = c :: cs) :
    exec .epochAdopt s = .next (after s (adopt c { s with epochs := { s.epochs with pending := cs } })) := by
  have hrow : exec .epochAdopt s = execEpochAdopt s := rfl
  rw [hrow, execEpochAdopt, if_neg (serving_not_held hs)]
  simp only [hc, done_eq_after]

/-- A grace window that has reached its end closes. -/
theorem exec_graceEnd_reached {s : State} {t : Nat} (hs : serving s = true) (ht : s.epochs.graceEnd = some t)
    (hend : t ≤ s.tb.now) :
    exec .graceEnd s = .next (after s { closeMoved s with
      parts := (closeMoved s).parts.map fun x => (x.1, if x.2.drain = 1 then { x.2 with drain := 2 } else x.2)
      epochs := { (closeMoved s).epochs with graceEnd := none } }) := by
  have hrow : exec .graceEnd s = execGraceEnd s := rfl
  rw [hrow, execGraceEnd, if_neg (serving_not_held hs)]
  simp only [ht, if_neg (Nat.not_lt.mpr hend), done_eq_after]

/-- The shadow bank becomes active, and the former active one an empty shadow (R314). -/
def banksSwitched (x : Fronds) : Fronds :=
  { x with
    activeBank := if x.activeBank = 0 then 1 else 0
    bank0 := if x.activeBank = 0 then none else x.bank0
    bank1 := if x.activeBank = 0 then x.bank1 else none
    activeValid := true
    shadowValid := false
    taken := [] }

/-- A shadow table whose START has been reached becomes active. -/
theorem exec_frondSwitch_reached {s : State} {f : FrondTable} (hs : serving s = true) (hf : shadowTable s = some f)
    (hl : s.tb.loaded = true) (hstart : f.start ≤ s.tb.now) :
    exec .frondSwitch s = .next (after s (retryDeferred (startsUpTo f s.tb.now)
      { releaseFrondJobs (noteOverruns s) with fronds := banksSwitched (releaseFrondJobs (noteOverruns s)).fronds })) := by
  have hrow : exec .frondSwitch s = execFrondSwitch s := rfl
  have hgoes : ¬ (!s.tb.loaded || decide (s.tb.now < f.start)) = true := by simp [hl, hstart]
  rw [hrow, execFrondSwitch, if_neg (serving_not_held hs)]
  simp only [hf, if_neg hgoes, done_eq_after, banksSwitched]

/-! ### Commands of the fabric manager (R309, R322, R327 to R329) -/

/-- A command of the operator has its own effect. -/
theorem mgmtCmd_operator {c : MgmtCmd} {s t : State} (hm : manages s c) (hrole : c.role = .operator) :
    mgmtCmd c (c.role == .operator) s t = .next (after s t) :=
  mgmtCmd_allowed hm (by simp [hrole])

/-- A well-formed MAP_COMMIT, the first or of a newer epoch, is accepted and waits for its tick (R315, R327). -/
theorem exec_mapCommit_accepted {s : State} {c : MgmtCmd} (hm : manages s c) (hrole : c.role = .operator)
    (hform : commitOk s c.input = true)
    (hnew : firstCommit s = true ∨ newerEpoch (fieldAt c.input 2 2) (lastEpoch s) = true) :
    exec (.mapCommit c) s = .next (after s (mgmtAnswer c stOk 0 []
      { s with epochs := { s.epochs with pending := s.epochs.pending ++ [commitOf s.tb.now c.input] } })) := by
  have hrow : exec (.mapCommit c) s = execMapCommit c s := rfl
  have hmay : ¬ (!firstCommit s && !newerEpoch (fieldAt c.input 2 2) (lastEpoch s)) = true := by
    rcases hnew with hfirst | hnewer
    · simp [hfirst]
    · simp [hnewer]
  rw [hrow, execMapCommit, mgmtCmd_operator hm hrole, if_neg (by simp [hform]), if_neg hmay]

/-- The descriptors that announced moves take from this node, each with its target. -/
def movedOut (s : State) (ms : List Move) : List (Nat × Nat) :=
  (ms.filter fun m => !m.movedIn).flatMap fun m => (descsOfSeq s m.tenant m.seqId false).map fun k => (k, m.peer)

/-- A MOVE_ANNOUNCE that takes no descriptor with an open accumulator set starts its transfers, and waits for them (R317, R328). -/
theorem exec_moveAnnounce_started {s : State} {c : MgmtCmd} {ms : List Move} {out : List (Nat × Nat)} {t : State}
    (hms : moveEntries (c.input.drop 16) = ms) (hout : movedOut s ms = out)
    (ht : out.foldl (fun s x => startMove x.1 x.2 s) s = t) (hm : manages s c) (hrole : c.role = .operator)
    (hform : announceOk c.input = true) (hsets : ∀ x ∈ out, hasSet s x.1 = false) :
    exec (.moveAnnounce c) s = .next (after s (settleAnnounces { t with epochs :=
      { t.epochs with
        announced := t.epochs.announced ++ ms.map fun m => (fieldAt c.input 0 2, m)
        announceWait := t.epochs.announceWait ++ [(c, out.map (·.1))] } })) := by
  have hrow : exec (.moveAnnounce c) s = execMoveAnnounce c s := rfl
  have hfree : ¬ (out.any fun x => hasSet s x.1) = true := by simpa using hsets
  subst hms hout ht
  unfold movedOut at hfree ⊢
  rw [hrow, execMoveAnnounce, mgmtCmd_operator hm hrole, if_neg (by simp [hform])]
  dsimp only
  rw [if_neg hfree]

/-- PLACE_SET on the partition's steward writes the record, with the node's current epoch (R320, R329). -/
theorem exec_placeSet_steward {s : State} {c : MgmtCmd} {p : Part} (hm : manages s c) (hrole : c.role = .operator)
    (hform : placeOk c.input = true) (hp : part? s (fieldAt c.input 0 1) = some p) (hstew : p.steward = true)
    (hpages : 64 ≤ p.placement.length) :
    exec (.placeSet c) s = .next (after s (mgmtAnswer c stOk 0 []
      (backedWrite p.placement 2 (64 * fieldAt c.input 2 2) (leBytes 2 s.epochs.current ++ c.input.drop 10) s))) := by
  have hrow : exec (.placeSet c) s = execPlaceSet c s := rfl
  rw [hrow, execPlaceSet, mgmtCmd_operator hm hrole, if_neg (by simp [hform])]
  simp only [hp, hstew, if_neg (Nat.not_lt.mpr hpages), Bool.not_true, Bool.false_eq_true, if_false]

/-- A teardown with no work left ends, and its answer is given (R386). -/
theorem teardown_idle {n : Nat} {s : State} (hidle : workLeft (tearing n s) n = false) (answer : State → State) :
    teardown n answer s = answer (endTeardown n (tearing n s)) := by
  rw [teardown]
  exact if_neg (by simp [hidle])

/-- RELEASE of a DRAINED partition with no work left tears it down (R322). -/
theorem exec_release_drained {s : State} {c : MgmtCmd} {p : Part} (hm : manages s c) (hrole : c.role = .operator)
    (h0 : c.arg0 < 64) (h1 : c.arg1 = 0) (h2 : c.arg2 = 0) (h3 : c.arg3 = 0) (hi : c.input = [])
    (hp : part? s c.arg0 = some p) (hdrained : p.drain = 2) (hidle : workLeft (tearing c.arg0 s) c.arg0 = false) :
    exec (.release c) s = .next (after s (mgmtAnswer c stOk 0 [] (endTeardown c.arg0 (tearing c.arg0 s)))) := by
  have hrow : exec (.release c) s = execRelease c s := rfl
  have hform : ¬ (64 ≤ c.arg0 ∨ c.arg1 ≠ 0 ∨ c.arg2 ≠ 0 ∨ c.arg3 ≠ 0 ∨ c.input ≠ []) := by
    simp [h0, h1, h2, h3, hi]
  rw [hrow, execRelease, mgmtCmd_operator hm hrole, if_neg hform]
  simp only [hp, hdrained, ne_eq, not_true_eq_false, if_false, teardown_idle hidle]

/-- A table that R309 does not refuse goes to the shadow bank (R314). -/
theorem exec_frondLoad_valid {s : State} {c : MgmtCmd} (hm : manages s c) (hrole : c.role = .operator)
    (hvalid : frondRefusal s c.input = none) :
    exec (.frondLoad c) s = .next (after s (mgmtAnswer c stOk 0 [] (setShadow (some (frondImage c.input)) s))) := by
  have hrow : exec (.frondLoad c) s = execFrondLoad c s := rfl
  rw [hrow, execFrondLoad, mgmtCmd_operator hm hrole, hvalid]

/-- Settles O43: each command by its own lemma. -/
theorem epochCommandsComplete : Obligations.EpochCommandsComplete := by
  unfold Obligations.EpochCommandsComplete
  exact ⟨fun _ _ _ hs hc => exec_epochAdopt_pending hs hc,
    fun _ _ hs ht hend => exec_graceEnd_reached hs ht hend,
    fun _ _ hs hf hl hstart => exec_frondSwitch_reached hs hf hl hstart,
    fun _ _ hm hrole hform hnew => exec_mapCommit_accepted hm hrole hform hnew,
    fun _ _ hm hrole hform hsets => exec_moveAnnounce_started rfl rfl rfl hm hrole hform hsets,
    fun _ _ _ hm hrole hform hp hstew hpages => exec_placeSet_steward hm hrole hform hp hstew hpages,
    fun _ _ _ hm hrole h0 h1 h2 h3 hi hp hdrained hidle => exec_release_drained hm hrole h0 h1 h2 h3 hi hp hdrained hidle,
    fun _ _ hm hrole hvalid => exec_frondLoad_valid hm hrole hvalid⟩

end Sys2Proof.Machine
end

section
/-!
PROOFS. Traffic control: the refills and changes of policers and shapers (R332, R336, R337), TC_SET, the transmission of a port (R334,
R335), and the samples of the queue telemetry (R339, R340).
-/

namespace Sys2Proof.Machine

open Sys2Proof

/-! ### Token buckets (R332, R336, R337) -/

/-- The policers of a node that serves take their refills up to the present interval (R332). -/
theorem exec_policerRefill_serving {s : State} (hs : serving s = true) :
    exec .policerRefill s = .next (after s { s with fab := { s.fab with
      policers := s.fab.policers.map fun x => (x.1, refillTo (s.tb.now / 1000) x.2) } }) := by
  have hrow : exec .policerRefill s = execPolicerRefill s := rfl
  rw [hrow, execPolicerRefill, if_neg (serving_not_held hs), done_eq_after]

/-- The shapers of a node that serves take their refills, and then each notes whether its head packet still waits (R336). -/
theorem exec_shaperRefill_serving {s : State} {filled : List (Nat × Bucket)} (hs : serving s = true)
    (hfilled : (s.fab.shapers.map fun x => (x.1, refillTo (s.tb.now / 1000) x.2)) = filled) :
    exec .shaperRefill s = .next (after s
      (filled.foldl (fun s x => noteWait (x.1 / 64) (x.1 % 64) s) { s with fab := { s.fab with shapers := filled } })) := by
  have hrow : exec .shaperRefill s = execShaperRefill s := rfl
  rw [hrow, execShaperRefill, if_neg (serving_not_held hs), hfilled]
  dsimp only
  rw [done_eq_after]

/-- The changes of policers and shapers whose boundary has come take effect in a node that serves (R337). -/
theorem exec_tcChangeApply_serving {s : State} (hs : serving s = true) :
    exec .tcChangeApply s = .next (after s { s with fab := { s.fab with
      policers := s.fab.policers.map fun x => (x.1, bucketAt true (s.tb.now / 1000) x.2)
      shapers := s.fab.shapers.map fun x => (x.1, bucketAt false (s.tb.now / 1000) x.2) } }) := by
  have hrow : exec .tcChangeApply s = execTcChangeApply s := rfl
  rw [hrow, execTcChangeApply, if_neg (serving_not_held hs), done_eq_after]

/-! ### TC_SET (Table 11.2) -/

/-- The partition whose unit a TC_SET names; none for the control policer. -/
def tcUnitPart (c : MgmtCmd) : Option Nat := if bitOf c.arg0 0 then some (c.arg1 % 64) else policerPart c.arg1

/-- The state in which the change that a TC_SET gives its shaper or policer waits for its boundary (R337). -/
def tcChanged (c : MgmtCmd) (s : State) : State :=
  if bitOf c.arg0 0 then
    setShaper c.arg1
      (changeBucket false c.arg2 c.arg3 (bitOf c.arg0 1) (bitOf c.arg0 2) s.tb.now (shaperOf s c.arg1)) s
  else
    setPolicer c.arg1
      (changeBucket true c.arg2 c.arg3 (bitOf c.arg0 1) (bitOf c.arg0 2) s.tb.now (policerOf s c.arg1)) s

/-- A well-formed TC_SET of the operator, whose unit serves no partition or one that exists, changes the unit. -/
theorem exec_tcSet_known {s : State} {c : MgmtCmd} (hm : manages s c) (hrole : c.role = .operator) (h0 : c.arg0 < 8)
    (hi : c.input = []) (hrate : c.arg2 < 262144) (hburst : c.arg3 < 16777216)
    (hindex : c.arg1 < if bitOf c.arg0 0 then 512 else 1032) (htok : bitOf c.arg0 2 = true → bitOf c.arg0 0 = true)
    (hpart : ∀ n, tcUnitPart c = some n → (part? s n).isSome = true) :
    exec (.tcSet c) s = .next (after s (mgmtAnswer c stOk 0 [] (tcChanged c s))) := by
  have hrow : exec (.tcSet c) s = execTcSet c s := rfl
  have hform : ¬ (8 ≤ c.arg0 ∨ c.input ≠ [] ∨ (if bitOf c.arg0 0 then 512 else 1032) ≤ c.arg1 ∨ 262144 ≤ c.arg2 ∨
      16777216 ≤ c.arg3 ∨ (bitOf c.arg0 2 ∧ !bitOf c.arg0 0)) := by
    simpa [h0, hi, hrate, hburst, Nat.not_le.mpr hindex] using htok
  rw [hrow, execTcSet, mgmtCmd_operator hm hrole, if_neg hform, tcChanged]
  unfold tcUnitPart at hpart
  cases hunit : (if bitOf c.arg0 0 then some (c.arg1 % 64) else policerPart c.arg1) with
  | none => simp only [Bool.not_true, Bool.false_eq_true, if_false, apply_ite (mgmtAnswer c stOk 0 [])]
  | some n =>
    simp only [hpart n hunit, Bool.not_true, Bool.false_eq_true, if_false, apply_ite (mgmtAnswer c stOk 0 [])]

/-- TC_SET of a shaper of a partition that exists. -/
theorem exec_tcSet_shaper {s : State} {c : MgmtCmd} (hm : manages s c) (hrole : c.role = .operator) (h0 : c.arg0 < 8)
    (hi : c.input = []) (hrate : c.arg2 < 262144) (hburst : c.arg3 < 16777216) (hunit : bitOf c.arg0 0 = true)
    (hindex : c.arg1 < 512) (hpart : (part? s (c.arg1 % 64)).isSome = true) :
    exec (.tcSet c) s = .next (after s (mgmtAnswer c stOk 0 [] (setShaper c.arg1
      (changeBucket false c.arg2 c.arg3 (bitOf c.arg0 1) (bitOf c.arg0 2) s.tb.now (shaperOf s c.arg1)) s))) := by
  have hknown : ∀ n, tcUnitPart c = some n → (part? s n).isSome = true := by simpa [tcUnitPart, hunit] using hpart
  rw [exec_tcSet_known hm hrole h0 hi hrate hburst (by simpa [hunit] using hindex) (fun _ => hunit) hknown, tcChanged,
    if_pos hunit]

/-- TC_SET of the control policer, or of a policer of a partition that exists. -/
theorem exec_tcSet_policer {s : State} {c : MgmtCmd} (hm : manages s c) (hrole : c.role = .operator) (h0 : c.arg0 < 8)
    (hi : c.input = []) (hrate : c.arg2 < 262144) (hburst : c.arg3 < 16777216) (hunit : bitOf c.arg0 0 = false)
    (htok : bitOf c.arg0 2 = false) (hindex : c.arg1 < 1032)
    (hpart : ∀ n, policerPart c.arg1 = some n → (part? s n).isSome = true) :
    exec (.tcSet c) s = .next (after s (mgmtAnswer c stOk 0 [] (setPolicer c.arg1
      (changeBucket true c.arg2 c.arg3 (bitOf c.arg0 1) false s.tb.now (policerOf s c.arg1)) s))) := by
  have hknown : ∀ n, tcUnitPart c = some n → (part? s n).isSome = true := by simpa [tcUnitPart, hunit] using hpart
  rw [exec_tcSet_known hm hrole h0 hi hrate hburst (by simpa [hunit] using hindex) (by simp [htok]) hknown, tcChanged,
    if_neg (by simp [hunit]), htok]

/-! ### Ports and telemetry (R334, R335, R339, R340) -/

/-- A port that is not off sends the packet it chooses once its dead packets are dropped; a waiting packet takes the place (R335). -/
theorem exec_portTransmit_chosen {s t : State} {port j i : Nat} {p : OutPkt} (ht : dropDeadPackets port s = t)
    (hs : serving s = true) (hmode : portMode s port ≠ 3) (hchoice : choosePacket t port = some (j, i))
    (hp : (egressOf t (egressKey port j))[i]? = some p) :
    exec (.portTransmit port) s = .next (after s (unblock (egressKey port j)
      (transmit port j p (setEgress (egressKey port j) ((egressOf t (egressKey port j)).eraseIdx i) t)))) := by
  have hrow : exec (.portTransmit port) s = execPortTransmit port s := rfl
  have hgoes : ¬ ((!serving s || decide (portMode s port = 3)) = true) := by simp [hs, hmode]
  rw [hrow, execPortTransmit, if_neg hgoes, ht]
  simp only [hchoice, hp, done_eq_after]

/-- The sampling interval that ends is recorded for each of the 784 queues of a node that serves (R339). -/
theorem exec_queueSample_serving {s : State} (hs : serving s = true) :
    exec .queueSample s = .next (after s { s with fab := { s.fab with
      telemetry := allQueues.foldl (fun m g => mset m g (sampleQueue (s.tb.now / sampleNs s * sampleNs s - sampleNs s)
        (bitOf (regWord s 0x018B0000) 0) (mget {} m g))) s.fab.telemetry } }) := by
  have hrow : exec .queueSample s = execQueueSample s := rfl
  rw [hrow, execQueueSample, if_neg (serving_not_held hs)]
  dsimp only
  rw [done_eq_after]

/-- Settles O49: each command by its own lemma. -/
theorem trafficCommandsComplete : Obligations.TrafficCommandsComplete := by
  unfold Obligations.TrafficCommandsComplete
  exact ⟨fun _ hs => exec_policerRefill_serving hs,
    fun _ hs => exec_shaperRefill_serving hs rfl,
    fun _ hs => exec_tcChangeApply_serving hs,
    fun _ _ hm hrole h0 hi hrate hburst =>
      ⟨fun hunit hindex hpart => exec_tcSet_shaper hm hrole h0 hi hrate hburst hunit hindex hpart,
        fun hunit htok hindex hpart => exec_tcSet_policer hm hrole h0 hi hrate hburst hunit htok hindex hpart⟩,
    fun _ _ _ _ _ hs hmode hchoice hp => exec_portTransmit_chosen rfl hs hmode hchoice hp,
    fun _ hs => exec_queueSample_serving hs⟩

end Sys2Proof.Machine
end

section
/-!
PROOFS. What every command keeps: a command answers with the queue as it was, all but two go on in every state, and one that its
guard holds leaves the whole state (R432, R444, R463, R467, R468, R475, R489; log 13).
-/

namespace Sys2Proof.Machine

open Sys2Proof

/-! ### A step -/

/-- Settles O1: the step's own match on a queue that holds a command. -/
theorem stepRunsFrontCommand : Obligations.StepRunsFrontCommand := by
  unfold Obligations.StepRunsFrontCommand
  intro c cs s h
  simp only [step, h]

/-- Settles O2: the step's own match on an empty queue. -/
theorem emptyQueueIdles : Obligations.EmptyQueueIdles := by
  unfold Obligations.EmptyQueueIdles
  intro s h
  simp only [step, h]

/-! ### Commands that go on -/

/-- The command goes on, and leaves the queue as it was. -/
def Answers (s : State) (o : Host.Outcome State Fault Refusal) : Prop := ∃ t, o = .next (after s t)

theorem answers_done (s t : State) : Answers s (done s t) := ⟨t, done_eq_after s t⟩

/-- A guard answers when both its branches do. -/
theorem answers_ite {s : State} {p : Prop} [Decidable p] {a b : Host.Outcome State Fault Refusal} (ha : Answers s a)
    (hb : Answers s b) : Answers s (if p then a else b) := by
  split <;> assumption

theorem mgmtCmd_answers (c : MgmtCmd) (a : Bool) (s t : State) : Answers s (mgmtCmd c a s t) :=
  answers_ite (answers_done s s) (answers_ite (answers_done s _) (answers_done s t))

theorem powerOn_answers (s : State) : Answers s (exec (.powerOn true) s) :=
  answers_ite (answers_done s s) (answers_done s _)

theorem mgmtMessage_answers (m : MgmtMsg) (s : State) : Answers s (exec (.mgmtMessage m) s) := by
  refine answers_ite (answers_done s s) (answers_ite (answers_done s _) ?_)
  split
  · dsimp only
    split <;> exact answers_done s _
  all_goals exact answers_done s _

theorem jtagInstruction_answers {i : JtagInstr} (h : i ≠ .internalScan) (s : State) :
    Answers s (exec (.jtagInstruction i) s) := by
  refine answers_ite (answers_done s s) ?_
  cases i with
  | internalScan => exact absurd rfl h
  | bist t ref => exact answers_ite (answers_done s s) (answers_done s _)
  | bypass | idcode | samplePreload | extest | extestPulse | extestTrain => exact answers_done s _

/-- Every command but a power-on with a bad rail and an internal scan answers. Commands of management and of the cocoon, and those
with one effect, answer at once; any other by its guard, and then at the end of each of its branches. -/
theorem exec_answers {c : Instr} (hrail : c ≠ .powerOn false) (hscan : c ≠ .jtagInstruction .internalScan) (s : State) :
    Answers s (exec c s) := by
  cases c
  case powerOn good =>
    cases good with
    | false => exact absurd rfl hrail
    | true => exact powerOn_answers s
  case jtagInstruction i => exact jtagInstruction_answers (fun h => hscan (by rw [h])) s
  case mgmtMessage m => exact mgmtMessage_answers m s
  case tcSet | spillAreaSet | frondLoad | mapCommit | placeSet | release | moveAnnounce | fwUpdate | enterRecovery | cfgWrite |
      cfgRead | calRead | calWrite | recal | lcTransition | coldReset | pwrCap | bistRun | bistCompatOpen =>
    exact mgmtCmd_answers ..
  case partCreate | partTeardown | keyInstall | keyRotate | sakInstall | attestReport | regRead =>
    refine answers_ite (answers_done s s) (answers_ite (answers_done s _) ?_)
    split <;> exact answers_done s _
  case packetReceive | connOpen | connAccept | connClose | connClosed | rmaWrite | rmaWriteFinal | responseReceive | attDecode |
      attPrefill | attBackward | kvAppend | kvAppendSpec | specCommit | specAbort | seqOpen | seqClose | seqClone | prefixLookup |
      swapOut | swapIn | checkpoint | restore | merge | sqDoorbell | cqDoorbell | nop | request | excLoad | progLoad | progUnload |
      wsetLoad | wsetUnload | bufReg | bufRel | swapAreaSet | evictAreaSet | powerFail =>
    exact answers_done ..
  all_goals
    refine answers_ite ?_ ?_
    all_goals repeat' (first
      | with_reducible exact answers_done s _
      | with_reducible refine answers_ite ?_ ?_
      | extract_lets
      | split)

theorem exec_powerOn_badRail {s : State} (h : s.boot.powered = false) : exec (.powerOn false) s = .fault .railOutOfRange := by
  have hrow : exec (.powerOn false) s = execPowerOn false s := rfl
  simp [hrow, execPowerOn, h]

theorem exec_powerOn_powered {s : State} (h : s.boot.powered = true) (good : Bool) : exec (.powerOn good) s = .next s :=
  if_pos h

/-- Settles O4: every other command answers, and the two that stop do so in the states named. -/
theorem onlyTwoCommandsStop : Obligations.OnlyTwoCommandsStop := by
  unfold Obligations.OnlyTwoCommandsStop
  intro c s hrail hscan
  refine ⟨?_, exec_powerOn_badRail, fun hp ht => ?_⟩
  · obtain ⟨t, ht⟩ := exec_answers hrail hscan s
    exact ⟨after s t, ht⟩
  · have hrow : exec (.jtagInstruction .internalScan) s = execJtagInstruction .internalScan s := rfl
    simp [hrow, execJtagInstruction, hp, ht]

/-! ### The queue -/

theorem pending_of_answers {s t : State} {o : Host.Outcome State Fault Refusal} (h : Answers s o) (ht : o = .next t) :
    t.pending = s.pending := by
  obtain ⟨u, rfl⟩ := h
  cases ht
  rfl

/-- No command touches the queue: the two that can stop leave the whole state where they go on. -/
theorem pending_exec {c : Instr} {s t : State} (h : exec c s = .next t) : t.pending = s.pending := by
  by_cases hrail : c = .powerOn false
  · subst hrail
    have answers : Answers s (exec (.powerOn false) s) := by
      cases hp : s.boot.powered with
      | true => exact ⟨s, exec_powerOn_powered hp false⟩
      | false => rw [exec_powerOn_badRail hp] at h; cases h
    exact pending_of_answers answers h
  by_cases hscan : c = .jtagInstruction .internalScan
  · subst hscan
    have hrow : exec (.jtagInstruction .internalScan) s = execJtagInstruction .internalScan s := rfl
    rw [hrow, execJtagInstruction] at h
    split at h
    · cases h; rfl
    · split at h <;> cases h
      rfl
  exact pending_of_answers (exec_answers hrail hscan s) h

/-- Settles O3: the step takes the front command, and the command leaves the rest of the queue. -/
theorem queueInvariant : Obligations.QueueInvariant := by
  unfold Obligations.QueueInvariant
  intro s t hwf hstep
  have htail : t.pending = s.pending.tail := by
    cases hq : s.pending with
    | nil =>
      rw [emptyQueueIdles s hq] at hstep
      cases hstep
      exact hq
    | cons c cs =>
      rw [stepRunsFrontCommand c cs s hq] at hstep
      exact pending_exec hstep
  refine ⟨?_, htail⟩
  unfold waitingWf at hwf ⊢
  rw [List.all_eq_true] at hwf ⊢
  intro c hc
  rw [htail] at hc
  exact hwf c (List.mem_of_mem_tail hc)

/-! ### Commands that a guard holds -/

theorem requestRow_not_serving {s : State} (h : serving s = false) (op : Nat) (r : Req) (remote : List Byte) :
    requestRow op r remote s = s := by
  simp [requestRow, h]

theorem receiveOnly_not_serving {s : State} (h : serving s = false) (ok : Nat → Bool) (port at_ : Nat) (p : Packet) :
    receiveOnly ok port at_ p s = s := by
  simp [receiveOnly, h]

theorem ringCmd_not_serving {s : State} (h : serving s = false) (code n r idx : Nat) (f : Fetched → State → State) :
    ringCmd code n r idx s f = s := by
  simp [ringCmd, h]

theorem exec_responseReceive_not_serving {s : State} (h : serving s = false) (pkt : Packet) :
    exec (.responseReceive pkt) s = .next s :=
  done_eq_of_eq (by simp [h])

theorem exec_sqDoorbell_not_serving {s : State} (h : serving s = false) (n r tail : Nat) :
    exec (.sqDoorbell n r tail) s = .next s :=
  done_eq_of_eq (by simp [sqDoorbell, h])

theorem exec_cqDoorbell_not_serving {s : State} (h : serving s = false) (n r head : Nat) :
    exec (.cqDoorbell n r head) s = .next s :=
  done_eq_of_eq (by simp [cqDoorbell, h])

/-- A command of the work that the node does once it serves has no effect while it does not serve. -/
theorem exec_of_not_serving {c : Instr} {s : State} (h : serving s = false) (hc : needsService c = true) :
    exec c s = .next s := by
  cases c
  case attDecode | attPrefill | attBackward | kvAppend | kvAppendSpec | specCommit | specAbort | seqOpen | seqClose | seqClone |
      prefixLookup | swapOut | swapIn | checkpoint | restore | merge =>
    exact done_eq_of_eq (requestRow_not_serving h ..)
  case packetReceive | connOpen | connAccept | connClose | connClosed | rmaWrite | rmaWriteFinal =>
    exact done_eq_of_eq (receiveOnly_not_serving h ..)
  case nop | request | excLoad | progLoad | progUnload | wsetLoad | wsetUnload | bufReg | bufRel | swapAreaSet | evictAreaSet =>
    exact done_eq_of_eq (ringCmd_not_serving h ..)
  case responseReceive pkt => exact exec_responseReceive_not_serving h pkt
  case sqDoorbell n r tail => exact exec_sqDoorbell_not_serving h n r tail
  case cqDoorbell n r head => exact exec_cqDoorbell_not_serving h n r head
  case connRecordFetch | windowBaseAdvance | quarantineEnd | backwardHoldTimeout | heldAppendResume | tailDeadlineDrop |
      demandSwapInDone | stallTimeout | rmaRead | retransmitTimeout | messageAbandon | newerEpochHoldExpire | epochAdopt |
      graceEnd | frondSwitch | directoryQuotaWindow | directoryOperation | directoryScrub | throttleLatch | healthDecay |
      hbmScrub | memoryError | pageRepair | pcRetire | laneErrorWindow | engineIssue | corruptBlockReread | workItem |
      contextSwitch | jobPlace | pageTaskCreate | pageTaskDone | pageFree | preemptionPass | preemptRetry | eviction |
      stagePage | stageTtlExpire | replicaApply | pageFetchReply | pageFetchTimeout | rebuildStart | rebuildPage |
      placementRead | reencryptWalk | keySlotSwitch | policerRefill | shaperRefill | tcChangeApply | portTransmit |
      queueSample | ringDrainDone | commandFetch | excLoadEffect | bufRegEffect | hdmAccess | bistInService =>
    exact if_pos (by simp [h])
  all_goals exact Bool.noConfusion hc

/-- Settles O6: each of these commands is held by a guard of its own. -/
theorem serviceNeedsLock : Obligations.ServiceNeedsLock := by
  unfold Obligations.ServiceNeedsLock
  exact fun c s h hc => exec_of_not_serving h hc

theorem mgmtCmd_unpowered {s : State} (h : s.boot.powered = false) (c : MgmtCmd) (a : Bool) (t : State) :
    mgmtCmd c a s t = .next s :=
  if_pos (by simp [h])

theorem mayAccess_unpowered {s : State} (h : s.boot.powered = false) (agent : Agent) : mayAccess s agent = false := by
  simp [mayAccess, h]

theorem exec_registerWrite_unpowered {s : State} (h : s.boot.powered = false) (agent : Agent) (o width : Nat)
    (value : Option Nat) : exec (.registerWrite agent o width value) s = .next s := by
  have hrow : exec (.registerWrite agent o width value) s = execRegisterWrite agent o width value s := rfl
  rw [hrow]
  unfold execRegisterWrite
  split
  · rfl
  · cases value with
    | some v => simp [mayAccess_unpowered h, done_eq_after]
    | none => simp [readValue, mayAccess_unpowered h, h, done_eq_after]

/-- While the node is unpowered its guard holds every command but POWER_ON and POWER_FAIL. -/
theorem exec_of_unpowered {c : Instr} {s : State} (h : s.boot.powered = false) (hon : ∀ good, c ≠ .powerOn good)
    (hfail : c ≠ .powerFail) : exec c s = .next s := by
  cases hneeds : needsService c with
  | true => exact exec_of_not_serving (serving_of_unpowered h) hneeds
  | false =>
    cases c
    case powerOn good => exact absurd rfl (hon good)
    case powerFail => exact absurd rfl hfail
    case tcSet | spillAreaSet | frondLoad | mapCommit | placeSet | release | moveAnnounce | fwUpdate | enterRecovery | cfgWrite |
        cfgRead | calRead | calWrite | recal | lcTransition | coldReset | pwrCap | bistRun | bistCompatOpen =>
      exact mgmtCmd_unpowered h ..
    case partCreate | partTeardown | keyInstall | keyRotate | sakInstall | attestReport | regRead =>
      exact if_pos (by simp [h])
    case registerWrite agent o width value => exact exec_registerWrite_unpowered h agent o width value
    case mailboxGo agent value => exact if_neg (by simp [mayAccess_unpowered h])
    case coldStartPhase | tamperEvent | cocoonSelfTestFail | watchdogExpire | timebaseTick | timebaseMarkerSend |
        timebaseMarkerReceive | holdoverExpire | linkUp | linkDown | sensorSample | powerMeasure | powerFrameEnd | fastEvent |
        refreshDue | slotGrant | mossBodyEnd | mossTaskDone | rowCheckDone | rowOperationEnd | dieLost | dvsecSelect |
        cxlLinkReset | spdmMessage | mgmtMessage | recoveryLoad | regReadM | regWriteM | bistTestEnd | cxlLinkTrain |
        ptpTimebaseLoad | hostQueueUncorrectableError | neighborDiscovery | jtagInstruction | doeMailboxMessage =>
      exact if_pos (by simp [h, portsTrain, governed, spdmServes, mgmtReach, cxlTrains])
    all_goals exact Bool.noConfusion hneeds

/-- Settles O5: each of the other commands is held by a guard that asks for power. -/
theorem unpoweredIsQuiet : Obligations.UnpoweredIsQuiet := by
  unfold Obligations.UnpoweredIsQuiet
  exact fun c s h hon hfail => exec_of_unpowered h hon hfail

end Sys2Proof.Machine
end

section
/-!
PROOFS. Start-up and configuration: what reset and a cold start leave (R432), POWER_ON, POWER_FAIL and the phases (R433, R489), and
the management commands of firmware, configuration, calibration and life cycle (R432, R440 to R454).
-/

namespace Sys2Proof.Machine

open Sys2Proof

/-! ### Reset and cold start (R432, R433, R489) -/

/-- Settles O8: a closed fact about the state after reset. -/
theorem resetState : Obligations.ResetState := by
  unfold Obligations.ResetState
  exact ⟨rfl, reset_memory_wf, rfl, rfl, rfl, rfl, rfl, rfl, by decide⟩

/-- Of runs aborted one after the other, each has its result, and one aborted before keeps its verdict. -/
theorem mfind_foldl_aborted (rs : List BistRunning) (m : List (Nat × BistRes)) (t : Nat)
    (h : (∃ r ∈ rs, r.testId = t) ∨ mfind m t = some { verdict := 3 }) :
    mfind (rs.foldl (fun m r => mset m r.testId { verdict := 3 }) m) t = some { verdict := 3 } := by
  induction rs generalizing m with
  | nil => simpa using h
  | cons r rs ih =>
    refine ih _ ?_
    rw [mfind_mset]
    by_cases ht : t = r.testId
    · exact .inr (if_pos ht)
    · rw [if_neg ht]
      simpa [Ne.symm ht] using h

/-- A self-test run that a cold start ends has the verdict of an aborted one (Table 16.6). -/
theorem mfind_abortedRuns {s : State} {r : BistRunning} (h : r ∈ s.bist.running) :
    mfind (abortedRuns s) r.testId = some { verdict := 3 } :=
  mfind_foldl_aborted _ _ _ (.inl ⟨r, h, rfl⟩)

/-- Settles O11: field by field of the cold start, the runs that it aborts by their own lemma. -/
theorem coldStartKeepsFusesOnly : Obligations.ColdStartKeepsFusesOnly := by
  unfold Obligations.ColdStartKeepsFusesOnly
  intro s
  exact ⟨rfl, rfl, rfl, rfl, rfl, rfl, fun r hr => ⟨_, mfind_abortedRuns hr, rfl⟩, rfl, rfl, rfl, rfl, rfl, rfl, rfl, rfl, rfl,
    rfl, rfl, rfl, rfl, rfl, rfl, rfl, rfl, rfl, rfl⟩

theorem exec_powerOn_unpowered {s : State} (h : s.boot.powered = false) : exec (.powerOn true) s = .next (coldStart s) := by
  have hrow : exec (.powerOn true) s = execPowerOn true s := rfl
  rw [hrow, execPowerOn, if_neg (by simp [h]), if_pos rfl]
  rfl

/-- A phase of a node that starts leaves what the phase computes, at the next stage where it has ended (R433). -/
theorem exec_coldStartPhase_starting {s : State} {inp : PhaseInput} (hp : s.boot.powered = true) (hr : s.boot.recovery = false)
    (ht : s.boot.thermTrip = false) (hs : s.health.stopped = false) :
    exec (.coldStartPhase inp) s = .next (after s (if (nextPhase inp s).2 then
      { (nextPhase inp s).1 with boot := { (nextPhase inp s).1.boot with stage := s.boot.stage + 1 } }
      else (nextPhase inp s).1)) := by
  have hrow : exec (.coldStartPhase inp) s = execColdStartPhase inp s := rfl
  rw [hrow, execColdStartPhase, if_neg (by simp [hp, hr, ht, hs])]
  cases nextPhase inp s
  rfl

/-- Settles O10: each command by its own row. -/
theorem startUpCompletes : Obligations.StartUpCompletes := by
  unfold Obligations.StartUpCompletes
  refine ⟨fun s h => exec_powerOn_unpowered h, fun s => rfl, fun s inp hp hr ht hs => ⟨fun hend => ?_, fun hend => ?_⟩⟩
  · rw [exec_coldStartPhase_starting hp hr ht hs, if_pos hend]
  · rw [exec_coldStartPhase_starting hp hr ht hs, if_neg (by simp [hend])]

/-! ### Management messages and firmware (R442 to R444, R454) -/

/-- A node that a management message reaches is powered, with its ports up and nothing that has stopped it. -/
theorem exec_mgmtMessage_request {s : State} {m : MgmtMsg} (hreach : mgmtReach s = true) (hver : m.mver = 1)
    (htype : m.mtype = 1) (hplain : m.secured = false) : exec (.mgmtMessage m) s = .next (after s (takeRequestMsg m s)) := by
  have hrow : exec (.mgmtMessage m) s = execMgmtMessage m s := rfl
  rw [hrow, execMgmtMessage, if_neg (by simp [hreach]), if_neg (by simp [hver])]
  simp [htype, hplain, done_eq_after]

/-- FW_UPDATE of an image that verifies programs the slot; the image waits for the next cold start. -/
theorem exec_fwUpdate_verified {s : State} {c : MgmtCmd} {sig : SigCheck} (hm : manages s c) (hrole : opOrBoard c.role = true)
    (hok : fwRefusal s c.input sig = none) :
    exec (.fwUpdate c sig) s = .next (after s (mgmtAnswer c stOk 0 []
      { norProgram fwBase slotBytes c.input s with
        boot := { (norProgram fwBase slotBytes c.input s).boot with fwPending := true }
        nv := { (norProgram fwBase slotBytes c.input s).nv with commitSvn := bitOf c.arg0 0 } })) := by
  have hrow : exec (.fwUpdate c sig) s = execFwUpdate c sig s := rfl
  rw [hrow, execFwUpdate, mgmtCmd_allowed hm hrole]
  simp only [hok]

/-- RECOVERY_LOAD of an image that verifies, in recovery mode, programs the slot and starts the node from it. -/
theorem exec_recoveryLoad_verified {s : State} {c : MgmtCmd} {sig : SigCheck} (hreach : mgmtReach s = true)
    (hrec : s.boot.recovery = true) (hok : fwRefusal s c.input sig = none) :
    exec (.recoveryLoad c sig) s =
      .next (after s (coldStart (mgmtAnswer c stOk 0 [] (norProgram fwBase slotBytes c.input s)))) := by
  have hrow : exec (.recoveryLoad c sig) s = execRecoveryLoad c sig s := rfl
  rw [hrow, execRecoveryLoad, if_neg (by simp [hreach]), if_neg (by simp [hrec])]
  simp only [hok, done_eq_after]

theorem mgmtCmd_board {c : MgmtCmd} {s t : State} (hm : manages s c) (hrole : c.role = .board) :
    mgmtCmd c (c.role == .board) s t = .next (after s t) :=
  mgmtCmd_allowed hm (by simp [hrole])

theorem exec_enterRecovery_board {s : State} {c : MgmtCmd} (hm : manages s c) (hrole : c.role = .board)
    (hargs : noArgs c = true) :
    exec (.enterRecovery c) s =
      .next (after s (mgmtAnswer c stOk 0 [] { s with nv := { s.nv with enterRecovery := true } })) := by
  have hrow : exec (.enterRecovery c) s = execEnterRecovery c s := rfl
  rw [hrow, execEnterRecovery, mgmtCmd_board hm hrole, if_neg (by simp [hargs])]

theorem exec_coldReset_board {s : State} {c : MgmtCmd} (hm : manages s c) (hrole : c.role = .board) (hargs : noArgs c = true) :
    exec (.coldReset c) s = .next (after s (coldStart (mgmtAnswer c stOk 0 [] s))) := by
  have hrow : exec (.coldReset c) s = execColdReset c s := rfl
  rw [hrow, execColdReset, mgmtCmd_board hm hrole, if_neg (by simp [hargs])]

/-! ### Configuration and calibration (R434, R440, R448, R449) -/

/-- CFG_WRITE of a block that reads well programs the region; the block waits for the next cold start. -/
theorem exec_cfgWrite_valid {s : State} {c : MgmtCmd} (hm : manages s c) (hrole : c.role = .operator)
    (hlen : c.input.length = fieldAt c.input 8 4) (hrecs : (blockRecords s.nv.serial c.input).isSome = true) :
    exec (.cfgWrite c) s = .next (after s (mgmtAnswer c stOk 0 []
      { norProgram blockBase regionBytes c.input s with
        boot := { (norProgram blockBase regionBytes c.input s).boot with cfgPending := true } })) := by
  have hrow : exec (.cfgWrite c) s = execCfgWrite c s := rfl
  have hform : ¬ (c.input.length ≠ fieldAt c.input 8 4 ∨ (blockRecords s.nv.serial c.input).isNone = true) := by
    simpa [hlen, Option.isSome_iff_ne_none] using hrecs
  rw [hrow, execCfgWrite, mgmtCmd_operator hm hrole, if_neg hform]

/-- CFG_READ answers up to 1,024 bytes of a readable range of the configuration memory. -/
theorem exec_cfgRead_readable {s : State} {c : MgmtCmd} (hm : manages s c) (hrole : opOrBoard c.role = true) (h0 : c.arg0 = 0)
    (h3 : c.arg3 = 0) (hi : c.input = []) (h1 : 1 ≤ c.arg2) (h1024 : c.arg2 ≤ 1024) (hend : c.arg1 + c.arg2 ≤ norBytes)
    (hopen : c.arg1 + c.arg2 ≤ 0x280000 ∨ 0x1000000 ≤ c.arg1) :
    exec (.cfgRead c) s = .next (after s (mgmtAnswer c stOk 0 (norRead s c.arg1 c.arg2) s)) := by
  have hrow : exec (.cfgRead c) s = execCfgRead c s := rfl
  have hform : ¬ (c.arg0 ≠ 0 ∨ c.arg3 ≠ 0 ∨ c.input ≠ [] ∨ c.arg2 = 0 ∨ 1024 < c.arg2 ∨ norBytes < c.arg1 + c.arg2) := by
    simp only [hi, ne_eq, not_true_eq_false, false_or]
    omega
  rw [hrow, execCfgRead, mgmtCmd_allowed hm hrole, if_neg hform, if_neg (by omega)]

/-- CAL_READ of a unit that has a record answers the record. -/
theorem exec_calRead_found {s : State} {c : MgmtCmd} {x : List Byte} (hm : manages s c) (hrole : opOrBoard c.role = true)
    (h2 : c.arg2 = 0) (h3 : c.arg3 = 0) (hi : c.input = []) (hunit : c.arg1 < (calUnits (c.arg0 % 256)).1)
    (hx : (calRecords s).find? (calIs (c.arg0 % 256) c.arg1) = some x) :
    exec (.calRead c) s = .next (after s (mgmtAnswer c stOk 0 x s)) := by
  have hrow : exec (.calRead c) s = execCalRead c s := rfl
  have hform : ¬ (c.arg2 ≠ 0 ∨ c.arg3 ≠ 0 ∨ c.input ≠ [] ∨ (calUnits (c.arg0 % 256)).1 ≤ c.arg1) := by
    simpa [h2, h3, hi] using hunit
  rw [hrow, execCalRead, mgmtCmd_allowed hm hrole, if_neg hform]
  simp only [hx]

/-- CAL_WRITE of a good record that fits replaces the unit's record, and the offsets of a sensor record apply. -/
theorem exec_calWrite_good {s : State} {c : MgmtCmd} {rs : List (List Byte)}
    (hrs : calReplace (calRecords s)
      (calRecord (fieldAt c.input 0 1) 1 (fieldAt c.input 2 2) s.nv.serial s.tb.now (c.input.drop 32)) = rs)
    (hm : manages s c) (hrole : opOrBoard c.role = true) (hgood : calGood s c.input = true) (hfits : calLength rs ≤ regionBytes) :
    exec (.calWrite c) s = .next (after s (mgmtAnswer c stOk 0 [] (calTakes c.input (calProgram rs s)))) := by
  have hrow : exec (.calWrite c) s = execCalWrite c s := rfl
  rw [hrow, execCalWrite, hrs, mgmtCmd_allowed hm hrole, if_neg (by simp [hgood]), if_neg (Nat.not_lt.mpr hfits)]

/-- RECAL of kind 1 alone waits for the next cold start, with what waits already. -/
theorem exec_recal_hbm {s : State} {c : MgmtCmd} (hm : manages s c) (hrole : opOrBoard c.role = true) (h0 : c.arg0 = 2)
    (h1 : c.arg1 = 0) (h2 : c.arg2 = 0) (h3 : c.arg3 = 0) (hi : c.input = []) (hparts : s.parts = []) :
    exec (.recal c) s = .next (after s (mgmtAnswer c stOk 0 [] { s with nv := { s.nv with
      recalKinds := [1, 3, 4].filter fun k => k == 1 || s.nv.recalKinds.contains k } })) := by
  have hrow : exec (.recal c) s = execRecal c s := rfl
  have hform : ¬ (64 ≤ c.arg0 ∨ c.arg0 % 2 = 1 ∨ ((!bitOf c.arg0 5) = true ∧ c.arg1 ≠ 0) ∨ c.arg2 ≠ 0 ∨ c.arg3 ≠ 0 ∨
      c.input ≠ []) := by
    simp [h0, h1, h2, h3, hi]
  have hlater : ([1, 3, 4].filter fun k => bitOf c.arg0 k) = [1] := by rw [h0]; decide
  have hkind2 : bitOf c.arg0 2 = false := by rw [h0]; decide
  have hkind5 : bitOf c.arg0 5 = false := by rw [h0]; decide
  rw [hrow, execRecal]
  dsimp only
  rw [mgmtCmd_allowed hm hrole, if_neg hform, if_neg (by simp [hparts]), hlater, hkind2, hkind5]
  simp only [Bool.false_eq_true, if_false, List.contains_cons, List.contains_nil, Bool.or_false]

/-! ### Life cycle (R453) -/

/-- LC_TRANSITION that is allowed answers, fuses the state and starts the node. -/
theorem exec_lcTransition_allowed {s : State} {c : MgmtCmd} {sig : SigCheck} {t : Lifecycle} (hm : manages s c)
    (ht : lifecycleOf (c.arg0 % 8) = some t) (h1 : c.arg1 = 0) (h2 : c.arg2 = 0) (h3 : c.arg3 = 0)
    (hall : transitionAllowed s c sig t = true) :
    exec (.lcTransition c sig) s = .next (after s (coldStart (fuseTransition c t (mgmtAnswer c stOk 0 [] s)))) := by
  have hrow : exec (.lcTransition c sig) s = execLcTransition c sig s := rfl
  rw [hrow, execLcTransition, mgmtCmd_allowed hm rfl]
  simp only [ht, h1, h2, h3, hall, ne_eq, not_true_eq_false, or_self, if_false, if_true]

/-- Settles O56: each command by its own lemma. -/
theorem managementCommandsComplete : Obligations.ManagementCommandsComplete := by
  unfold Obligations.ManagementCommandsComplete
  exact ⟨fun _ _ hreach hver htype hplain => exec_mgmtMessage_request hreach hver htype hplain,
    fun _ _ _ hm hrole hok => exec_fwUpdate_verified hm hrole hok,
    fun _ _ _ hreach hrec hok => exec_recoveryLoad_verified hreach hrec hok,
    fun _ _ hm hrole hargs => ⟨exec_enterRecovery_board hm hrole hargs, exec_coldReset_board hm hrole hargs⟩,
    fun _ _ hm hrole hlen hrecs => exec_cfgWrite_valid hm hrole hlen hrecs,
    fun _ _ hm hrole h0 h3 hi h1 h1024 hend hopen => exec_cfgRead_readable hm hrole h0 h3 hi h1 h1024 hend hopen,
    fun _ _ _ hm hrole h2 h3 hi hunit hx => exec_calRead_found hm hrole h2 h3 hi hunit hx,
    fun _ _ hm hrole hgood hfits => exec_calWrite_good rfl hm hrole hgood hfits,
    fun _ _ hm hrole h0 h1 h2 h3 hi hparts => exec_recal_hbm hm hrole h0 h1 h2 h3 hi hparts,
    fun _ _ _ _ hm ht h1 h2 h3 hall => exec_lcTransition_allowed hm ht h1 h2 h3 hall⟩

end Sys2Proof.Machine
end

section
/-!
PROOFS. Power and thermal governance: the commands of sensors, power, fast events and latches (R387, R471, R476 to R478), and how
the thermal step (R474) and the power step (R476) move.
-/

namespace Sys2Proof.Machine

open Sys2Proof

/-! ### The commands -/

theorem exec_sensorSample_cool {s : State} {raw : List (Option Int)} (hp : s.boot.powered = true)
    (htrip : s.boot.thermTrip = false) (hcool : tripSensor (sampled raw s) = none) :
    exec (.sensorSample raw) s = .next (after s (sampled raw s)) := by
  have hrow : exec (.sensorSample raw) s = execSensorSample raw s := rfl
  rw [hrow, execSensorSample, if_neg (by simp [hp, htrip])]
  simp only [hcool, done_eq_after]

theorem governed_not_held {s : State} (h : governed s = true) : ¬ (!governed s) = true := by simp [h]

theorem exec_powerMeasure_governed {s : State} (h : governed s = true) (w : Nat) :
    exec (.powerMeasure w) s = .next (after s
      { s with power := { s.power with frameSum := s.power.frameSum + w, frameCount := s.power.frameCount + 1 } }) := by
  have hrow : exec (.powerMeasure w) s = execPowerMeasure w s := rfl
  rw [hrow, execPowerMeasure, if_neg (governed_not_held h), done_eq_after]

theorem exec_powerFrameEnd_governed {s : State} (h : governed s = true) :
    exec .powerFrameEnd s = .next (after s
      { frameEnded s with power := { (frameEnded s).power with boost := boostAfter s (frameEnded s) } }) := by
  have hrow : exec .powerFrameEnd s = execPowerFrameEnd s := rfl
  rw [hrow, execPowerFrameEnd, if_neg (governed_not_held h)]
  rfl

theorem exec_fastEvent_governed {s : State} (h : governed s = true) {o : Nat} (ho : o < 4) :
    exec (.fastEvent o) s = .next (after s (setClock 2
      { s with power := { s.power with
        fast := true
        boost := false
        fastFrames := 2
        fastEvents := if s.power.fast then s.power.fastEvents else sat32 (s.power.fastEvents + 1) } })) := by
  have hrow : exec (.fastEvent o) s = execFastEvent o s := rfl
  rw [hrow, execFastEvent, if_neg (by simp [h, ho])]
  rfl

theorem exec_throttleLatch_serving {s : State} (h : serving s = true) :
    exec .throttleLatch s = .next (after s
      { s with
        parts := s.parts.map (fun x => (x.1, if 0 < s.dir.step ∨ 0 < s.power.clockStep
          then { x.2 with throtMs := sat32 (x.2.throtMs + 1) } else x.2))
        power := { s.power with latchDir := s.dir.step, latchClk := s.power.clockStep } }) := by
  have hrow : exec .throttleLatch s = execThrottleLatch s := rfl
  rw [hrow, execThrottleLatch, if_neg (serving_not_held h)]
  simp only [Bool.or_eq_true, decide_eq_true_eq, done_eq_after]

theorem exec_pwrCap_allowed {s : State} {c : MgmtCmd} (hm : manages s c) (hrole : c.role = .operator ∨ c.role = .board)
    (hmin : 600 ≤ c.arg0) (hmax : c.arg0 ≤ 1800) (h1 : c.arg1 = 0) (h2 : c.arg2 = 0) (h3 : c.arg3 = 0) (hi : c.input = []) :
    exec (.pwrCap c) s = .next (after s
      (mgmtAnswer c stOk 0 [] { s with power := { s.power with capNext := some (min c.arg0 (pwrLimit s)) } })) := by
  have hrow : exec (.pwrCap c) s = execPwrCap c s := rfl
  have hform : ¬ (c.arg0 < 600 ∨ 1800 < c.arg0 ∨ c.arg1 ≠ 0 ∨ c.arg2 ≠ 0 ∨ c.arg3 ≠ 0 ∨ c.input ≠ []) := by
    simp [h1, h2, h3, hi, hmin, hmax]
  rw [hrow, execPwrCap, mgmtCmd_allowed hm (by simpa using hrole), if_neg hform]

/-- Settles O18: each command by its own lemma. -/
theorem powerCommandsComplete : Obligations.PowerCommandsComplete := by
  unfold Obligations.PowerCommandsComplete
  exact ⟨fun _ _ hp htrip hcool => exec_sensorSample_cool hp htrip hcool,
    fun _ w h => exec_powerMeasure_governed h w,
    fun _ h => exec_powerFrameEnd_governed h,
    fun _ _ h ho => exec_fastEvent_governed h ho,
    fun _ h => exec_throttleLatch_serving h,
    fun _ _ hm hrole hmin hmax h1 h2 h3 hi => exec_pwrCap_allowed hm hrole hmin hmax h1 h2 h3 hi⟩

/-! ### The thermal step (R474) -/

theorem setClock_thermStep (cause : Nat) (s : State) : (setClock cause s).power.thermStep = s.power.thermStep := by
  unfold setClock
  dsimp only
  split <;> simp

theorem setClock_thermNext (cause : Nat) (s : State) : (setClock cause s).power.thermNext = s.power.thermNext := by
  unfold setClock
  dsimp only
  split <;> simp

/-- Reading a sensor moves no thermal step. -/
theorem sampleSensor_thermal (k : Nat) (raw : Option Int) (s : State) :
    (sampleSensor k raw s).power.thermStep = s.power.thermStep ∧ (sampleSensor k raw s).power.thermNext = s.power.thermNext := by
  unfold sampleSensor
  cases raw <;> dsimp only <;> split <;> exact ⟨rfl, rfl⟩

/-- Once every sensor is read, the thermal steps are as they were. -/
theorem foldl_sampleSensor_thermal (raw : List (Option Int)) (ks : List Nat) (s : State) :
    (ks.foldl (fun s k => sampleSensor k (raw.getD k none) s) s).power.thermStep = s.power.thermStep ∧
      (ks.foldl (fun s k => sampleSensor k (raw.getD k none) s) s).power.thermNext = s.power.thermNext := by
  induction ks generalizing s with
  | nil => exact ⟨rfl, rfl⟩
  | cons k ks ih =>
    obtain ⟨hstep, hnext⟩ := ih (sampleSensor k (raw.getD k none) s)
    obtain ⟨hstep', hnext'⟩ := sampleSensor_thermal k (raw.getD k none) s
    exact ⟨hstep.trans hstep', hnext.trans hnext'⟩

/-- The hot refresh intervals are the memory's; they move nothing of power. -/
theorem updHot_power (s : State) : (updHot s).power = s.power :=
  List.foldlRecOn (motive := fun (t : State) => t.power = s.power) _ _ rfl fun _ h _ _ => h

/-- A sample puts the step computed at the last one into force, and computes the next one from the hottest reading. -/
theorem sampled_thermal (raw : List (Option Int)) (s : State) :
    (sampled raw s).power.thermStep = s.power.thermNext ∧
      (sampled raw s).power.thermNext =
        stepAfter [deg 95, deg 100, deg 103] [deg 90, deg 95, deg 99] s.power.thermNext (sampled raw s).power.hotRule := by
  obtain ⟨hstep, hnext⟩ := foldl_sampleSensor_thermal raw (List.range 116) (applyThermal s)
  have hforce : (applyThermal s).power.thermStep = s.power.thermNext := setClock_thermStep 0 _
  have hkept : (applyThermal s).power.thermNext = s.power.thermNext := setClock_thermNext 0 _
  unfold sampled
  dsimp only
  rw [updHot_power]
  exact ⟨hstep.trans hforce, by rw [hnext, hkept]⟩

/-- The thresholds of R474, in sixteenths of a degree, count the step reached. -/
theorem countP_rising (t : Int) :
    ([deg 95, deg 100, deg 103].countP fun x => decide (x ≤ t)) =
      if 1648 ≤ t then 3 else if 1600 ≤ t then 2 else if 1520 ≤ t then 1 else 0 := by
  simp only [deg, List.countP_cons, List.countP_nil, decide_eq_true_eq]
  split_ifs <;> omega

/-- The falling threshold of the step in force, in sixteenths of a degree. -/
theorem falling_getD {old : Nat} (h : old ≠ 0) :
    [deg 90, deg 95, deg 99].getD (old - 1) 0 = if old = 1 then 1440 else if old = 2 then 1520 else if old = 3 then 1584 else 0 := by
  match old, h with
  | 1, _ => rfl
  | 2, _ => rfl
  | 3, _ => rfl
  | n + 4, _ => simp

/-- Settles O20: the step computed is `stepAfter` of the step in force and the hottest reading. -/
theorem thermalStepRule : Obligations.ThermalStepRule := by
  unfold Obligations.ThermalStepRule
  intro s t raw hp htrip hcool ht hottest reached falling old
  rw [exec_sensorSample_cool hp htrip hcool] at ht
  cases ht
  obtain ⟨hstep, hnext⟩ := sampled_thermal raw s
  have hold : old = s.power.thermNext := hstep
  have hrule : (sampled raw s).power.thermNext =
      if old < reached then reached else if old = 0 then 0
      else if hottest < [deg 90, deg 95, deg 99].getD (old - 1) 0 then old - 1 else old := by
    rw [hnext, stepAfter, countP_rising, hold]
  refine ⟨hold, fun hrise => ?_, fun hkeep hpos hcold => ?_, fun hkeep hwarm => ?_⟩
  · exact hrule.trans (if_pos hrise)
  · rw [falling_getD hpos] at hrule
    rw [if_neg (Nat.not_lt.mpr hkeep), if_neg hpos, if_pos hcold] at hrule
    exact hrule
  · rw [if_neg (Nat.not_lt.mpr hkeep)] at hrule
    rcases eq_or_ne old 0 with hzero | hpos
    · rw [if_pos hzero] at hrule
      exact hrule.trans hzero.symm
    · rw [if_neg hpos, falling_getD hpos, if_neg (not_lt.mpr (hwarm.resolve_left hpos))] at hrule
      exact hrule

/-! ### The power step (R476) -/

/-- Settles O22: a frame above the cap raises the step; of one that is not, whether it is low, and the tenth in a row. -/
theorem powerStepRule : Obligations.PowerStepRule := by
  unfold Obligations.PowerStepRule
  intro p cap _
  refine ⟨fun habove => if_pos habove, fun hbelow => ?_⟩
  rw [powerStep, if_neg (Nat.not_lt.mpr hbelow)]
  by_cases hlow : p.frameSum * 100 < 95 * cap * p.frameCount
  · by_cases hten : p.lowFrames + 1 = 10 <;> simp [hlow, hten]
  · simp [hlow]

end Sys2Proof.Machine
end

section
/-!
PROOFS. Faults and wear: the commands of health and repair (R416, R417, R419, R421, R423), the decay of health scores (R424), and the
event log (R428).
-/

namespace Sys2Proof.Machine

open Sys2Proof

/-! ### The event log (R428) -/

/-- The place of the newest record of the log. -/
def EvLog.newest (ev : EvLog) : Nat := (ev.head + 65535) % 65536

/-- An event that repeats a record: the same code, source, partition and unit, within 1 ms, and REPEAT can still count. -/
def EvRec.repeatedBy (r : EvRec) (code source : Nat) (part : Option Nat) (unit now : Nat) : Prop :=
  r.code = code ∧ r.source = source ∧ r.part = part ∧ r.unit = unit ∧ now < r.ts + 1000000 ∧ r.times < 65535

/-- An event that repeats the newest record adds one to its REPEAT. -/
theorem evWrite_repeat {ev : EvLog} {r : EvRec} {code source unit now : Nat} {part : Option Nat} (hnext : ev.next ≠ 0)
    (hr : mfind ev.recs ev.newest = some r) (hsame : r.repeatedBy code source part unit now) (sev : Nat) (args : List Nat) :
    evWrite code sev source part unit args now ev = { ev with recs := mset ev.recs ev.newest { r with times := r.times + 1 } } := by
  unfold EvLog.newest at hr ⊢
  unfold evWrite
  simp only [hr]
  rw [if_pos ⟨hnext, hsame⟩]

/-- Any other event is a record of its own at HEAD. -/
theorem evWrite_fresh {ev : EvLog} {code source unit now : Nat} {part : Option Nat}
    (h : ev.next = 0 ∨ ∀ r, mfind ev.recs ev.newest = some r → ¬ r.repeatedBy code source part unit now) (sev : Nat)
    (args : List Nat) :
    evWrite code sev source part unit args now ev =
      { ev with
        recs := mset ev.recs ev.head ⟨ev.next, now, code, sev, source, part, 1, unit, args⟩
        head := (ev.head + 1) % 65536
        wrapped := ev.wrapped || (ev.head + 1) % 65536 == 0
        overflow := if 65536 ≤ ev.next then sat32 (ev.overflow + 1) else ev.overflow
        next := ev.next + 1
        alerts := if 2 ≤ sev then ev.alerts + 1 else ev.alerts } := by
  unfold EvLog.newest at h
  unfold evWrite
  cases hr : mfind ev.recs ((ev.head + 65535) % 65536) with
  | none => simp only [hr]
  | some r =>
    have hmerge : ¬ (ev.next ≠ 0 ∧ r.repeatedBy code source part unit now) := fun ⟨hnext, hsame⟩ =>
      (h.resolve_left hnext) r hr hsame
    unfold EvRec.repeatedBy at hmerge
    simp only [hr, if_neg hmerge]

/-- Settles O60: a repeated event and a new one, each by the log that it leaves. -/
theorem eventLogRule : Obligations.EventLogRule := by
  unfold Obligations.EventLogRule
  intro s code source unit part args t newest same
  have hev : t.ev = evWrite code (evSev code) source part unit args s.tb.now s.ev := rfl
  refine ⟨fun r hnext hr hsame => ?_, fun h => ?_, rfl⟩
  · rw [hev, evWrite_repeat hnext hr hsame]
    exact ⟨(mfind_mset ..).trans (if_pos rfl), rfl, rfl, rfl, fun k hk => (mfind_mset ..).trans (if_neg hk)⟩
  · rw [hev, evWrite_fresh h]
    exact ⟨(mfind_mset ..).trans (if_pos rfl), rfl, rfl, rfl, fun k hk => (mfind_mset ..).trans (if_neg hk)⟩

/-! ### Health scores (R424) -/

/-- A value of a table whose every value is mapped, where the map keeps the default. -/
theorem mget_map {α : Type} {f : α → α} {d : α} (hd : f d = d) (m : List (Nat × α)) (k : Nat) :
    mget d (m.map fun x => (x.1, f x.2)) k = f (mget d m k) := by
  induction m with
  | nil => exact hd.symm
  | cons c m ih =>
    obtain ⟨a, v⟩ := c
    simp only [List.map_cons, mget, ih]
    split <;> rfl

theorem exec_healthDecay_serving {s : State} (h : serving s = true) :
    exec .healthDecay s = .next (after s { s with health := { s.health with
      pcs := s.health.pcs.map (fun x => (x.1, { x.2 with score := x.2.score - ceilDiv' x.2.score 16 }))
      lanes := s.health.lanes.map (fun x => (x.1, { x.2 with score := x.2.score - ceilDiv' x.2.score 16 }))
      dies := s.health.dies.map (fun x => (x.1, { x.2 with score := x.2.score - ceilDiv' x.2.score 16 })) } }) := by
  have hrow : exec .healthDecay s = execHealthDecay s := rfl
  rw [hrow, execHealthDecay, if_neg (serving_not_held h)]
  rfl

/-- Settles O24: every score of the three tables is mapped, and a unit without a record has score zero. -/
theorem healthScoresDecay : Obligations.HealthScoresDecay := by
  unfold Obligations.HealthScoresDecay
  intro s t g h ht
  rw [exec_healthDecay_serving h] at ht
  cases ht
  have hpc := mget_map (d := ({} : PcHealth)) (f := fun h => { h with score := h.score - ceilDiv' h.score 16 }) rfl s.health.pcs g
  have hlane := mget_map (d := ({} : LaneHealth)) (f := fun h => { h with score := h.score - ceilDiv' h.score 16 }) rfl
    s.health.lanes g
  have hdie := mget_map (d := ({} : DieHealth)) (f := fun h => { h with score := h.score - ceilDiv' h.score 16 }) rfl
    s.health.dies g
  exact ⟨congrArg PcHealth.score hpc, congrArg LaneHealth.score hlane, congrArg DieHealth.score hdie,
    (congrArg PcHealth.state hpc :), rfl, rfl, rfl⟩

/-! ### The commands of health and repair -/

/-- A transient correctable error at the row that a scrub found it in: logged, scored, and written back corrected (R416). -/
theorem exec_memoryError_transient {s : State} {g bank row u : Nat} {es : SymErrors} {rr : List SymErrors} (hs : serving s = true)
    (hin : pcInService s g = true) (hg : g < 768) (hb : bank < 32) (hr : row < 4608) (hfresh : isStale s g bank row = false)
    (hfound : (pcCtl s g).scrubErr = some (bank, row)) (hone : readOutcome es = .correctable)
    (hclass : classify .correctable (rr.map readOutcome) = (true, false))
    (hseen : ((pcHealth s g).transients.countP fun x =>
      x.1 == bank && x.2.1 == row && decide (s.tb.now ≤ x.2.2 + dayNs)) < 3) :
    exec (.memoryError g bank row u es rr) s = .next (after s
      (hbmWrite (unitAddr g bank row u) (decodedData (hbmRead s (unitAddr g bank row u) 64) es)
      (addPc g 1 (updPcHealth g (fun h => { h with
        transients := (h.transients.filter fun x => decide (s.tb.now ≤ x.2.2 + dayNs)) ++ [(bank, row, s.tb.now)] })
        (logEvent 0x0101 (mbSource g) none g [bank, row, 0] (updPc g (fun c => { c with scrubErr := none }) s)))))) := by
  have hrow : exec (.memoryError g bank row u es rr) s = execMemoryError g bank row u es rr s := rfl
  have hgoes : ¬ (!serving s || !pcInService s g || decide (768 ≤ g) || decide (32 ≤ bank) || decide (4608 ≤ row) ||
      (ReadOutcome.correctable == .clean) || isStale s g bank row) = true := by
    simp [hs, hin, hg, hb, hr, hfresh]
  rw [hrow, execMemoryError]
  dsimp only
  rw [hone, if_neg hgoes]
  simp only [hfound, hclass, hseen, beq_self_eq_true, decide_true, Bool.and_self, if_true, reduceCtorEq, if_false,
    done_eq_after]
  rfl

/-- PAGE_REPAIR of a row above the pool, in a bank with a spare row left, remaps it (R419). -/
theorem exec_pageRepair_spare {s : State} {g bank row : Nat} (hs : serving s = true) (hin : pcInService s g = true)
    (hfault : (pcHealth s g).faults.contains (bank, row) = true) (hrow' : 4480 ≤ row) (hspare : hasSpare s g bank = true) :
    exec (.pageRepair g bank row) s = .next (after s (remapRow g bank row s)) := by
  have hrow : exec (.pageRepair g bank row) s = execPageRepair g bank row s := rfl
  have hgoes : ¬ (!serving s || !pcInService s g || !(pcHealth s g).faults.contains (bank, row)) = true := by
    simp only [hs, hin, hfault]; decide
  rw [hrow, execPageRepair, if_neg hgoes, if_neg (Nat.not_lt.mpr hrow'), if_pos hspare, done_eq_after]

/-- PC_RETIRE of a candidate, while no pseudo-channel is degraded-kept, tries to retire the candidate alone (R421, R425). -/
theorem exec_pcRetire_alone {s : State} {g : Nat} (hs : serving s = true) (hcand : (pcHealth s g).candidate ≠ none)
    (hin : pcInService s g = true) (hg : g < 768) (hkept : ∀ x ∈ s.health.pcs, x.2.state ≠ .degradedKept) :
    exec (.pcRetire g) s = .next (after s (tryRetirePc g s)) := by
  have hrow : exec (.pcRetire g) s = execPcRetire g s := rfl
  have hgoes : ¬ (!serving s || (pcHealth s g).candidate.isNone || !pcInService s g || decide (768 ≤ g)) = true := by
    simp [hs, hin, hg, hcand]
  have hnone : s.health.pcs.filter (fun x => x.2.state == .degradedKept) = [] := by simpa using hkept
  rw [hrow, execPcRetire, if_neg hgoes, hnone]
  rfl

/-- LANE_ERROR_WINDOW with too many replays, whose retrain succeeds and is no fourth of its day, notes the retrain (R417). -/
theorem exec_laneErrorWindow_retrained {s : State} {l n : Nat} (hs : serving s = true) (hexists : laneExists l = true)
    (hin : laneIn s l = true) (hover : laneErr s < n)
    (hfew : ((laneHealth s l).retrainTimes.filter fun t => decide (s.tb.now ≤ t + dayNs)).length < 3) :
    exec (.laneErrorWindow l n true) s = .next (after s (logEvent 0x0201 (laneSource l) none l [n]
      (updLane l (fun h => { h with
        retrains := sat32 (h.retrains + 1)
        retrainTimes := ((laneHealth s l).retrainTimes.filter fun t => decide (s.tb.now ≤ t + dayNs)) ++ [s.tb.now]
        probation := 3 }) s))) := by
  have hrow : exec (.laneErrorWindow l n true) s = execLaneErrorWindow l n true s := rfl
  have hgoes : ¬ (!serving s || !laneExists l || !laneIn s l) = true := by simp [hs, hexists, hin]
  rw [hrow, execLaneErrorWindow, if_neg hgoes, if_pos hover]
  dsimp only
  rw [if_pos (by simpa using hfew), done_eq_after]

/-- DIE_LOST of a die that is there takes it out (R423). -/
theorem exec_dieLost_first {s : State} {d : Nat} (hp : s.boot.powered = true) (hstop : s.health.stopped = false)
    (htrip : s.boot.thermTrip = false) (hexists : dieExists d = true) (hthere : dieLost s d = false) :
    exec (.dieLost d) s = .next (after s (loseDie d (abortRuns d (logEvent 0x0204 d none d [] (wearUnit (512 + d)
      { s with health :=
        { s.health with replaceReq := true, dies := mset s.health.dies d { dieHealth s d with lost := true } } }))))) := by
  have hrow : exec (.dieLost d) s = execDieLost d s := rfl
  have hgoes : ¬ (!s.boot.powered || s.health.stopped || s.boot.thermTrip || !dieExists d || dieLost s d) = true := by
    simp [hp, hstop, htrip, hexists, hthere]
  rw [hrow, execDieLost, if_neg hgoes, done_eq_after]

/-- Settles O23: each command by its own lemma. -/
theorem wearCommandsComplete : Obligations.WearCommandsComplete := by
  unfold Obligations.WearCommandsComplete
  exact ⟨fun _ hs => exec_healthDecay_serving hs,
    fun _ _ _ _ _ _ _ hs hin hg hb hr hfresh hfound hone hclass hseen =>
      exec_memoryError_transient hs hin hg hb hr hfresh hfound hone hclass hseen,
    fun _ _ _ _ hs hin hfault hrow hspare => exec_pageRepair_spare hs hin hfault hrow hspare,
    fun _ _ hs hcand hin hg hkept => exec_pcRetire_alone hs hcand hin hg hkept,
    fun _ _ _ hs hexists hin hover hfew => exec_laneErrorWindow_retrained hs hexists hin hover hfew,
    fun _ _ hp hstop htrip hexists hthere => exec_dieLost_first hp hstop htrip hexists hthere⟩

end Sys2Proof.Machine
end

section
/-!
PROOFS. Replication and the host attachment: replicas, page fetches, rebuilds and placement (R398, R404, R407, R409, R410), the rings
(R349 to R354), and the CXL link (R344, R345, R347, R365, R366).
-/

namespace Sys2Proof.Machine

open Sys2Proof

/-! ### Replication -/

/-- A message of replication that is no reply, and asks for no page, is applied and answered (R404). -/
theorem exec_replicaApply_answered {s s2 : State} {cid mseq i total st : Nat} (hs : serving s = true)
    (hin : inboxFind s cid mseq = some (cid, mseq, i, total)) (hmsg : isReply (bufferRead i 0 total s).1 = false)
    (happly : applyMessage (bufOf s i).part (bufferRead i 0 total s).1 (bufferRead i 0 total s).2 = (st, none, s2)) :
    exec (.replicaApply cid mseq) s = .next (after s (answerInbox cid mseq st s2)) := by
  have hrow : exec (.replicaApply cid mseq) s = execReplicaApply cid mseq s := rfl
  rw [hrow, execReplicaApply, if_neg (serving_not_held hs)]
  simp only [hin, hmsg, happly, Bool.false_eq_true, if_false, done_eq_after]

/-- One that asks for a page is answered, and the page is sent over its connection. -/
theorem exec_replicaApply_sends {s s2 : State} {cid mseq i total st m : Nat} {c : Conn} (hs : serving s = true)
    (hin : inboxFind s cid mseq = some (cid, mseq, i, total)) (hmsg : isReply (bufferRead i 0 total s).1 = false)
    (happly : applyMessage (bufOf s i).part (bufferRead i 0 total s).1 (bufferRead i 0 total s).2 = (st, some m, s2))
    (hc : conn? s cid = some c) :
    exec (.replicaApply cid mseq) s = .next (after s
      (sendReply c.peer (bufOf s i).part m (replHead (bufferRead i 0 total s).1) (answerInbox cid mseq st s2))) := by
  have hrow : exec (.replicaApply cid mseq) s = execReplicaApply cid mseq s := rfl
  rw [hrow, execReplicaApply, if_neg (serving_not_held hs)]
  simp only [hin, hmsg, happly, hc, Bool.false_eq_true, if_false, done_eq_after]

/-- A reply of replication is applied and answered (R410). -/
theorem exec_pageFetchReply_reply {s s2 : State} {cid mseq i total st : Nat} (hs : serving s = true)
    (hin : inboxFind s cid mseq = some (cid, mseq, i, total)) (hreply : isReply (bufferRead i 0 total s).1 = true)
    (happly : applyReply (bufOf s i).part (bufferRead i 0 total s).1 (bufferRead i 0 total s).2 = (st, s2)) :
    exec (.pageFetchReply cid mseq) s = .next (after s (answerInbox cid mseq st s2)) := by
  have hrow : exec (.pageFetchReply cid mseq) s = execPageFetchReply cid mseq s := rfl
  rw [hrow, execPageFetchReply, if_neg (serving_not_held hs)]
  simp only [hin, hreply, happly, Bool.not_true, Bool.false_eq_true, if_false, done_eq_after]

/-- A page fetch without its reply for PLT + SKEW loses the page (R407). -/
theorem exec_pageFetchTimeout_late {s : State} {m rseq i j t : Nat} {d : Desc} (hs : serving s = true) (hd : desc? s m = some d)
    (hfetch : d.repl.fetches.find? (fun f => f.1 == rseq) = some (rseq, i, j, t)) (hlate : t + pltNs s + skewNs s ≤ s.tb.now)
    (hsent : fetchUnsent s m rseq = false) :
    exec (.pageFetchTimeout m rseq) s = .next (after s (loseEntry m i j
      (updDesc m (fun d => { d with repl := { d.repl with fetches := d.repl.fetches.filter fun f => f.1 != rseq } }) s))) := by
  have hrow : exec (.pageFetchTimeout m rseq) s = execPageFetchTimeout m rseq s := rfl
  have hwaits : ¬ (s.tb.now < t + pltNs s + skewNs s ∨ fetchUnsent s m rseq = true) := by
    simp [hsent, Nat.not_lt.mpr hlate]
  rw [hrow, execPageFetchTimeout, if_neg (serving_not_held hs)]
  simp only [hd, hfetch, if_neg hwaits, done_eq_after]

/-- The descriptor at the head of those that wait begins its rebuild while fewer than REBUILD_PAR run (R409). -/
theorem exec_rebuildStart_head {s : State} {m : Nat} {move : Bool} {d : Desc} (hs : serving s = true)
    (hroom : rebuilding s < rebuildPar s) (hhead : rebuildHead s = some (m, move)) (hd : desc? s m = some d) :
    exec .rebuildStart s = .next (after s (beginRebuild m move (logEvent 0x0302 srcCt (some d.part) 0
      [d.seqId, d.layerGroup, (replRec d move).node.getD 0, 0] s))) := by
  have hrow : exec .rebuildStart s = execRebuildStart s := rfl
  have hgoes : ¬ (!serving s || decide (rebuildPar s ≤ rebuilding s)) = true := by simp [hs, hroom]
  rw [hrow, execRebuildStart, if_neg hgoes]
  simp only [hhead, hd, done_eq_after]

theorem exec_rebuildPage_rebuilding {s : State} {m : Nat} {d : Desc} (hs : serving s = true) (hd : desc? s m = some d)
    (hstate : d.repl.state = .rebuild) : exec (.rebuildPage m) s = .next (after s (rebuildStep m false d s)) := by
  have hrow : exec (.rebuildPage m) s = execRebuildPage m s := rfl
  rw [hrow, execRebuildPage, if_neg (serving_not_held hs)]
  simp only [hd, hstate, if_true, done_eq_after]

/-- The placement that a descriptor waits for is read, and its replicas are known (R398). -/
theorem exec_placementRead_unread {s s1 : State} {m : Nat} {got : Option (List Byte)} {d : Desc} {ids : List Nat}
    (hs : serving s = true) (hd : desc? s m = some d) (hunread : d.repl.unread = true)
    (happly : applyPlacement m got s = (ids, s1)) :
    exec (.placementRead m got) s = .next (after s (placementKnown m ids s1)) := by
  have hrow : exec (.placementRead m got) s = execPlacementRead m got s := rfl
  rw [hrow, execPlacementRead, if_neg (serving_not_held hs)]
  simp only [hd, hunread, happly, Bool.not_true, Bool.false_eq_true, if_false, done_eq_after]

/-- Settles O47: each command by its own lemma. -/
theorem replicationCommandsComplete : Obligations.ReplicationCommandsComplete := by
  unfold Obligations.ReplicationCommandsComplete
  refine ⟨fun s s2 cid mseq i total st fetch hs hin hmsg happly => ⟨fun hnone => ?_, fun m c hsome hc => ?_⟩,
    fun _ _ _ _ _ _ _ hs hin hreply happly => exec_pageFetchReply_reply hs hin hreply happly,
    fun _ _ _ _ _ _ _ hs hd hfetch hlate hsent => exec_pageFetchTimeout_late hs hd hfetch hlate hsent,
    fun _ _ _ _ hs hroom hhead hd => exec_rebuildStart_head hs hroom hhead hd,
    fun _ _ _ hs hd hstate => exec_rebuildPage_rebuilding hs hd hstate,
    fun _ _ _ _ _ _ hs hd hunread happly => exec_placementRead_unread hs hd hunread happly⟩
  · subst hnone
    exact exec_replicaApply_answered hs hin hmsg happly
  · subst hsome
    exact exec_replicaApply_sends hs hin hmsg happly hc

/-! ### Doorbells and the end of a drain (R349, R352) -/

/-- The guard that ignores a doorbell lets it through on a node that serves, outside viral, for a ring of a partition that stays. -/
theorem doorbell_not_held {s : State} {n r : Nat} (hs : serving s = true) (hviral : s.host.viral = false) (hr : r < 8)
    (hstays : tearingDown s n = false) : ¬ (!serving s || s.host.viral || decide (8 ≤ r) || tearingDown s n) = true := by
  simp [hs, hviral, hr, hstays]

/-- What a doorbell of a submission ring does, by the descriptor's enable bit and the state of the pair (R349). -/
theorem sqDoorbell_described {s : State} {n r a : Nat} (hs : serving s = true) (hviral : s.host.viral = false) (hr : r < 8)
    (hstays : tearingDown s n = false) (ha : descAddr s n r = some a) (hdrain : (ring s n r).draining = false) (tail : Nat) :
    sqDoorbell n r tail s =
      if bitOf (fieldAt (hbmRead s a 64) 0 1) 0 && !(ring s n r).enabled then
        if !versionOffered s.host.select then s else enableRing n r tail (hbmRead s a 64) s
      else if bitOf (fieldAt (hbmRead s a 64) 0 1) 0 then setTail n r tail s
      else if (ring s n r).enabled then setRing n r { ring s n r with draining := true } s
      else s := by
  rw [sqDoorbell, if_neg (doorbell_not_held hs hviral hr hstays)]
  simp only [ha, hdrain, Bool.false_eq_true, if_false]

theorem cqDoorbell_inside {s : State} {n r head : Nat} (hs : serving s = true) (hviral : s.host.viral = false) (hr : r < 8)
    (hstays : tearingDown s n = false) (hon : (ring s n r).enabled = true) (hdrain : (ring s n r).draining = false)
    (hhead : head < 2 ^ (ring s n r).cqLog) :
    cqDoorbell n r head s =
      flushRma n r (ring s n r).rmaDue (setRing n r { ring s n r with cqHead := cqHeadAfter (ring s n r) head } s) := by
  rw [cqDoorbell, if_neg (doorbell_not_held hs hviral hr hstays)]
  dsimp only
  rw [if_neg (by simp [hon, hdrain]), if_neg (Nat.not_le.mpr hhead)]

/-- The end of a drain: the pair forgets all but its counts, and its pages go. -/
theorem exec_ringDrainDone_drained {s : State} {n r : Nat} {x : Ring} (hx : ring s n r = x) (hs : serving s = true)
    (hdrain : x.draining = true) (hempty : x.fetched = []) :
    exec (.ringDrainDone n r) s = .next (after s
      (let s1 := setRing n r { done := x.done, nextIdx := x.nextIdx } s
       releasePages (x.sqPages ++ x.cqPages) (writeRingState n r
        { s1 with host := { s1.host with rmaNoCq := min 255 (s1.host.rmaNoCq + x.rmaDue.length) } }))) := by
  have hrow : exec (.ringDrainDone n r) s = execRingDrainDone n r s := rfl
  have hwaits : ¬ ((!x.draining) = true ∨ x.fetched ≠ []) := by simp [hdrain, hempty]
  rw [hrow, execRingDrainDone, if_neg (serving_not_held hs), hx]
  dsimp only
  rw [if_neg hwaits, done_eq_after]

/-! ### Fetches, NOP and REQUEST (R350, R353, R354) -/

/-- The entry at the head of a pair's submission ring, with its input as it came. -/
def headEntry (s : State) (x : Ring) (a : Nat) (input : Option (List Byte)) : Fetched :=
  { entryFields x.nextIdx s.tb.now (hbmRead s a 64) none with
    input := inputOf s (entryFields x.nextIdx s.tb.now (hbmRead s a 64) none) input }

/-- The state in which a fetched entry begins: it has left the ring, and its input is counted. -/
def entryTaken (n r : Nat) (x : Ring) (f : Fetched) (s : State) : State :=
  let s1 := writeRingState n r (setRing n r
    { x with sqHead := (x.sqHead + 1) % 2 ^ x.sqLog, nextIdx := x.nextIdx + 1, fetched := x.fetched ++ [f] } s)
  if readsInput f.code && f.input.isSome then hostCountRead f.len s1 else s1

/-- A fetched entry that starts: a REQUEST is counted with its partition, and one whose epoch is held back is counted too. -/
theorem exec_commandFetch_starts {s : State} {n r a : Nat} {p : Part} {x : Ring} {f : Fetched} {input : Option (List Byte)}
    (hx : ring s n r = x) (hf : headEntry s x a input = f) (hs : serving s = true) (hstays : tearingDown s n = false)
    (ha : backedAddr x.sqPages (64 * x.sqHead) = some a) (hp : part? s n = some p) (hmay : mayFetch x = true)
    (hfence : f.fence = true → x.fetched = []) (hstatus : entryStatus s f = none) (hrun : f.code = codeRequest → p.running < 256) :
    exec (.commandFetch n r input) s = .next (after s
      (if f.code == codeRequest then
        (if epochRule (entryTaken n r x f s) (f.arg0 / 65536) f.fetchTs = .held then
          updNetDie 0 (fun d => { d with heldCount := sat32 (d.heldCount + 1) })
            (updPart n (fun p => { p with running := p.running + 1 }) (entryTaken n r x f s))
        else updPart n (fun p => { p with running := p.running + 1 }) (entryTaken n r x f s))
      else entryTaken n r x f s)) := by
  have hrow : exec (.commandFetch n r input) s = execCommandFetch n r input s := rfl
  have hgoes : ¬ (!serving s || tearingDown s n) = true := by simp [hs, hstays]
  have hfirst : ¬ (!mayFetch x || (f.fence && !x.fetched.isEmpty) || (f.code == codeRequest && decide (256 ≤ p.running))) = true := by
    simp only [hmay, Bool.or_eq_true, Bool.and_eq_true, Bool.not_eq_true', beq_iff_eq, decide_eq_true_eq, Bool.not_true,
      Bool.false_eq_true, false_or, not_or, not_and, Bool.not_eq_false, List.isEmpty_iff]
    exact ⟨hfence, fun h => Nat.not_le.mpr (hrun h)⟩
  subst hf
  rw [hrow, execCommandFetch, if_neg hgoes, hx]
  simp only [ha, hp]
  refine (if_neg hfirst).trans ?_
  split
  · next st hst => exact absurd (hstatus.symm.trans hst) nofun
  · split
    · next hcode =>
      simp only [decide_eq_true_eq]
      exact congrArg (fun t => Host.Outcome.next (after s t)) (if_pos hcode).symm
    · next hcode => exact congrArg (fun t => Host.Outcome.next (after s t)) (if_neg hcode).symm

theorem exec_nop_turn {s : State} {n r idx : Nat} {x : Fetched} (h : ringTurn s 0x01 n r idx x) :
    exec (.nop n r idx) s = .next (after s (complete n r x.idx stOk 0 s)) := by
  have hrow : exec (.nop n r idx) s = execNop n r idx s := rfl
  rw [hrow, execNop]
  exact done_ringCmd_turn h rfl

/-- A REQUEST of a plain partition under an accepted epoch, new and with its output in reach, runs once it has its admissions. -/
theorem exec_request_admitted {s s1 : State} {n r idx : Nat} {x : Fetched} {p : Part} {remote : List Byte}
    (h : ringTurn s codeRequest n r idx x) (hp : part? s n = some p) (hconf : p.conf = false)
    (hepoch : epochRule s (ringReq n r p x).epoch x.fetchTs = .accepted)
    (hout : x.outLen = 0 ∨ x.outAddr = 0 ∨ hostUsable s = true)
    (hnew : ∀ w ∈ s.dir.waitReqs, w.req.origin ≠ (ringReq n r p x).origin)
    (hintake : intake n (x.arg0 % 256) (ringReq n r p x) s = (true, s1)) :
    exec (.request n r idx remote) s = .next (after s (runRequest (x.arg0 % 256) (ringReq n r p x) remote
      (markStarted n r x.idx (chargeOp n (x.arg0 % 256) x.fetchTs s1)))) := by
  have hrow : exec (.request n r idx remote) s = execRequest n r idx remote s := rfl
  have hwaits : ¬ (s.dir.waitReqs.any fun w => decide (w.req.origin = (ringReq n r p x).origin)) = true := by simpa using hnew
  have hreach : ¬ (0 < x.outLen ∧ x.outAddr ≠ 0 ∧ (!hostUsable s) = true) := by
    rintro ⟨hlen, haddr, hhost⟩
    rcases hout with h0 | h0 | h0
    · omega
    · exact haddr h0
    · simp [h0] at hhost
  rw [hrow, execRequest]
  refine done_ringCmd_turn h ?_
  rw [ringRequest]
  simp only [hp, hconf, if_neg hwaits, hepoch, if_neg hreach, hintake, Bool.false_eq_true, if_false]

/-- Settles O51: each command by its own lemma, a doorbell by the case that its descriptor and its pair give. -/
theorem ringCommandsComplete : Obligations.RingCommandsComplete := by
  unfold Obligations.RingCommandsComplete
  refine ⟨fun s n r tail a hs hviral hr hstays ha hdrain => ⟨fun hbit hon => ?_, fun hbit hoff hver => ?_, fun hbit hon => ?_⟩,
    fun s n r head hs hviral hr hstays hon hdrain hhead =>
      done_eq_of_eq (cqDoorbell_inside hs hviral hr hstays hon hdrain hhead),
    fun s n r hs hdrain hempty => exec_ringDrainDone_drained rfl hs hdrain hempty,
    ?_,
    fun s n r idx x h => exec_nop_turn h,
    fun s s1 n r idx x p remote h hp hconf hepoch hout hnew hintake =>
      exec_request_admitted h hp hconf hepoch hout hnew hintake⟩
  · refine done_eq_of_eq ?_
    rw [sqDoorbell_described hs hviral hr hstays ha hdrain, if_neg (by simp [hon]), if_pos hbit]
  · refine done_eq_of_eq ?_
    rw [sqDoorbell_described hs hviral hr hstays ha hdrain, if_pos (by simp [hbit, hoff]), if_neg (by simp [hver])]
  · refine done_eq_of_eq ?_
    rw [sqDoorbell_described hs hviral hr hstays ha hdrain, if_neg (by simp [hbit]), if_neg (by simp [hbit]), if_pos hon]
  · intro s n r a p input x f0 f s1 s2 hs hstays ha hp hmay hfence hstatus
    have hf : headEntry s x a input = f := rfl
    have hs2 : entryTaken n r x f s = s2 := rfl
    refine ⟨fun hcode => ?_, fun hcode hrun hepoch => ?_⟩
    · rw [exec_commandFetch_starts rfl hf hs hstays ha hp hmay hfence hstatus (absurd · hcode), hs2,
        if_neg (by simpa using hcode)]
    · rw [exec_commandFetch_starts rfl hf hs hstays ha hp hmay hfence hstatus fun _ => hrun, hs2,
        if_pos (by simpa using hcode), hepoch, if_neg nofun]

/-! ### The CXL link (R344, R345, R347, R365, R366) -/

/-- An access of the HDM window that is backed reads or writes HBM; one that meets an uncorrectable codeword raises viral. -/
theorem exec_hdmAccess_backed {s : State} {addr a : Nat} (hs : serving s = true) (hup : s.host.up = true) (hcxl : s.host.cxl = true)
    (haddr : addr < 0x1000000000) (ha : hdmAddr s addr = some a) (write : Bool) (len : Nat) (bytes : List Byte) (bad : Bool) :
    exec (.hdmAccess write addr len bytes bad) s = .next (after s
      (if write then if s.host.viral then s else hbmWrite a (bytes.take len) s
      else if bad then raiseViral 1 (setReadData [] s)
      else setReadData (hbmRead s a len) s)) := by
  have hrow : exec (.hdmAccess write addr len bytes bad) s = execHdmAccess write addr len bytes bad s := rfl
  have hgoes : ¬ (!serving s || !s.host.up || !s.host.cxl || decide (0x1000000000 ≤ addr)) = true := by
    simp [hs, hup, hcxl, haddr]
  rw [hrow, execHdmAccess, if_neg hgoes]
  simp only [ha]
  cases write <;> cases bad <;> rfl

/-- A link reset of a node in viral clears viral, unsets the areas and takes the link down. -/
theorem exec_cxlLinkReset_viral {s : State} (hp : s.boot.powered = true) (hviral : s.host.viral = true) :
    exec .cxlLinkReset s = .next (after s (linkIsDown
      (unsetHost { s with host := { s.host with viral := false, cause := 0, viralTs := 0, aer := false } }))) := by
  have hrow : exec .cxlLinkReset s = execCxlLinkReset s := rfl
  rw [hrow, execCxlLinkReset, if_neg (by simp [hp]), if_pos hviral, done_eq_after]

/-- The link trains with a CXL partner to what both sides offer. -/
theorem exec_cxlLinkTrain_cxl {s : State} {k : CxlPartner} (ht : cxlTrains s = true) (hdown : s.host.up = false)
    (hrec : s.boot.recovery = false) (hk : k.cxl = true) :
    exec (.cxlLinkTrain k) s = .next (after s { s with host :=
      { s.host with
        up := true, cxl := true, negotFail := false, flit256 := k.flit256, latOpt := k.flit256 && k.latOpt
        width := if 16 ≤ k.width then 16 else 8
        speed := min (if k.flit256 then 6 else 5) (max 1 k.speed), viralEn := k.viralEnable } }) := by
  have hrow : exec (.cxlLinkTrain k) s = execCxlLinkTrain k s := rfl
  rw [hrow, execCxlLinkTrain, if_neg (by simp [ht, hdown])]
  dsimp only
  rw [if_neg (by simp [hrec]), if_neg (by simp [hk]), done_eq_after]

theorem exec_hostQueueUncorrectableError_powered {s : State} (hp : s.boot.powered = true) :
    exec .hostQueueUncorrectableError s = .next (after s (raiseViral 2 s)) := by
  have hrow : exec .hostQueueUncorrectableError s = execHostQueueUncorrectableError s := rfl
  rw [hrow, execHostQueueUncorrectableError, if_neg (by simp [hp]), done_eq_after]

theorem exec_doeMailboxMessage_ideKeySetGo {s : State} (hp : s.boot.powered = true) (hrec : s.boot.recovery = false)
    (hup : s.host.up = true) (hcxl : s.host.cxl = true) (key : BitVec 256) :
    exec (.doeMailboxMessage (.ideKeySetGo true key)) s = .next (after s
      { s with host := { s.host with ideCm := some key, doe := s.host.doe ++ [Config.standardResponse 3 [1#8]] } }) := by
  have hrow : exec (.doeMailboxMessage (.ideKeySetGo true key)) s = execDoeMailboxMessage (.ideKeySetGo true key) s := rfl
  have hgoes : ¬ (!s.boot.powered || s.boot.recovery || !s.host.up || !s.host.cxl) = true := by simp [hp, hrec, hup, hcxl]
  rw [hrow]
  unfold execDoeMailboxMessage
  rw [if_neg hgoes]
  rfl

/-- Settles O54: each command by its own lemma. -/
theorem hostLinkCommandsComplete : Obligations.HostLinkCommandsComplete := by
  unfold Obligations.HostLinkCommandsComplete
  refine ⟨fun s addr len a bytes hs hup hcxl haddr ha => ⟨fun hviral => ?_, ?_, ?_⟩,
    fun _ hp hviral => exec_cxlLinkReset_viral hp hviral,
    fun _ _ ht hdown hrec hk => exec_cxlLinkTrain_cxl ht hdown hrec hk,
    fun _ hp => exec_hostQueueUncorrectableError_powered hp,
    fun _ key hp hrec hup hcxl => exec_doeMailboxMessage_ideKeySetGo hp hrec hup hcxl key⟩
  · rw [exec_hdmAccess_backed hs hup hcxl haddr ha, if_pos rfl, if_neg (by simp [hviral])]
  · exact exec_hdmAccess_backed hs hup hcxl haddr ha false len bytes false
  · exact exec_hdmAccess_backed hs hup hcxl haddr ha false len bytes true

end Sys2Proof.Machine
end

section
/-!
PROOFS. The cocoon's commands and the events that touch its keys or raise viral (R365, R374 to R376, R386, R390, R393, R394, R397), and
the commands of self-test (R460, R462, R463, R467, R468).
-/

namespace Sys2Proof.Machine

open Sys2Proof

/-! ### Tamper, self-test failure and watchdog (R365, R393, R394) -/

theorem exec_tamperEvent_powered {s : State} (hp : s.boot.powered = true) :
    exec .tamperEvent s = .next (after s (keysLost (eraseKeys { s with nv := { s.nv with secretErased := true } }))) := by
  have hrow : exec .tamperEvent s = execTamperEvent s := rfl
  rw [hrow, execTamperEvent, if_neg (by simp [hp]), done_eq_after]

theorem exec_cocoonSelfTestFail_first {s : State} (hp : s.boot.powered = true) (herr : s.cocoon.errorState = false) :
    exec .cocoonSelfTestFail s = .next (after s (keysLost (cocoonError s))) := by
  have hrow : exec .cocoonSelfTestFail s = execCocoonSelfTestFail s := rfl
  rw [hrow, execCocoonSelfTestFail, if_neg (by simp [hp, herr]), done_eq_after]

theorem exec_watchdogExpire_powered {s : State} (hp : s.boot.powered = true) :
    exec .watchdogExpire s = .next (after s (raiseViral 3 s)) := by
  have hrow : exec .watchdogExpire s = execWatchdogExpire s := rfl
  rw [hrow, execWatchdogExpire, if_neg (by simp [hp]), done_eq_after]

/-! ### Mailbox and sessions (R374 to R376) -/

/-- A write of CCMB_CTRL with GO and a length that the field admits starts the message. -/
theorem exec_mailboxGo_idle {s : State} {agent : Agent} {value : Nat} (hmay : mayAccess s agent = true)
    (hidle : (mailbox s (agentInst agent)).busy = false) (hgo : bitOf value 0 = true) (hmin : 1 ≤ bitsOf value 48 32)
    (hmax : bitsOf value 48 32 ≤ 65536) :
    exec (.mailboxGo agent value) s = .next (after s (setMailbox (agentInst agent)
      { mailbox s (agentInst agent) with reqLen := bitsOf value 48 32, busy := true } s)) := by
  have hrow : exec (.mailboxGo agent value) s = execMailboxGo agent value s := rfl
  have hlen : bitOf 0xFFFFFFFFFFFFFFFF 32 = true := by decide
  have hbit : bitOf 0xFFFFFFFFFFFFFFFF 0 = true := by decide
  rw [hrow, execMailboxGo, if_pos hmay, writeCtrl]
  simp only [hidle, hlen, hbit, hgo, hmin, hmax, Bool.false_eq_true, if_false, if_true, decide_true, Bool.and_self, done_eq_after]

/-- A key exchange for a role that can be proven opens a session in place of one of the same number. -/
theorem exec_spdmMessage_keyExchange {s : State} {inst sid : Nat} {role : Role} (hserves : spdmServes s inst = true)
    (hroom : (mailbox s inst).sessions.length < 8) (hrole : roleExists s role = true) (hseed : s.cocoon.aliasSeed.isSome = true)
    (herr : s.cocoon.errorState = false) :
    exec (.spdmMessage inst (.keyExchange role sid true)) s = .next (after s
      (mailboxReply inst (Config.standardResponse 5 (leBytes 4 sid)) (setMailbox inst
        { mailbox s inst with sessions := ((mailbox s inst).sessions.filter fun x => x.1 != sid) ++ [(sid, role)] } s))) := by
  have hrow : exec (.spdmMessage inst (.keyExchange role sid true)) s = execSpdmMessage inst (.keyExchange role sid true) s := rfl
  have hproves : ¬ (!true || !roleExists s role || s.cocoon.aliasSeed.isNone || s.cocoon.errorState) = true := by
    simp [hrole, herr, Option.isSome_iff_ne_none.mp hseed]
  rw [hrow, execSpdmMessage, if_neg (by simp [hserves])]
  dsimp only
  rw [if_neg (Nat.not_le.mpr hroom), if_neg hproves, done_eq_after]

/-! ### Partitions and attestation (R386, R390, R397) -/

theorem exec_partCreate_operator {s : State} {c : CocoonCmd} {b : List Byte} (ht : cocoonTurn s c 256 b)
    (hrole : c.role = .operator) (hok : createRefusal s b = none) :
    exec (.partCreate c) s = .next (after s (cocoonAnswer c stOk [] (createPart b s))) := by
  have hrow : exec (.partCreate c) s = execPartCreate c s := rfl
  rw [hrow, execPartCreate, cocoonCmd_turn ht (by simp [hrole])]
  simp only [hok]

/-- PART_TEARDOWN of a partition begins or goes on, and is answered once no work of the partition is left. -/
theorem exec_partTeardown_operator {s : State} {c : CocoonCmd} {b : List Byte} (ht : cocoonTurn s c 8 b)
    (hrole : c.role = .operator) (hn : fieldAt b 0 1 < 64) (hz : allZero (b.drop 1) = true)
    (hp : (part? s (fieldAt b 0 1)).isSome = true) :
    exec (.partTeardown c) s = .next (after s (teardown (fieldAt b 0 1) (cocoonAnswer c stOk []) s)) := by
  have hrow : exec (.partTeardown c) s = execPartTeardown c s := rfl
  have hform : ¬ (64 ≤ fieldAt b 0 1 ∨ (!allZero (b.drop 1)) = true) := by rw [hz]; simp [hn]
  rw [hrow, execPartTeardown, cocoonCmd_turn ht (by simp [hrole])]
  dsimp only
  rw [if_neg hform, if_neg (by simp [Option.isSome_iff_ne_none.mp hp])]

/-- A teardown with work left waits, unanswered (log 77). -/
theorem teardown_busy {n : Nat} {s : State} (hbusy : workLeft (tearing n s) n = true) (answer : State → State) :
    teardown n answer s = tearing n s := by
  rw [teardown]
  exact if_pos hbusy

theorem exec_attestReport_seeded {s : State} {c : CocoonCmd} {b : List Byte} {seed : BitVec 256} (ht : cocoonTurn s c 40 b)
    (hlife : s.nv.lifecycle ≠ .decommissioned) (hseed : s.cocoon.aliasSeed = some seed)
    (hz : allZero (sliceBytes b 33 7) = true) :
    exec (.attestReport c) s = .next (after s
      (cocoonAnswer c stOk (attestReport s seed (sliceBytes b 0 32) (fieldAt b 32 1)) s)) := by
  have hrow : exec (.attestReport c) s = execAttestReport c s := rfl
  rw [hrow, execAttestReport, cocoonCmd_turn ht (by simp [hlife, hseed])]
  dsimp only
  rw [if_neg (by simp [hz]), hseed, Option.getD_some]

/-- Settles O55: each command by its own lemma, a teardown by whether work of the partition is left. -/
theorem cocoonCommandsComplete : Obligations.CocoonCommandsComplete := by
  unfold Obligations.CocoonCommandsComplete
  refine ⟨fun _ hp => exec_tamperEvent_powered hp,
    fun _ hp herr => exec_cocoonSelfTestFail_first hp herr,
    fun _ hp => exec_watchdogExpire_powered hp,
    fun _ _ _ hmay hidle hgo hmin hmax => exec_mailboxGo_idle hmay hidle hgo hmin hmax,
    fun _ _ _ _ hserves hroom hrole hseed herr => exec_spdmMessage_keyExchange hserves hroom hrole hseed herr,
    fun _ _ _ ht hrole hok => exec_partCreate_operator ht hrole hok,
    fun s c b ht hrole hn hz hp => ⟨fun hidle => ?_, fun hbusy => ?_⟩,
    fun _ _ _ _ ht hlife hseed hz => exec_attestReport_seeded ht hlife hseed hz⟩
  · rw [exec_partTeardown_operator ht hrole hn hz hp, teardown_idle hidle]
  · rw [exec_partTeardown_operator ht hrole hn hz hp, teardown_busy hbusy]

/-! ### Self-test (R460, R462, R463) -/

theorem exec_bistRun_allowed {s : State} {c : MgmtCmd} (hm : manages s c) (hrole : c.role = .operator ∨ c.role = .board)
    (htest : testState s = true) (hargs : runArgs c = true) (hclass : testClass (c.arg0 % 65536) < 5) :
    exec (.bistRun c) s = .next (after s (addRun
      { testId := c.arg0 % 65536, reference := referenceFor (c.arg0 % 65536) (c.arg1 + c.arg2 * 2 ^ 32),
        external := bitOf c.arg0 16, cmd := some c } s)) := by
  have hrow : exec (.bistRun c) s = execBistRun c s := rfl
  rw [hrow, execBistRun, mgmtCmd_allowed hm (by simp [hrole, htest]), if_neg (by simp [hargs]),
    if_neg fun h => absurd h.1 (Nat.not_le.mpr hclass)]

/-- A commanded run of a class below boundary scan ends: it is recorded, its command answered, and its unit returned. -/
theorem exec_bistTestEnd_commanded {s : State} {t : Nat} {cap : BistCapture} {r : BistRunning} {c : MgmtCmd}
    (hp : s.boot.powered = true) (hr : s.bist.running.find? (fun r => r.testId == t) = some r) (hc : r.cmd = some c)
    (hclass : testClass t < 5) (good : Bool) :
    exec (.bistTestEnd t ⟨cap, good⟩) s = .next (after s (startWaiting (unitReturns r good
      (mgmtAnswer c stOk 0 (runOutput r cap) (recordRun t (verdictOf r.reference cap) false
        { s with bist := { s.bist with running := s.bist.running.erase r } }))))) := by
  have hrow : exec (.bistTestEnd t ⟨cap, good⟩) s = execBistTestEnd t ⟨cap, good⟩ s := rfl
  rw [hrow, execBistTestEnd, if_neg (by simp [hp])]
  simp only [hr, hc, if_neg (Nat.not_le.mpr hclass), done_eq_after]

/-- An in-service test that passes, with a check frame that holds, is recorded, and its class goes on (R464). -/
theorem exec_bistInService_passes {s : State} {t : Nat} {cap : BistCapture} (hs : serving s = true)
    (hlife : s.nv.lifecycle ≠ .decommissioned) (hexists : testExists t = true) (hclass : testClass t < 5)
    (hin : testedInService s t = true) (hnow : testRunsNow s t = true) (hturn : inServiceTurn s t = true)
    (hfree : engineFree s t = true) (hpass : verdictOf (Config.misrReference t) cap = 1) (retest : Option BistCapture) :
    exec (.bistInService t cap retest true) s = .next (after s (startWaiting (turnTaken t false (recordRun t 1 true s)))) := by
  have hrow : exec (.bistInService t cap retest true) s = execBistInService t cap retest true s := rfl
  have hgoes : ¬ (!serving s || s.nv.lifecycle == .decommissioned || !testExists t || decide (5 ≤ testClass t) ||
      !testedInService s t || !inServiceTurn s t) = true := by
    simp [hs, hlife, hexists, hclass, hin, hturn]
  rw [hrow, execBistInService, if_neg hgoes, if_neg (by simp [hnow]), if_neg (by simp [hfree])]
  simp only [hpass, if_true, done_eq_after]

/-- BIST_COMPAT_OPEN erases the keys, takes the ports down and opens the test access of the forerunner (R468). -/
theorem exec_bistCompatOpen_operator {s : State} {c : MgmtCmd} (hm : manages s c) (hrole : c.role = .operator)
    (hlife : s.nv.lifecycle = .deployed) (hparts : s.parts = []) (h0 : c.arg0 = 0) (h1 : c.arg1 = 0) (h2 : c.arg2 = 0)
    (h3 : c.arg3 = 0) (hi : c.input = []) :
    exec (.bistCompatOpen c) s = .next (after s (logEvent 0x0802 srcCt none 0 [] (mgmtAnswer c stOk 0 []
      (let s2 := portsDown (eraseKeys { s with cocoon := { s.cocoon with readLocked := true } })
       { s2 with mgmt := { s2.mgmt with portsUp := false }, boot := { s2.boot with compatOpen := true } })))) := by
  have hrow : exec (.bistCompatOpen c) s = execBistCompatOpen c s := rfl
  have hform : ¬ (c.arg0 ≠ 0 ∨ c.arg1 ≠ 0 ∨ c.arg2 ≠ 0 ∨ c.arg3 ≠ 0 ∨ c.input ≠ []) := by simp [h0, h1, h2, h3, hi]
  rw [hrow, execBistCompatOpen, mgmtCmd_allowed hm (by simp [hrole, hlife, hparts]), if_neg hform]

/-! ### JTAG (R467) -/

/-- IDCODE of a powered node puts the node's identification on the test port. -/
theorem exec_jtagInstruction_idcode {s : State} (hp : s.boot.powered = true) :
    exec (.jtagInstruction .idcode) s = .next (after s { s with bist := { s.bist with jtagOut := leBytes 4 idcode } }) := by
  have hrow : exec (.jtagInstruction .idcode) s = execJtagInstruction .idcode s := rfl
  rw [hrow, execJtagInstruction, if_neg (by simp [hp]), done_eq_after]

theorem exec_jtagInstruction_bypass (s : State) : exec (.jtagInstruction .bypass) s = .next s :=
  ite_self (done s s)

theorem exec_jtagInstruction_samplePreload (s : State) : exec (.jtagInstruction .samplePreload) s = .next s :=
  ite_self (done s s)

theorem exec_jtagInstruction_bist {s : State} {t : Nat} (hp : s.boot.powered = true) (hopen : jtagOpen s = true)
    (hexists : testExists t = true) (hclass : testClass t < 5) (ref : Nat) :
    exec (.jtagInstruction (.bist t ref)) s = .next (after s
      (addRun { testId := t, reference := referenceFor t ref, external := false, cmd := none } s)) := by
  have hrow : exec (.jtagInstruction (.bist t ref)) s = execJtagInstruction (.bist t ref) s := rfl
  have hgoes : ¬ (!jtagOpen s || !testExists t || (decide (5 ≤ testClass t) && !s.parts.isEmpty)) = true := by
    simp [hopen, hexists, Nat.not_le.mpr hclass]
  rw [hrow, execJtagInstruction, if_neg (by simp [hp]), if_neg hgoes, done_eq_after]

/-- Settles O25: each command by its own lemma. -/
theorem selfTestCommandsComplete : Obligations.SelfTestCommandsComplete := by
  unfold Obligations.SelfTestCommandsComplete
  exact ⟨fun _ _ hm hrole htest hargs hclass => exec_bistRun_allowed hm hrole htest hargs hclass,
    fun _ _ _ _ _ hp hr hc hclass good => exec_bistTestEnd_commanded hp hr hc hclass good,
    fun _ _ _ retest hs hlife hexists hclass hin hnow hturn hfree hpass =>
      exec_bistInService_passes hs hlife hexists hclass hin hnow hturn hfree hpass retest,
    fun _ _ hm hrole hlife hparts h0 h1 h2 h3 hi => exec_bistCompatOpen_operator hm hrole hlife hparts h0 h1 h2 h3 hi,
    fun _ hp => exec_jtagInstruction_idcode hp,
    fun s => ⟨exec_jtagInstruction_bypass s, exec_jtagInstruction_samplePreload s⟩,
    fun _ _ ref hp hopen hexists hclass => exec_jtagInstruction_bist hp hopen hexists hclass ref⟩

end Sys2Proof.Machine
end

section
/-!
PROOFS. Commands that store nothing: their effects, and the helpers that those effects share, leave the byte memories of HBM, of
the host and of the configuration flash.
-/

namespace Sys2Proof.Machine

open Sys2Proof

/-- The three byte memories of `t` are those of `s`. -/
structure KeepsBytes (s t : State) : Prop where
  hbm : t.mem.hbm = s.mem.hbm
  host : t.host.mem = s.host.mem
  nor : t.nv.nor = s.nv.nor

namespace KeepsBytes

theorem refl (s : State) : KeepsBytes s s := ⟨rfl, rfl, rfl⟩

theorem trans {s t u : State} (h : KeepsBytes s t) (k : KeepsBytes t u) : KeepsBytes s u :=
  ⟨k.hbm.trans h.hbm, k.host.trans h.host, k.nor.trans h.nor⟩

/-- Transitivity from the last effect backwards, for a goal that names that effect. -/
theorem comp {s t u : State} (k : KeepsBytes t u) (h : KeepsBytes s t) : KeepsBytes s u := h.trans k

theorem of_eq {s t : State} (hmem : t.mem = s.mem) (hhost : t.host = s.host) (hnv : t.nv = s.nv) : KeepsBytes s t :=
  ⟨by rw [hmem], by rw [hhost], by rw [hnv]⟩

theorem ite {s t u : State} {p : Prop} [Decidable p] (ht : KeepsBytes s t) (hu : KeepsBytes s u) :
    KeepsBytes s (if p then t else u) := by
  split <;> assumption

theorem foldl {α : Type} {f : State → α → State} (hf : ∀ s x, KeepsBytes s (f s x)) (l : List α) (s : State) :
    KeepsBytes s (l.foldl f s) := by
  induction l generalizing s with
  | nil => exact refl s
  | cons x l ih => exact (hf s x).trans (ih (f s x))

theorem sameMemory {s t : State} (h : KeepsBytes s t) : sameMemory s t := fun _ => by simp only [h.hbm, h.host, h.nor, and_self]

end KeepsBytes

/-! ### Helpers of the state -/

theorem touch_keepsBytes (t : Nat) (s : State) : KeepsBytes s (touch t s) :=
  .of_eq (touch_mem t s) (touch_host t s) (touch_nv t s)

theorem updPart_keepsBytes (n : Nat) (f : Part → Part) (s : State) : KeepsBytes s (updPart n f s) :=
  .of_eq (updPart_mem n f s) (updPart_host n f s) (updPart_nv n f s)

theorem updJob_keepsBytes (j : Nat) (f : Job → Job) (s : State) : KeepsBytes s (updJob j f s) :=
  .of_eq (updJob_mem j f s) (updJob_host j f s) (updJob_nv j f s)

theorem updDirDie_keepsBytes (d : Nat) (f : DirDie → DirDie) (s : State) : KeepsBytes s (updDirDie d f s) :=
  .of_eq (updDirDie_mem d f s) (updDirDie_host d f s) (updDirDie_nv d f s)

theorem setMailbox_keepsBytes (i : Nat) (m : Mailbox) (s : State) : KeepsBytes s (setMailbox i m s) :=
  .of_eq (setMailbox_mem i m s) (setMailbox_host i m s) (setMailbox_nv i m s)

theorem mailboxReply_keepsBytes (i : Nat) (bs : List Byte) (s : State) : KeepsBytes s (mailboxReply i bs s) :=
  setMailbox_keepsBytes i _ s

theorem cocoonAnswer_keepsBytes (c : CocoonCmd) (st : Nat) (bs : List Byte) (s : State) :
    KeepsBytes s (cocoonAnswer c st bs s) :=
  mailboxReply_keepsBytes c.inst _ s

/-! ### Helpers of the timebase and the links (R262, R305, R313, R323, R464) -/

theorem startTest_keepsBytes (r : BistRunning) (s : State) : KeepsBytes s (startTest r s) := by
  unfold startTest
  dsimp only
  split
  case h_4 =>
    refine .ite ⟨rfl, rfl, rfl⟩ ?_
    split <;> exact ⟨rfl, rfl, rfl⟩
  all_goals exact ⟨rfl, rfl, rfl⟩

theorem tryRun_keepsBytes (r : BistRunning) (s : State) : KeepsBytes s (tryRun r s) :=
  .ite ⟨rfl, rfl, rfl⟩ (.ite (startTest_keepsBytes r s) ⟨rfl, rfl, rfl⟩)

theorem retryDeferred_keepsBytes (n : Nat) (s : State) : KeepsBytes s (retryDeferred n s) := by
  have hrun (s : State) (r : BistRunning) (k : Nat) :
      KeepsBytes s { tryRun r s with bist := { (tryRun r s).bist with deferred := k } } :=
    (tryRun_keepsBytes r s).trans ⟨rfl, rfl, rfl⟩
  refine .ite (.refl s) (.comp (.foldl (fun s r => ?_) s.bist.waiting _) ⟨rfl, rfl, rfl⟩)
  exact .ite ⟨rfl, rfl, rfl⟩ (.ite (tryRun_keepsBytes r s) (hrun s r _))

theorem chargeAt_keepsBytes (n t : Nat) (f : Charge → Charge) (s : State) : KeepsBytes s (chargeAt n t f s) :=
  updPart_keepsBytes n _ s

theorem chargePages_keepsBytes (t : Nat) (s : State) : KeepsBytes s (chargePages t s) :=
  .foldl (fun _ _ => chargeAt_keepsBytes ..) s.parts s

theorem chargeSlots_keepsBytes (t : Nat) (s : State) : KeepsBytes s (chargeSlots t s) := by
  unfold chargeSlots
  split
  · exact .refl s
  · refine .foldl (fun s e => ?_) _ s
    split
    · exact .refl s
    · exact chargeAt_keepsBytes e.part t _ s

theorem noteOverruns_keepsBytes (s : State) : KeepsBytes s (noteOverruns s) := by
  unfold noteOverruns
  split
  · exact .refl s
  · refine .foldl (fun s x => ?_) s.sched.jobs s
    split
    · exact .ite ((updJob_keepsBytes ..).comp ⟨rfl, rfl, rfl⟩) (.refl s)
    · exact .refl s

theorem unlock_keepsBytes (port : Nat) (o : Int) (s : State) : KeepsBytes s (unlock port o s) := ⟨rfl, rfl, rfl⟩

theorem takeOffset_keepsBytes (port : Nat) (o : Int) (s : State) : KeepsBytes s (takeOffset port o s) := by
  refine .ite ⟨rfl, rfl, rfl⟩ ?_
  exact .ite (.ite ⟨rfl, rfl, rfl⟩ ⟨rfl, rfl, rfl⟩) (.ite ⟨rfl, rfl, rfl⟩ ⟨rfl, rfl, rfl⟩)

theorem loadRoot_keepsBytes (time : Nat) (s : State) : KeepsBytes s (loadRoot time s) := .ite ⟨rfl, rfl, rfl⟩ ⟨rfl, rfl, rfl⟩

theorem settlePort_keepsBytes (p mask : Nat) (s : State) : KeepsBytes s (settlePort p mask s) := by
  refine .ite (.ite (.refl s) (.ite ⟨rfl, rfl, rfl⟩ ⟨rfl, rfl, rfl⟩)) ?_
  exact .ite (.ite (.refl s) ⟨rfl, rfl, rfl⟩) ⟨rfl, rfl, rfl⟩

/-! ### Helpers of power, traffic and the directory (R103, R477) -/

theorem setClock_keepsBytes (cause : Nat) (s : State) : KeepsBytes s (setClock cause s) := .ite (.refl s) ⟨rfl, rfl, rfl⟩

theorem frameEnded_keepsBytes (s : State) : KeepsBytes s (frameEnded s) := (setClock_keepsBytes 1 _).comp ⟨rfl, rfl, rfl⟩

theorem noteWait_keepsBytes (port n : Nat) (s : State) : KeepsBytes s (noteWait port n s) := by
  unfold noteWait
  dsimp only
  split
  case h_3 => exact .refl s
  all_goals exact ⟨rfl, rfl, rfl⟩

theorem useQuota_keepsBytes (n d k : Nat) (s : State) : KeepsBytes s (useQuota n d k s) :=
  .ite (.refl s) (updDirDie_keepsBytes d _ s)

theorem admitAll_keepsBytes (d fuel : Nat) (s : State) : KeepsBytes s (admitAll d fuel s) := by
  induction fuel generalizing s with
  | zero => exact .refl s
  | succ fuel ih =>
    unfold admitAll
    split
    · exact .refl s
    · have hmoved := updDirDie_keepsBytes d
      refine .trans (.trans ?_ (useQuota_keepsBytes _ d 1 _)) (ih _)
      exact .ite ((hmoved _ s).trans (useQuota_keepsBytes ..)) (hmoved _ s)

theorem dirRepair_keepsBytes (a : Nat) (s : State) : KeepsBytes s (dirRepair a s) := by
  unfold dirRepair
  split <;> exact ⟨rfl, rfl, rfl⟩

theorem rewriteCleared_keepsBytes (d : Nat) (s : State) : KeepsBytes s (rewriteCleared d s) :=
  (updDirDie_keepsBytes d _ s).trans (.foldl (fun s a => dirRepair_keepsBytes a s) _ _)

theorem dirUncorrected_keepsBytes (a : Nat) (s : State) : KeepsBytes s (dirUncorrected a s) :=
  (updDirDie_keepsBytes _ _ s).trans ⟨rfl, rfl, rfl⟩

/-! ### Helpers of the mailboxes and of management (R376, R455) -/

theorem writeCtrl_keepsBytes (inst mask value : Nat) (s : State) : KeepsBytes s (writeCtrl inst mask value s) :=
  .ite (.refl s) (setMailbox_keepsBytes inst _ s)

theorem accessFaults_keepsBytes (f : Nat → Nat) (l : List Nat) (s : State) :
    KeepsBytes s (l.foldl (fun s i => accessFault (f i) s) s) :=
  .foldl (f := fun s i => accessFault (f i) s) (fun _ _ => ⟨rfl, rfl, rfl⟩) l s

theorem takePiece_keepsBytes (c : MgmtCmd) (code : Nat) (s : State) : KeepsBytes s (takePiece c code s) := by
  refine .ite ⟨rfl, rfl, rfl⟩ (.ite ⟨rfl, rfl, rfl⟩ ?_)
  split <;> exact ⟨rfl, rfl, rfl⟩

theorem takeRequestMsg_keepsBytes (m : MgmtMsg) (s : State) : KeepsBytes s (takeRequestMsg m s) := by
  refine .ite ⟨rfl, rfl, rfl⟩ (.ite ⟨rfl, rfl, rfl⟩ (.ite ⟨rfl, rfl, rfl⟩ (.ite ⟨rfl, rfl, rfl⟩ (.ite ⟨rfl, rfl, rfl⟩ ?_))))
  exact .ite (takePiece_keepsBytes _ _ s) ⟨rfl, rfl, rfl⟩

theorem takeSpdm_keepsBytes (m : MgmtMsg) (s : State) : KeepsBytes s (takeSpdm m s) :=
  .ite (.refl s) (setMailbox_keepsBytes 1 _ s)

/-! ### Commands -/

/-- The command goes on into no state but one with the bytes of `s`. -/
def Spares (s : State) (o : Host.Outcome State Fault Refusal) : Prop := ∀ t, o = .next t → KeepsBytes s t

theorem spares_done {s t : State} (h : KeepsBytes s t) : Spares s (done s t) := by
  rintro _ ⟨⟩
  exact ⟨h.hbm, h.host, h.nor⟩

theorem spares_same (s : State) : Spares s (done s s) := spares_done (.refl s)

/-- A guard spares the bytes when both its branches do. -/
theorem spares_ite {s : State} {p : Prop} [Decidable p] {a b : Host.Outcome State Fault Refusal} (ha : Spares s a)
    (hb : Spares s b) : Spares s (if p then a else b) := by
  split <;> assumption

/-- A command with one guard, which does nothing when it is held. -/
theorem spares_guard {s t : State} {p : Prop} [Decidable p] (h : KeepsBytes s t) :
    Spares s (if p then done s s else done s t) :=
  spares_ite (spares_same s) (spares_done h)

theorem mgmtCmd_spares {c : MgmtCmd} {a : Bool} {s t : State} (h : KeepsBytes s t) : Spares s (mgmtCmd c a s t) :=
  spares_ite (spares_same s) (spares_ite (spares_done ⟨rfl, rfl, rfl⟩) (spares_done h))

theorem cocoonCmd_spares {c : CocoonCmd} {a : Bool} {n : Nat} {s : State} {f : List Byte → State → State}
    (h : ∀ b, KeepsBytes s (f b s)) : Spares s (cocoonCmd c a n s f) := by
  have hanswer (st : Nat) := spares_done (cocoonAnswer_keepsBytes c st [] s)
  refine spares_ite (spares_same s) (spares_ite (hanswer _) ?_)
  split
  · exact hanswer _
  · exact spares_done (h _)

theorem timebaseTick_spares (s : State) : Spares s (exec .timebaseTick s) := by
  refine spares_guard ?_
  have hnoted (s : State) : KeepsBytes s (setHoldover (noteOverruns s)) := .trans (noteOverruns_keepsBytes s) ⟨rfl, rfl, rfl⟩
  refine (hnoted _).comp ((chargePages_keepsBytes _ _).comp ((chargeSlots_keepsBytes _ _).comp ?_))
  exact (retryDeferred_keepsBytes _ _).comp ⟨rfl, rfl, rfl⟩

theorem timebaseMarkerReceive_spares (port peerSend peerLastRx at_ : Nat) (s : State) :
    Spares s (exec (.timebaseMarkerReceive port peerSend peerLastRx at_) s) := by
  have hseen (m : MarkerPort) : KeepsBytes s (setMarkerPort port m (touch at_ s)) :=
    (touch_keepsBytes at_ s).trans ⟨rfl, rfl, rfl⟩
  have htaken (b : Bool) (o : Int) (t : State) (h : KeepsBytes s t) : KeepsBytes s (if b then takeOffset port o t else t) :=
    .ite (h.trans (takeOffset_keepsBytes port o t)) h
  have hmarked (b : Bool) (t : State) (h : KeepsBytes s t) :
      KeepsBytes s (if b then { t with tb := { t.tb with lastMarker := t.tb.now } } else t) :=
    .ite (h.trans ⟨rfl, rfl, rfl⟩) h
  exact spares_guard ((hmarked _ _ (htaken _ _ _ (hseen _))).trans ⟨rfl, rfl, rfl⟩)

theorem linkUp_spares (port peerVersions lanes : Nat) (second : Bool) (s : State) :
    Spares s (exec (.linkUp port peerVersions lanes second) s) := by
  refine spares_ite (spares_same s) (spares_ite ?_ (spares_ite ?_ (spares_ite (spares_done ⟨rfl, rfl, rfl⟩) (spares_same s))))
  · refine spares_ite (spares_same s) ?_
    split <;> exact spares_done ⟨rfl, rfl, rfl⟩
  · exact spares_ite (spares_done ⟨rfl, rfl, rfl⟩) (spares_same s)

theorem neighborDiscovery_spares (port : Nat) (second : Bool) (mac : Nat) (s : State) :
    Spares s (exec (.neighborDiscovery port second mac) s) := by
  have hhop (p : Prop) [Decidable p] (f : Port → Port) : Spares s (if p then done s (updPort port f s) else done s s) :=
    spares_ite (spares_done ⟨rfl, rfl, rfl⟩) (spares_same s)
  exact spares_ite (spares_same s) (spares_ite (hhop _ _) (hhop _ _))

theorem directoryQuotaWindow_spares (s : State) : Spares s (exec .directoryQuotaWindow s) := by
  refine spares_guard (.trans ?_ ((admitAll_keepsBytes 0 _ _).trans (admitAll_keepsBytes 1 _ _)))
  exact (updDirDie_keepsBytes 1 _ _).comp ((updDirDie_keepsBytes 0 _ _).comp ⟨rfl, rfl, rfl⟩)

theorem directoryScrub_spares (die : Nat) (found : ReadOutcome) (s : State) : Spares s (exec (.directoryScrub die found) s) := by
  have hcleared := rewriteCleared_keepsBytes die s
  have hread := hcleared.trans (updDirDie_keepsBytes die (fun x => { x with scrubPos := (x.scrubPos + 1) % 2097152 }) _)
  refine spares_ite (spares_same s) (spares_ite (spares_done hcleared) ?_)
  cases found with
  | clean => exact spares_done hread
  | correctable => exact spares_done (hread.trans (updDirDie_keepsBytes die _ _))
  | uncorrectable =>
    refine spares_done ((dirUncorrected_keepsBytes _ _).comp ((updDirDie_keepsBytes die _ _).comp ?_))
    exact hread.trans ⟨rfl, rfl, rfl⟩

theorem cxlLinkTrain_spares (partner : CxlPartner) (s : State) : Spares s (exec (.cxlLinkTrain partner) s) := by
  refine spares_ite (spares_same s) (spares_ite (spares_done ⟨rfl, rfl, rfl⟩) (spares_ite ?_ ?_))
  all_goals exact spares_done ⟨rfl, rfl, rfl⟩

theorem contextSwitch_spares (core : Nat) (skipper : Option Nat) (n ns : Nat) (s : State) :
    Spares s (exec (.contextSwitch core skipper n ns) s) := by
  have hcounted (b : Bool) (f : AttDie → AttDie) : KeepsBytes s (if b then updAttDie (core / 4) f s else s) :=
    .ite ⟨rfl, rfl, rfl⟩ (.refl s)
  exact spares_guard ((hcounted _ _).trans ⟨rfl, rfl, rfl⟩)

theorem tcSet_spares (c : MgmtCmd) (s : State) : Spares s (exec (.tcSet c) s) :=
  mgmtCmd_spares (.ite ⟨rfl, rfl, rfl⟩ (.ite ⟨rfl, rfl, rfl⟩ (.ite ⟨rfl, rfl, rfl⟩ ⟨rfl, rfl, rfl⟩)))

theorem keyInstall_spares (c : CocoonCmd) (s : State) : Spares s (exec (.keyInstall c) s) := by
  have hrow : exec (.keyInstall c) s = execKeyInstall c s := rfl
  rw [hrow, execKeyInstall]
  refine cocoonCmd_spares fun b => ?_
  have hanswer (st : Nat) := cocoonAnswer_keepsBytes c st [] s
  exact .ite (hanswer _) (.ite (hanswer _) ((updPart_keepsBytes _ _ s).trans (cocoonAnswer_keepsBytes ..)))

theorem sakInstall_spares (c : CocoonCmd) (s : State) : Spares s (exec (.sakInstall c) s) := by
  have hrow : exec (.sakInstall c) s = execSakInstall c s := rfl
  rw [hrow, execSakInstall]
  exact cocoonCmd_spares fun _ => .ite (cocoonAnswer_keepsBytes ..) ((cocoonAnswer_keepsBytes ..).comp ⟨rfl, rfl, rfl⟩)

theorem regRead_spares (c : CocoonCmd) (s : State) : Spares s (exec (.regRead c) s) := by
  have hrow : exec (.regRead c) s = execRegRead c s := rfl
  rw [hrow, execRegRead]
  exact cocoonCmd_spares fun _ => .ite (cocoonAnswer_keepsBytes ..) (cocoonAnswer_keepsBytes ..)

theorem calRead_spares (c : MgmtCmd) (s : State) : Spares s (exec (.calRead c) s) := by
  refine mgmtCmd_spares (.ite ⟨rfl, rfl, rfl⟩ ?_)
  split <;> exact ⟨rfl, rfl, rfl⟩

theorem regReadM_spares (c : MgmtCmd) (s : State) : Spares s (exec (.regReadM c) s) := by
  refine spares_ite (spares_same s) (spares_ite ?_ (spares_ite ?_ (spares_ite ?_ ?_)))
  case refine_3 => exact spares_done ((accessFaults_keepsBytes _ _ s).trans ⟨rfl, rfl, rfl⟩)
  all_goals exact spares_done ⟨rfl, rfl, rfl⟩

theorem frondLoad_spares (c : MgmtCmd) (s : State) : Spares s (exec (.frondLoad c) s) := by
  refine mgmtCmd_spares ?_
  split <;> exact ⟨rfl, rfl, rfl⟩

theorem spdmMessage_spares (inst : Nat) (m : SpdmMsg) (s : State) : Spares s (exec (.spdmMessage inst m) s) := by
  have hreply (bs : List Byte) := spares_done (mailboxReply_keepsBytes inst bs s)
  refine spares_ite (spares_same s) ?_
  cases m with
  | keyExchange role sid authentic =>
    refine spares_ite (hreply _) (spares_ite (hreply _) (spares_done ?_))
    exact (setMailbox_keepsBytes inst _ s).trans (mailboxReply_keepsBytes inst _ _)
  | endSession sid =>
    refine spares_done (.trans (.trans ?_ (setMailbox_keepsBytes inst _ _)) (mailboxReply_keepsBytes inst _ _))
    exact ⟨rfl, rfl, rfl⟩
  | other bytes => exact hreply _

theorem doeMailboxMessage_spares (m : DoeMsg) (s : State) : Spares s (exec (.doeMailboxMessage m) s) := by
  refine spares_ite (spares_same s) ?_
  dsimp only
  split <;> exact spares_done ⟨rfl, rfl, rfl⟩

theorem mgmtMessage_spares (m : MgmtMsg) (s : State) : Spares s (exec (.mgmtMessage m) s) := by
  have hrefused : Spares s (done s (headerRefused m s)) := spares_done ⟨rfl, rfl, rfl⟩
  refine spares_ite (spares_same s) (spares_ite hrefused ?_)
  split
  · dsimp only
    split
    · exact spares_done ⟨rfl, rfl, rfl⟩
    · exact spares_done (takeRequestMsg_keepsBytes m s)
  · exact spares_same s
  · exact spares_done (takeSpdm_keepsBytes m s)
  · exact hrefused

/-- Every command that stores nothing spares the bytes: by its own lemma, or because its effect updates other fields alone. -/
theorem exec_spares {c : Instr} (h : storesNothing c = true) (s : State) : Spares s (exec c s) := by
  cases c
  case timebaseTick => exact timebaseTick_spares s
  case timebaseMarkerReceive port send rx at_ => exact timebaseMarkerReceive_spares port send rx at_ s
  case linkUp port vs lanes second => exact linkUp_spares port vs lanes second s
  case neighborDiscovery port second mac => exact neighborDiscovery_spares port second mac s
  case directoryQuotaWindow => exact directoryQuotaWindow_spares s
  case directoryScrub die found => exact directoryScrub_spares die found s
  case cxlLinkTrain partner => exact cxlLinkTrain_spares partner s
  case contextSwitch core skipper n ns => exact contextSwitch_spares core skipper n ns s
  case tcSet c => exact tcSet_spares c s
  case keyInstall c => exact keyInstall_spares c s
  case sakInstall c => exact sakInstall_spares c s
  case regRead c => exact regRead_spares c s
  case calRead c => exact calRead_spares c s
  case regReadM c => exact regReadM_spares c s
  case frondLoad c => exact frondLoad_spares c s
  case spdmMessage inst m => exact spdmMessage_spares inst m s
  case doeMailboxMessage m => exact doeMailboxMessage_spares m s
  case mgmtMessage m => exact mgmtMessage_spares m s
  case pwrCap => exact mgmtCmd_spares (.ite ⟨rfl, rfl, rfl⟩ ⟨rfl, rfl, rfl⟩)
  case enterRecovery => exact mgmtCmd_spares (.ite ⟨rfl, rfl, rfl⟩ ⟨rfl, rfl, rfl⟩)
  case spillAreaSet | cfgRead | mapCommit => exact mgmtCmd_spares (.ite ⟨rfl, rfl, rfl⟩ (.ite ⟨rfl, rfl, rfl⟩ ⟨rfl, rfl, rfl⟩))
  case timebaseMarkerSend => exact spares_ite (spares_same s) (spares_guard ⟨rfl, rfl, rfl⟩)
  case refreshDue => exact spares_ite (spares_same s) (spares_guard ⟨rfl, rfl, rfl⟩)
  case holdoverExpire | quarantineEnd | powerMeasure | throttleLatch | healthDecay | policerRefill | tcChangeApply | queueSample |
      dvsecSelect =>
    exact spares_guard ⟨rfl, rfl, rfl⟩
  case ptpTimebaseLoad time => exact spares_guard (loadRoot_keepsBytes time s)
  case linkDown port good => exact spares_guard (settlePort_keepsBytes port _ s)
  case powerFrameEnd => exact spares_guard ((frameEnded_keepsBytes s).trans ⟨rfl, rfl, rfl⟩)
  case fastEvent => exact spares_guard ((setClock_keepsBytes 2 _).comp ⟨rfl, rfl, rfl⟩)
  case shaperRefill => exact spares_guard (.comp (.foldl (fun _ _ => noteWait_keepsBytes ..) _ _) ⟨rfl, rfl, rfl⟩)
  case mailboxGo => exact spares_ite (spares_done (writeCtrl_keepsBytes ..)) (spares_same s)
  all_goals exact Bool.noConfusion h

/-- Settles O7: the bytes of a memory that is kept read as before at every address. -/
theorem memoryFrame : Obligations.MemoryFrame := by
  unfold Obligations.MemoryFrame
  intro c s t hc ht
  exact (exec_spares hc s t ht).sameMemory

end Sys2Proof.Machine
end
